-- ==== Sys2Proof/Word.lean ====
section
/-! DEFINITION. Words and bytes of the H7. -/

namespace Sys2Proof

/-- A byte of memory. -/
abbrev Byte := BitVec 8
/-- An AP scalar register (R165). -/
abbrev Word64 := BitVec 64
/-- An XP scalar register or a lane (R166). -/
abbrev Word32 := BitVec 32
/-- A vector register: 256 bytes, byte j in bits [8j+7:8j] (R166, R33). -/
abbrev Vec := BitVec 2048
/-- The poison of a vector: one bit per aligned 8-byte chunk (R173). -/
abbrev VPois := BitVec 32

end Sys2Proof
end

