-- ==== Sys2Proof/Config.lean ====
section
/-! DEFINITION. What the part fixes, and the free values of the model: values the spec leaves open or leaves to a standard
it only names. No free value has a body, so nothing can be proved of it. -/

namespace Sys2Proof.Config

/-- SR_ARCHREV and DEVID of the PLN-H7-A (Table 07-3): PART 0007h, ARCH 01h, STEP 00h. -/
def archRev : BitVec 64 := 0x0000000700000100

/-- Architecture revision (R1). -/
def arch : Nat := 1

/-- Bytes of one scratchpad (R2). -/
def scratchSize : Nat := 0x200000

/-- Bytes of one IMEM (R2). -/
def imemSize : Nat := 0x40000

/-- Free value (log entry 2): the bytes from DRAM offset 0 on that the boot ROM takes as a firmware image; R461 names no format. -/
opaque firmwareSize : Nat

/-- Free values (log entry 2): whether a step of the boot ROM fails, with its failure code less 1: the training; the verification of
a firmware image, and its security version, by its bytes. The LMS arithmetic, the fuses and the failure codes are not in the spec
(R461). -/
opaque trainVerdict : Nat → Option (Fin 255)
opaque firmwareVerdict : List Byte → Option (Fin 255)
opaque firmwareVersion : List Byte → Option (Fin 255)

/-- Free values (log entry 2): the word of a firmware image at which the code for IMEM begins, and where it starts the system contexts
(R461 names no format and no entry). -/
opaque firmwareCode : List Byte → BitVec 32
opaque firmwareEntry : List Byte → BitVec 18

/-- Free values (log entries 2 and 96): the digest of an image, the device key that it and the fused secret make, the
measurements that are not a digest, and the bytes of an answer to an SPDM request, by the request, the key and the
measurements (R462 names the standard and the algorithms only). -/
opaque imageDigest : List Byte → List Byte
opaque deviceKey : List Byte → List Byte
opaque romRevision : List Byte
opaque securityVersions : List Byte → List Byte
opaque fuseConfig : List Byte
opaque spdmAnswer : List Byte → List Byte → List (Nat × List Byte) → Nat → List Byte
opaque spdmRefusal : List Byte → List Byte

/-- Free value (log entry 40): the hottest junction, as a read of THERM finds it. -/
opaque junction : Nat → BitVec 16

/-- Free value (log entry 2): the arithmetic of the PTM and IEEE 1588 servos (R460 names the standards only): the rate
adjustment and the offset that a timing message leads to. -/
opaque servoRate : Nat → BitVec 32
opaque servoOffset : Nat → BitVec 64

/-- Free value (log entry 2): byte `i` of the data that a read refused at a port returns, marked poisoned (R66). -/
opaque openByte : Nat → Nat → Byte

/-- Free value (log entry 2): the code of a kind of storage in an error-log entry (Table 16-10 gives no codes). -/
opaque storageKind : Nat → BitVec 8

/-- Free value (log entry 83): the code of a place in a register file, the array or IMEM in an error-log entry. -/
opaque errorPlace : Nat → Nat

/-- Free value (log entry 2): the code that BOOTSTAT shows for a step of the boot ROM (Table 20-2 gives no codes). -/
opaque bootCode : Nat → BitVec 8

/-- Free value (log entry 2): the class of the device-log entry of R463 (Table 16-10 gives it none). -/
opaque thermalClass : Nat → BitVec 8

/-- Free value (log entry 2): the class of a card that LPOST or a trigger accepts (R394, R429 name none). -/
opaque openClass : Nat → Nat

end Sys2Proof.Config
end

