-- ==== Sys2Proof/Machine/Map.lean ====
section
/-! DEFINITION. Finite maps from natural numbers, as lists of pairs with strictly rising keys, and byte-list helpers. -/

namespace Sys2Proof.Machine

/-- A finite map: pairs with strictly rising keys. A key that is not listed holds the map's default value. -/
abbrev SMap (α : Type) := List (Nat × α)

/-- The value at key `k`, `d` where it is not listed. -/
def SMap.get {α : Type} (d : α) : SMap α → Nat → α
  | [], _ => d
  | (k', v) :: m, k => if k' = k then v else SMap.get d m k

/-- The map with `v` at key `k`, listed. -/
def SMap.put {α : Type} : SMap α → Nat → α → SMap α
  | [], k, v => [(k, v)]
  | (k', v') :: m, k, v =>
    if k < k' then (k, v) :: (k', v') :: m
    else if k = k' then (k, v) :: m
    else (k', v') :: SMap.put m k v

/-- The map with key `k` not listed. -/
def SMap.erase {α : Type} : SMap α → Nat → SMap α
  | [], _ => []
  | (k', v') :: m, k => if k' = k then SMap.erase m k else (k', v') :: SMap.erase m k

/-- The map with `v` at key `k`, in the form that lists no default value. -/
def SMap.set {α : Type} [DecidableEq α] (d : α) (m : SMap α) (k : Nat) (v : α) : SMap α :=
  if v = d then SMap.erase m k else SMap.put m k v

/-- Whether key `k` is listed. -/
def SMap.has {α : Type} (m : SMap α) (k : Nat) : Bool := m.any fun p => p.1 == k

/-- Keys rise strictly, each above `lo`. -/
def SMap.rising {α : Type} : Option Nat → SMap α → Bool
  | _, [] => true
  | none, (k, _) :: m => SMap.rising (some k) m
  | some l, (k, _) :: m => decide (l < k) && SMap.rising (some k) m

/-- The canonical form: keys rise strictly and no listed value is the default. -/
def SMap.wf {α : Type} [DecidableEq α] (d : α) (m : SMap α) : Bool :=
  SMap.rising none m && m.all fun p => p.2 != d

/-- The little-endian value of a list of bytes (R3). -/
def leNat : List Byte → Nat
  | [] => 0
  | b :: bs => b.toNat + 256 * leNat bs

/-- The `n` low bytes of `v`, the lowest first (R3). -/
def leBytes : Nat → Nat → List Byte
  | 0, _ => []
  | n + 1, v => BitVec.ofNat 8 v :: leBytes n (v / 256)

/-- Bits [hi:lo] of a natural number. -/
def bits (v hi lo : Nat) : Nat := v / 2 ^ lo % 2 ^ (hi + 1 - lo)

/-- Bit `i` of a natural number. -/
def bit (v i : Nat) : Bool := v / 2 ^ i % 2 == 1

/-- A two's-complement reading of the low `w` bits. -/
def sgn (w v : Nat) : Int :=
  if v % 2 ^ w < 2 ^ (w - 1) then (v % 2 ^ w : Nat) else (v % 2 ^ w : Nat) - (2 ^ w : Nat)

/-- The low `w` bits of an integer. -/
def wrap (w : Nat) (x : Int) : Nat := (x % (2 ^ w : Nat)).toNat

/-- `v` with bits [hi:lo] replaced by the low bits of `f`. -/
def setBits (v hi lo f : Nat) : Nat :=
  v - bits v hi lo * 2 ^ lo + f % 2 ^ (hi + 1 - lo) * 2 ^ lo

/-- The first value of `f` over a list that is there. -/
def firstSome {α β : Type} (f : α → Option β) : List α → Option β
  | [] => none
  | a :: as =>
    match f a with
    | some b => some b
    | none => firstSome f as

/-- The values of a list, each once. -/
def distinct (xs : List Nat) : List Nat := xs.foldl (fun a x => if a.contains x then a else a ++ [x]) []

end Sys2Proof.Machine
end

