-- ==== Sys2Proof/Syntax.lean ====
section
/-! DEFINITION. The syntax of the H7: operand forms, and one constructor for each row of the opcode table. -/

namespace Sys2Proof

/-- The two halves of a context (01, program pairs): the access processor and the execute processor. -/
inductive HalfId where | ap | xp
  deriving DecidableEq, Repr

/-- A thread: a half of a context (0 to 3 user, 4 system) of a core (0 to 255). -/
structure Tid where
  core : Nat
  ctx : Nat
  half : HalfId
  deriving DecidableEq, Repr

/-- What a decoded row stands on: an AP word, an XP word, a store-only literal, or no encoding at all. -/
inductive Side where | ap | xp | lit | event
  deriving DecidableEq, Repr

/-- The scopes of Table 01-2. -/
inductive Scope where | context | core | cluster | stack | die | device | system
  deriving DecidableEq, Repr

def Scope.code : Scope → Nat
  | .context => 0 | .core => 1 | .cluster => 2 | .stack => 3 | .die => 4 | .device => 5 | .system => 6

def Scope.ofCode? : Nat → Option Scope
  | 0 => some .context | 1 => some .core | 2 => some .cluster | 3 => some .stack
  | 4 => some .die | 5 => some .device | 6 => some .system | _ => none

/-- The conditions of the compare forms (Table 09-1, Table 10-2). -/
inductive Cond where | eq | ne | lt | le | gt | ge
  deriving DecidableEq, Repr

def Cond.code : Cond → Nat
  | .eq => 0 | .ne => 1 | .lt => 2 | .le => 3 | .gt => 4 | .ge => 5

def Cond.ofCode? : Nat → Option Cond
  | 0 => some .eq | 1 => some .ne | 2 => some .lt | 3 => some .le | 4 => some .gt | 5 => some .ge | _ => none

/-- The element formats of Table 02-1. -/
inductive Fmt where
  | f32 | f16 | bf16 | e4m3 | e5m2 | f4 | i8 | n8 | i4 | n4 | i16 | n16 | i32 | n32
  deriving DecidableEq, Repr

def Fmt.code : Fmt → Nat
  | .f32 => 0 | .f16 => 1 | .bf16 => 2 | .e4m3 => 3 | .e5m2 => 4 | .f4 => 5 | .i8 => 6 | .n8 => 7
  | .i4 => 8 | .n4 => 9 | .i16 => 10 | .n16 => 11 | .i32 => 12 | .n32 => 13

def Fmt.ofCode? : Nat → Option Fmt
  | 0 => some .f32 | 1 => some .f16 | 2 => some .bf16 | 3 => some .e4m3 | 4 => some .e5m2 | 5 => some .f4
  | 6 => some .i8 | 7 => some .n8 | 8 => some .i4 | 9 => some .n4 | 10 => some .i16 | 11 => some .n16
  | 12 => some .i32 | 13 => some .n32 | _ => none

/-- Bits of one element (Table 02-1). -/
def Fmt.bits : Fmt → Nat
  | .f32 => 32 | .f16 => 16 | .bf16 => 16 | .e4m3 => 8 | .e5m2 => 8 | .f4 => 4 | .i8 => 8 | .n8 => 8
  | .i4 => 4 | .n4 => 4 | .i16 => 16 | .n16 => 16 | .i32 => 32 | .n32 => 32

/-- The access sizes of Table 09-5. -/
inductive AccTy where | q8 | i8 | n8 | i16 | n16 | i32 | n32
  deriving DecidableEq, Repr

def AccTy.code : AccTy → Nat
  | .q8 => 0 | .i8 => 6 | .n8 => 7 | .i16 => 10 | .n16 => 11 | .i32 => 12 | .n32 => 13

def AccTy.ofCode? : Nat → Option AccTy
  | 0 => some .q8 | 6 => some .i8 | 7 => some .n8 | 10 => some .i16 | 11 => some .n16
  | 12 => some .i32 | 13 => some .n32 | _ => none

/-- Bytes of one access (Table 09-5). -/
def AccTy.bytes : AccTy → Nat
  | .q8 => 8 | .i8 => 1 | .n8 => 1 | .i16 => 2 | .n16 => 2 | .i32 => 4 | .n32 => 4

/-- The fields every AP word carries beside its operands: predicate and token masks (Table 08-4). -/
structure ApHdr where
  psense : Bool := false
  pred : BitVec 3 := 0
  popm : BitVec 5 := 0
  pushm : BitVec 5 := 0
  deriving DecidableEq, Repr

/-- The fields every XP word carries beside its operands: lane mask and token masks (Table 08-5). -/
structure XpHdr where
  lmask : BitVec 3 := 0
  popm : BitVec 5 := 0
  pushm : BitVec 5 := 0
  deriving DecidableEq, Repr

/-- The second operand of an AP form (R199): a register, or the sign-extended IMM32. -/
inductive Op2 where
  | reg (rb : BitVec 5)
  | imm (v : BitVec 32)
  deriving DecidableEq, Repr

/-- The level of an XP operand field (R167). -/
inductive Level where | main | file | latch | port
  deriving DecidableEq, Repr

def Level.code : Level → Nat
  | .main => 0 | .file => 1 | .latch => 2 | .port => 3

def Level.ofCode : Nat → Level
  | 0 => .main | 1 => .file | 2 => .latch | _ => .port

/-- A class V operand field (R167, Table 10-1): rotate, trap-on-empty, level, index. -/
structure Opnd where
  rot : Bool := false
  trap : Bool := false
  lvl : Level := .main
  idx : BitVec 8 := 0
  deriving DecidableEq, Repr

/-- A class VM destination (Table 10-1): a main vector, with its rotate bit. -/
structure VmOp where
  rot : Bool := false
  idx : BitVec 8 := 0
  deriving DecidableEq, Repr

/-- A class G source (R293): a tile-mask register with its trap-on-empty bit. -/
structure GSrc where
  trap : Bool := false
  g : BitVec 3 := 0
  deriving DecidableEq, Repr

/-- The second source of an XP scalar form (R266): an x register, or IMM. -/
inductive XOp2 where
  | reg (x : BitVec 4)
  | imm (v : BitVec 32)
  deriving DecidableEq, Repr

/-- The operand and condition of XBRC and XBEND (Table 10-9). -/
inductive BrTest where
  | zero (x : BitVec 4)
  | nz (x : BitVec 4)
  | neg (x : BitVec 4)
  | nneg (x : BitVec 4)
  | ended (port : BitVec 4)
  | nend (port : BitVec 4)
  | always
  deriving DecidableEq, Repr

/-- The mask of a masked weight load (R291): register, trap-on-empty, mask base. -/
structure MaskUse where
  g : BitVec 3 := 0
  gte : Bool := false
  mbase : BitVec 6 := 0
  deriving DecidableEq, Repr

/-- The options of a weight load (Table 12-1): orientation, band scale register, mask. -/
structure MwldOpts where
  rowMajor : Bool := false
  band : Option (BitVec 4) := none
  mask : Option MaskUse := none
  deriving DecidableEq, Repr

/-- The access kinds of R69. -/
inductive AccessKind where | read | write | atomic | execute | source | sink
  deriving DecidableEq, Repr

/-- Who a block of the codec is expanded or compressed for (R95, R101, R102): a copy command, or a stream port. -/
inductive CodecUser where
  | cmd (core id : Nat)
  | port (core ctx sp : Nat)
  deriving DecidableEq, Repr

/-- The form of a GVSP packet (R458). -/
inductive GvspForm where | leader | payload | trailer | other
  deriving DecidableEq, Repr

/-- What R458 looks at in a datagram: whether it is IPv4 UDP, its destination port, whether its packet has extended identifiers, its
status, its block, its form, and the payload type that a leader or trailer names. -/
structure Gvsp where
  udp4 : Bool
  port : Nat
  ext : Bool
  status : Nat
  block : BitVec 64
  form : GvspForm
  ptype : Nat
  deriving DecidableEq, Repr

/-- A datagram, and the port that received it. -/
structure PortDatagram where
  port : Nat
  packet : Gvsp
  deriving DecidableEq, Repr

/-- A write of an MSI-X vector (R455): its place among those raised and pending, and whether the vector's mask is set. -/
structure VectorWrite where
  place : Nat
  masked : Bool
  deriving DecidableEq, Repr

/-- A correctable error (R420, R421): the core, the kind of storage, and the address or location. -/
structure FoundError where
  core : Nat
  storage : Nat
  loc : Nat
  deriving DecidableEq, Repr

/-- What an access of a thread does (R353): read, write, or read-modify-write. -/
inductive ReqOp where
  | read
  | write
  | swap
  | cas (cmp : BitVec 64)
  | add
  | and
  | or
  | xor
  | min
  | max
  | minn
  | maxn
  | minp
  deriving DecidableEq, Repr

/-- One instruction, engine step or event of the H7: one constructor per row of the opcode table. -/
inductive Instr where
  /-- `NOP` (R207). -/
  | nop (h : ApHdr)
  /-- `ADD` (R204). -/
  | add (h : ApHdr) (rd ra : BitVec 5) (o : Op2)
  /-- `SUB` (R204). -/
  | sub (h : ApHdr) (rd ra : BitVec 5) (o : Op2)
  /-- `MUL` (R204). -/
  | mul (h : ApHdr) (rd ra : BitVec 5) (o : Op2)
  /-- `MULH` (R204). -/
  | mulh (h : ApHdr) (rd ra : BitVec 5) (o : Op2)
  /-- `MULHN` (R204). -/
  | mulhn (h : ApHdr) (rd ra : BitVec 5) (o : Op2)
  /-- `DIV` (R204). -/
  | div (h : ApHdr) (rd ra : BitVec 5) (o : Op2)
  /-- `DIVN` (R204). -/
  | divn (h : ApHdr) (rd ra : BitVec 5) (o : Op2)
  /-- `REM` (R204). -/
  | rem (h : ApHdr) (rd ra : BitVec 5) (o : Op2)
  /-- `REMN` (R204). -/
  | remn (h : ApHdr) (rd ra : BitVec 5) (o : Op2)
  /-- `ADDS` (R204). -/
  | adds (h : ApHdr) (rd ra : BitVec 5) (o : Op2)
  /-- `SUBS` (R204). -/
  | subs (h : ApHdr) (rd ra : BitVec 5) (o : Op2)
  /-- `ADDSN` (R204). -/
  | addsn (h : ApHdr) (rd ra : BitVec 5) (o : Op2)
  /-- `SUBSN` (R204). -/
  | subsn (h : ApHdr) (rd ra : BitVec 5) (o : Op2)
  /-- `AND` (R204). -/
  | and (h : ApHdr) (rd ra : BitVec 5) (o : Op2)
  /-- `OR` (R204). -/
  | or (h : ApHdr) (rd ra : BitVec 5) (o : Op2)
  /-- `XOR` (R204). -/
  | xor (h : ApHdr) (rd ra : BitVec 5) (o : Op2)
  /-- `ANDN` (R204). -/
  | andn (h : ApHdr) (rd ra : BitVec 5) (o : Op2)
  /-- `ORN` (R204). -/
  | orn (h : ApHdr) (rd ra : BitVec 5) (o : Op2)
  /-- `SHL` (R204). -/
  | shl (h : ApHdr) (rd ra : BitVec 5) (o : Op2)
  /-- `SHR` (R204). -/
  | shr (h : ApHdr) (rd ra : BitVec 5) (o : Op2)
  /-- `SAR` (R204). -/
  | sar (h : ApHdr) (rd ra : BitVec 5) (o : Op2)
  /-- `ROL` (R204). -/
  | rol (h : ApHdr) (rd ra : BitVec 5) (o : Op2)
  /-- `ROR` (R204). -/
  | ror (h : ApHdr) (rd ra : BitVec 5) (o : Op2)
  /-- `MIN` (R204). -/
  | min (h : ApHdr) (rd ra : BitVec 5) (o : Op2)
  /-- `MAX` (R204). -/
  | max (h : ApHdr) (rd ra : BitVec 5) (o : Op2)
  /-- `MINN` (R204). -/
  | minn (h : ApHdr) (rd ra : BitVec 5) (o : Op2)
  /-- `MAXN` (R204). -/
  | maxn (h : ApHdr) (rd ra : BitVec 5) (o : Op2)
  /-- `ABS` (R205). -/
  | abs (h : ApHdr) (rd ra : BitVec 5)
  /-- `CLZ` (R205). -/
  | clz (h : ApHdr) (rd ra : BitVec 5)
  /-- `CTZ` (R205). -/
  | ctz (h : ApHdr) (rd ra : BitVec 5)
  /-- `POPC` (R205). -/
  | popc (h : ApHdr) (rd ra : BitVec 5)
  /-- `BSWAP` (R205). -/
  | bswap (h : ApHdr) (rd ra : BitVec 5)
  /-- `EXTS` (R206). -/
  | exts (h : ApHdr) (rd ra : BitVec 5) (pos lenm1 : BitVec 6)
  /-- `EXTN` (R206). -/
  | extn (h : ApHdr) (rd ra : BitVec 5) (pos lenm1 : BitVec 6)
  /-- `INS` (R206). -/
  | ins (h : ApHdr) (rd : BitVec 5) (o : Op2) (pos lenm1 : BitVec 6)
  /-- `MOVI` (R207). -/
  | movi (h : ApHdr) (rd : BitVec 5) (imm : BitVec 32)
  /-- `MOVHI` (R207). -/
  | movhi (h : ApHdr) (rd : BitVec 5) (imm : BitVec 32)
  /-- `SEL` (R207). -/
  | sel (h : ApHdr) (rd ra : BitVec 5) (o : Op2) (pa : BitVec 3)
  /-- `PCMP` (R208). -/
  | pcmp (h : ApHdr) (ra : BitVec 5) (o : Op2) (pd : BitVec 3) (cc : Cond)
  /-- `PCMPN` (R208). -/
  | pcmpn (h : ApHdr) (ra : BitVec 5) (o : Op2) (pd : BitVec 3) (cc : Cond)
  /-- `PAND` (R208). -/
  | pand (h : ApHdr) (pd pa pb : BitVec 3)
  /-- `POR` (R208). -/
  | por (h : ApHdr) (pd pa pb : BitVec 3)
  /-- `PXOR` (R208). -/
  | pxor (h : ApHdr) (pd pa pb : BitVec 3)
  /-- `PNOT` (R208). -/
  | pnot (h : ApHdr) (pd pa : BitVec 3)
  /-- `PSET` (R208). -/
  | pset (h : ApHdr) (ra : BitVec 5) (pd : BitVec 3)
  /-- `PTST` (R208). -/
  | ptst (h : ApHdr) (ra : BitVec 5) (o : Op2) (pd : BitVec 3)
  /-- `BR` (R209). -/
  | br (h : ApHdr) (off : BitVec 32)
  /-- `JMPR` (R209). -/
  | jmpr (h : ApHdr) (ra : BitVec 5) (off : BitVec 32)
  /-- `CALL` (R209). -/
  | call (h : ApHdr) (rd : BitVec 5) (off : BitVec 32)
  /-- `RET` (R209). -/
  | ret (h : ApHdr) (ra : BitVec 5)
  /-- `LOOP` (R210). -/
  | loop (h : ApHdr) (ra : BitVec 5) (off : BitVec 32)
  /-- `LOOP_IMMEDIATE` (R210). -/
  | loopImmediate (h : ApHdr) (off : BitVec 32) (limm : BitVec 16)
  /-- `LBRK` (R211). -/
  | lbrk (h : ApHdr)
  /-- `LD` (R213). -/
  | ld (h : ApHdr) (rd ra : BitVec 5) (off : BitVec 32) (ty : AccTy)
  /-- `ST` (R213). -/
  | st (h : ApHdr) (ra rb : BitVec 5) (off : BitVec 32) (ty : AccTy)
  /-- `LDC` (R215). -/
  | ldc (h : ApHdr) (rd ra : BitVec 5) (off : BitVec 32) (ty : AccTy)
  /-- `LDACQ` (R216). -/
  | ldacq (h : ApHdr) (rd ra : BitVec 5) (off : BitVec 32) (ty : AccTy) (sc : Scope)
  /-- `STREL` (R216). -/
  | strel (h : ApHdr) (ra rb : BitVec 5) (off : BitVec 32) (ty : AccTy) (sc : Scope)
  /-- `LDS` (R214). -/
  | lds (h : ApHdr) (rd ra : BitVec 5) (off : BitVec 32) (ty : AccTy)
  /-- `STS` (R214). -/
  | sts (h : ApHdr) (ra rb : BitVec 5) (off : BitVec 32) (ty : AccTy)
  /-- `ASWAP` (R218). -/
  | aswap (h : ApHdr) (rd ra rb : BitVec 5) (off : BitVec 32) (ty : AccTy)
  /-- `ACAS` (R219). -/
  | acas (h : ApHdr) (rd ra rb : BitVec 5) (off : BitVec 32) (ty : AccTy) (pd : BitVec 3)
  /-- `AADD` (R218). -/
  | aadd (h : ApHdr) (rd ra rb : BitVec 5) (off : BitVec 32) (ty : AccTy)
  /-- `AAND` (R218). -/
  | aand (h : ApHdr) (rd ra rb : BitVec 5) (off : BitVec 32) (ty : AccTy)
  /-- `AOR` (R218). -/
  | aor (h : ApHdr) (rd ra rb : BitVec 5) (off : BitVec 32) (ty : AccTy)
  /-- `AXOR` (R218). -/
  | axor (h : ApHdr) (rd ra rb : BitVec 5) (off : BitVec 32) (ty : AccTy)
  /-- `AMIN` (R218). -/
  | amin (h : ApHdr) (rd ra rb : BitVec 5) (off : BitVec 32) (ty : AccTy)
  /-- `AMAX` (R218). -/
  | amax (h : ApHdr) (rd ra rb : BitVec 5) (off : BitVec 32) (ty : AccTy)
  /-- `AMINN` (R218). -/
  | aminn (h : ApHdr) (rd ra rb : BitVec 5) (off : BitVec 32) (ty : AccTy)
  /-- `AMAXN` (R218). -/
  | amaxn (h : ApHdr) (rd ra rb : BitVec 5) (off : BitVec 32) (ty : AccTy)
  /-- `AMINP` (R220). -/
  | aminp (h : ApHdr) (rd ra rb : BitVec 5) (off : BitVec 32) (pd : BitVec 3)
  /-- `FENCE_ACQ` (R222). -/
  | fenceAcq (h : ApHdr) (sc : Scope)
  /-- `FENCE_REL` (R222). -/
  | fenceRel (h : ApHdr) (sc : Scope)
  /-- `FENCE_SC` (R222). -/
  | fenceSc (h : ApHdr) (sc : Scope)
  /-- `SLB` (R223). -/
  | slb (h : ApHdr) (rd ra : BitVec 5) (off fboff : BitVec 32)
  /-- `SLC` (R226). -/
  | slc (h : ApHdr)
  /-- `SLX` (R227). -/
  | slx (h : ApHdr) (xcode : BitVec 8)
  /-- `IFENCE` (R189). -/
  | ifence (h : ApHdr)
  /-- `SCFG` (R229). -/
  | scfg (h : ApHdr) (o : Op2) (sp : BitVec 4) (word : BitVec 3)
  /-- `SGO` (R231). -/
  | sgo (h : ApHdr) (sp : BitVec 4)
  /-- `SREW_START` (R232). -/
  | srewStart (h : ApHdr) (sp : BitVec 4)
  /-- `SREW_MARK` (R232). -/
  | srewMark (h : ApHdr) (sp : BitVec 4)
  /-- `SMARK` (R232). -/
  | smark (h : ApHdr) (sp : BitVec 4)
  /-- `SFORK` (R230). -/
  | sfork (h : ApHdr) (ra : BitVec 5) (sp pport : BitVec 4)
  /-- `SEND` (R233). -/
  | send (h : ApHdr) (sp : BitVec 4)
  /-- `SSAVE` (R234). -/
  | ssave (h : ApHdr) (ra : BitVec 5) (off : BitVec 32) (sp : BitVec 4)
  /-- `SSAVEB` (R234). -/
  | ssaveb (h : ApHdr) (ra : BitVec 5) (off : BitVec 32) (sp : BitVec 4)
  /-- `SRSTR` (R235). -/
  | srstr (h : ApHdr) (ra : BitVec 5) (off : BitVec 32) (sp : BitVec 4)
  /-- `SQRY` (R236). -/
  | sqry (h : ApHdr) (rd : BitVec 5) (sp : BitVec 4)
  /-- `SMASK` (R237). -/
  | smask (h : ApHdr) (sp : BitVec 4) (g : BitVec 3) (mbase : BitVec 6)
  /-- `GRD` (R238). -/
  | grd (h : ApHdr) (rd : BitVec 5) (g : BitVec 3)
  /-- `CPY` (R315). -/
  | cpy (h : ApHdr) (rd ra : BitVec 5) (off : BitVec 32)
  /-- `CPYI` (R316). -/
  | cpyi (h : ApHdr) (rd ra rb : BitVec 5) (off : BitVec 32)
  /-- `WMRD` (R318). -/
  | wmrd (h : ApHdr) (rd : BitVec 5) (nxt : Bool) (chan : BitVec 2)
  /-- `CPQ` (R319). -/
  | cpq (h : ApHdr) (rd : BitVec 5) (chan : BitVec 2)
  /-- `TWAIT` (R320). -/
  | twait (h : ApHdr) (rd : BitVec 5) (o : Op2) (all : Bool)
  /-- `TFFR` (R321). -/
  | tffr (h : ApHdr) (rd : BitVec 5) (o : Op2) (clr : Bool)
  /-- `WAIT` (R323). -/
  | wait (h : ApHdr) (rd ra rb : BitVec 5) (off : BitVec 32) (all : Bool) (ncm1 : BitVec 2)
  /-- `BINIT` (R328). -/
  | binit (h : ApHdr) (ra : BitVec 5) (o : Op2)
  /-- `BARR` (R329). -/
  | barr (h : ApHdr) (rd ra : BitVec 5) (sc : Scope)
  /-- `BARRX` (R330). -/
  | barrx (h : ApHdr) (ra rb : BitVec 5) (sc : Scope)
  /-- `BWAIT` (R331). -/
  | bwait (h : ApHdr) (ra : BitVec 5) (o : Op2) (sc : Scope)
  /-- `WLCFG` (R333). -/
  | wlcfg (h : ApHdr) (ra rb : BitVec 5)
  /-- `WLPUSH` (R334). -/
  | wlpush (h : ApHdr) (o : Op2)
  /-- `WLINS` (R334). -/
  | wlins (h : ApHdr) (o : Op2) (pd : BitVec 3)
  /-- `WLCLR` (R335). -/
  | wlclr (h : ApHdr)
  /-- `WLCNT` (R335). -/
  | wlcnt (h : ApHdr) (rd : BitVec 5)
  /-- `CHLINK` (R338). -/
  | chlink (h : ApHdr) (ra : BitVec 5) (chan : BitVec 2)
  /-- `CHKICK` (R338). -/
  | chkick (h : ApHdr) (sc : Scope) (chan : BitVec 2)
  /-- `CHQ` (R338). -/
  | chq (h : ApHdr) (rd : BitVec 5) (chan : BitVec 2)
  /-- `JPOST` (R339). -/
  | jpost (h : ApHdr) (rd ra rb : BitVec 5) (off : BitVec 32) (sc : Scope)
  /-- `FORK` (R340). -/
  | fork (h : ApHdr) (ra : BitVec 5) (off : BitVec 32)
  /-- `FORK_ENTRY` (R340). -/
  | forkEntry (h : ApHdr)
  /-- `RDV` (R341). -/
  | rdv (h : ApHdr)
  /-- `YIELD` (R344). -/
  | yield (h : ApHdr)
  /-- `TRAP` (R345). -/
  | trap (h : ApHdr) (code : BitVec 16)
  /-- `ERET` (R346). -/
  | eret (h : ApHdr) (tctx : BitVec 2)
  /-- `RDSR` (R347). -/
  | rdsr (h : ApHdr) (rd : BitVec 5) (srn : BitVec 8)
  /-- `WRSR` (R347). -/
  | wrsr (h : ApHdr) (ra : BitVec 5) (srn : BitVec 8)
  /-- `GTCRD` (R348). -/
  | gtcrd (h : ApHdr) (rd : BitVec 5)
  /-- `AP_DONE` (R343). -/
  | apDone (h : ApHdr)
  /-- `TEMPLATE_STORE_LITERAL` (R184). -/
  | templateStoreLiteral (tgt : BitVec 6) (op : BitVec 128)
  /-- `VADD` (R245). -/
  | vadd (h : XpHdr) (d a b : Opnd) (ty : Fmt)
  /-- `VSUB` (R245). -/
  | vsub (h : XpHdr) (d a b : Opnd) (ty : Fmt)
  /-- `VMUL` (R245). -/
  | vmul (h : XpHdr) (d a b : Opnd) (ty : Fmt)
  /-- `VMULH` (R245). -/
  | vmulh (h : XpHdr) (d a b : Opnd) (ty : Fmt)
  /-- `VMULHN` (R245). -/
  | vmulhn (h : XpHdr) (d a b : Opnd) (ty : Fmt)
  /-- `VADDS` (R245). -/
  | vadds (h : XpHdr) (d a b : Opnd) (ty : Fmt)
  /-- `VSUBS` (R245). -/
  | vsubs (h : XpHdr) (d a b : Opnd) (ty : Fmt)
  /-- `VADDSN` (R245). -/
  | vaddsn (h : XpHdr) (d a b : Opnd) (ty : Fmt)
  /-- `VSUBSN` (R245). -/
  | vsubsn (h : XpHdr) (d a b : Opnd) (ty : Fmt)
  /-- `VMAD` (R245). -/
  | vmad (h : XpHdr) (d a b c : Opnd) (ty : Fmt)
  /-- `VABS` (R245). -/
  | vabs (h : XpHdr) (d a : Opnd) (ty : Fmt)
  /-- `VAND` (R245). -/
  | vand (h : XpHdr) (d a b : Opnd) (ty : Fmt)
  /-- `VOR` (R245). -/
  | vor (h : XpHdr) (d a b : Opnd) (ty : Fmt)
  /-- `VXOR` (R245). -/
  | vxor (h : XpHdr) (d a b : Opnd) (ty : Fmt)
  /-- `VANDN` (R245). -/
  | vandn (h : XpHdr) (d a b : Opnd) (ty : Fmt)
  /-- `VSHL` (R245). -/
  | vshl (h : XpHdr) (d a b : Opnd) (ty : Fmt)
  /-- `VSHR` (R245). -/
  | vshr (h : XpHdr) (d a b : Opnd) (ty : Fmt)
  /-- `VSAR` (R245). -/
  | vsar (h : XpHdr) (d a b : Opnd) (ty : Fmt)
  /-- `VCLZ` (R245). -/
  | vclz (h : XpHdr) (d a : Opnd) (ty : Fmt)
  /-- `VPOPC` (R245). -/
  | vpopc (h : XpHdr) (d a : Opnd) (ty : Fmt)
  /-- `VMIN` (R245). -/
  | vmin (h : XpHdr) (d a b : Opnd) (ty : Fmt)
  /-- `VMAX` (R245). -/
  | vmax (h : XpHdr) (d a b : Opnd) (ty : Fmt)
  /-- `VMINN` (R245). -/
  | vminn (h : XpHdr) (d a b : Opnd) (ty : Fmt)
  /-- `VMAXN` (R245). -/
  | vmaxn (h : XpHdr) (d a b : Opnd) (ty : Fmt)
  /-- `VCMP` (R246). -/
  | vcmp (h : XpHdr) (d : BitVec 3) (a b : Opnd) (cc : Cond)
  /-- `VCMPN` (R246). -/
  | vcmpn (h : XpHdr) (d : BitVec 3) (a b : Opnd) (cc : Cond)
  /-- `VSEL` (R247). -/
  | vsel (h : XpHdr) (d a b : Opnd) (c : BitVec 3)
  /-- `VDOT4` (R248). -/
  | vdot4 (h : XpHdr) (d a b c : Opnd)
  /-- `VDOT4N` (R248). -/
  | vdot4n (h : XpHdr) (d a b c : Opnd)
  /-- `VDOT4S` (R248). -/
  | vdot4s (h : XpHdr) (d a b c : Opnd)
  /-- `VDOT4SN` (R248). -/
  | vdot4sn (h : XpHdr) (d a b c : Opnd)
  /-- `VFADD` (R249). -/
  | vfadd (h : XpHdr) (d a b : Opnd)
  /-- `VFADDZR` (R249). -/
  | vfaddzr (h : XpHdr) (d a b : Opnd)
  /-- `VFADDFL` (R249). -/
  | vfaddfl (h : XpHdr) (d a b : Opnd)
  /-- `VFADDCL` (R249). -/
  | vfaddcl (h : XpHdr) (d a b : Opnd)
  /-- `VFSUB` (R249). -/
  | vfsub (h : XpHdr) (d a b : Opnd)
  /-- `VFSUBZR` (R249). -/
  | vfsubzr (h : XpHdr) (d a b : Opnd)
  /-- `VFSUBFL` (R249). -/
  | vfsubfl (h : XpHdr) (d a b : Opnd)
  /-- `VFSUBCL` (R249). -/
  | vfsubcl (h : XpHdr) (d a b : Opnd)
  /-- `VFMUL` (R249). -/
  | vfmul (h : XpHdr) (d a b : Opnd)
  /-- `VFMULZR` (R249). -/
  | vfmulzr (h : XpHdr) (d a b : Opnd)
  /-- `VFMULFL` (R249). -/
  | vfmulfl (h : XpHdr) (d a b : Opnd)
  /-- `VFMULCL` (R249). -/
  | vfmulcl (h : XpHdr) (d a b : Opnd)
  /-- `VFMA` (R249). -/
  | vfma (h : XpHdr) (d a b c : Opnd)
  /-- `VFMAZR` (R249). -/
  | vfmazr (h : XpHdr) (d a b c : Opnd)
  /-- `VFMAFL` (R249). -/
  | vfmafl (h : XpHdr) (d a b c : Opnd)
  /-- `VFMACL` (R249). -/
  | vfmacl (h : XpHdr) (d a b c : Opnd)
  /-- `VFDIV` (R249). -/
  | vfdiv (h : XpHdr) (d a b : Opnd)
  /-- `VFDIVZR` (R249). -/
  | vfdivzr (h : XpHdr) (d a b : Opnd)
  /-- `VFSQRT` (R249). -/
  | vfsqrt (h : XpHdr) (d a : Opnd)
  /-- `VFMIN` (R249). -/
  | vfmin (h : XpHdr) (d a b : Opnd)
  /-- `VFMAX` (R249). -/
  | vfmax (h : XpHdr) (d a b : Opnd)
  /-- `VFABS` (R249). -/
  | vfabs (h : XpHdr) (d a : Opnd)
  /-- `VFNEG` (R249). -/
  | vfneg (h : XpHdr) (d a : Opnd)
  /-- `VFCMP` (R250). -/
  | vfcmp (h : XpHdr) (d : BitVec 3) (a b : Opnd) (cc : Cond)
  /-- `VFEXP` (R251). -/
  | vfexp (h : XpHdr) (d a : Opnd)
  /-- `VFSCALE` (R252). -/
  | vfscale (h : XpHdr) (d a b : Opnd)
  /-- `VFRINT` (R253). -/
  | vfrint (h : XpHdr) (d a : Opnd)
  /-- `VFRINTFL` (R253). -/
  | vfrintfl (h : XpHdr) (d a : Opnd)
  /-- `VCVT` (R254). -/
  | vcvt (h : XpHdr) (d a : Opnd) (ty ty2 : Fmt) (part : BitVec 3)
  /-- `VCVTZR` (R254). -/
  | vcvtzr (h : XpHdr) (d a : Opnd) (ty ty2 : Fmt) (part : BitVec 3)
  /-- `VCVTFL` (R254). -/
  | vcvtfl (h : XpHdr) (d a : Opnd) (ty ty2 : Fmt) (part : BitVec 3)
  /-- `VCVTCL` (R254). -/
  | vcvtcl (h : XpHdr) (d a : Opnd) (ty ty2 : Fmt) (part : BitVec 3)
  /-- `VNARS` (R256). -/
  | vnars (h : XpHdr) (d a : Opnd) (ty ty2 : Fmt) (part : BitVec 3)
  /-- `VNARW` (R256). -/
  | vnarw (h : XpHdr) (d a : Opnd) (ty ty2 : Fmt) (part : BitVec 3)
  /-- `VQBLK` (R257). -/
  | vqblk (h : XpHdr) (d a : Opnd)
  /-- `VDQBLK` (R258). -/
  | vdqblk (h : XpHdr) (d a : Opnd)
  /-- `VREDF` (R259). -/
  | vredf (h : XpHdr) (d : BitVec 4) (a : Opnd)
  /-- `VREDFMAX` (R259). -/
  | vredfmax (h : XpHdr) (d : BitVec 4) (a : Opnd)
  /-- `VREDFMIN` (R259). -/
  | vredfmin (h : XpHdr) (d : BitVec 4) (a : Opnd)
  /-- `VRED` (R259). -/
  | vred (h : XpHdr) (d : BitVec 4) (a : Opnd) (ty : Fmt)
  /-- `VREDS` (R259). -/
  | vreds (h : XpHdr) (d : BitVec 4) (a : Opnd) (ty : Fmt)
  /-- `VREDMAX` (R259). -/
  | vredmax (h : XpHdr) (d : BitVec 4) (a : Opnd) (ty : Fmt)
  /-- `VREDMIN` (R259). -/
  | vredmin (h : XpHdr) (d : BitVec 4) (a : Opnd) (ty : Fmt)
  /-- `VSCAN` (R260). -/
  | vscan (h : XpHdr) (d a : Opnd) (b : BitVec 4) (ty : Fmt) (exc : Bool)
  /-- `VBPFX` (R261). -/
  | vbpfx (h : XpHdr) (d a : Opnd) (b : BitVec 4)
  /-- `VISECT` (R262). -/
  | visect (h : XpHdr) (d a b c : Opnd) (half : Bool) (xw : BitVec 4)
  /-- `VCMPRS` (R263). -/
  | vcmprs (h : XpHdr) (d a : Opnd)
  /-- `VEXPND` (R263). -/
  | vexpnd (h : XpHdr) (d a : Opnd)
  /-- `VPERM` (R264). -/
  | vperm (h : XpHdr) (d a b : Opnd)
  /-- `VBCAST` (R264). -/
  | vbcast (h : XpHdr) (d a : Opnd) (lane : BitVec 6)
  /-- `VROTL` (R264). -/
  | vrotl (h : XpHdr) (d a : Opnd) (lane : BitVec 6)
  /-- `VSLIDE` (R264). -/
  | vslide (h : XpHdr) (d a b : Opnd) (lane : BitVec 6)
  /-- `VZIP` (R264). -/
  | vzip (h : XpHdr) (d a b : Opnd) (half : Bool)
  /-- `VUNZIP` (R264). -/
  | vunzip (h : XpHdr) (d a b : Opnd) (half : Bool)
  /-- `VMOV` (R264). -/
  | vmov (h : XpHdr) (d a : Opnd)
  /-- `VSPLAT` (R264). -/
  | vsplat (h : XpHdr) (d : Opnd) (a : BitVec 4)
  /-- `MAND` (R265). -/
  | mand (h : XpHdr) (d a b : BitVec 3)
  /-- `MOR` (R265). -/
  | mor (h : XpHdr) (d a b : BitVec 3)
  /-- `MXOR` (R265). -/
  | mxor (h : XpHdr) (d a b : BitVec 3)
  /-- `MNOT` (R265). -/
  | mnot (h : XpHdr) (d a : BitVec 3)
  /-- `MPOPC` (R265). -/
  | mpopc (h : XpHdr) (d : BitVec 4) (a : BitVec 3)
  /-- `MSETX` (R265). -/
  | msetx (h : XpHdr) (d : BitVec 3) (a b : BitVec 4)
  /-- `MGETX` (R265). -/
  | mgetx (h : XpHdr) (d : BitVec 4) (a : BitVec 3) (half : Bool)
  /-- `XADD` (R266). -/
  | xadd (h : XpHdr) (d a : BitVec 4) (b : XOp2)
  /-- `XSUB` (R266). -/
  | xsub (h : XpHdr) (d a : BitVec 4) (b : XOp2)
  /-- `XMUL` (R266). -/
  | xmul (h : XpHdr) (d a : BitVec 4) (b : XOp2)
  /-- `XAND` (R266). -/
  | xand (h : XpHdr) (d a : BitVec 4) (b : XOp2)
  /-- `XIOR` (R266). -/
  | xior (h : XpHdr) (d a : BitVec 4) (b : XOp2)
  /-- `XXOR` (R266). -/
  | xxor (h : XpHdr) (d a : BitVec 4) (b : XOp2)
  /-- `XSHL` (R266). -/
  | xshl (h : XpHdr) (d a : BitVec 4) (b : XOp2)
  /-- `XSHR` (R266). -/
  | xshr (h : XpHdr) (d a : BitVec 4) (b : XOp2)
  /-- `XMOVI` (R266). -/
  | xmovi (h : XpHdr) (d : BitVec 4) (imm : BitVec 32)
  /-- `XLANE` (R266). -/
  | xlane (h : XpHdr) (d : BitVec 4) (a : Opnd) (lane : BitVec 6)
  /-- `XLOOP` (R267). -/
  | xloop (h : XpHdr) (xc nr : BitVec 4) (fin : BitVec 18)
  /-- `XLOOP_IMMEDIATE` (R267). -/
  | xloopImmediate (h : XpHdr) (nr : BitVec 4) (limm : BitVec 16) (fin : BitVec 18)
  /-- `XBR` (R269). -/
  | xbr (h : XpHdr) (imm : BitVec 32)
  /-- `XBRC` (R269). -/
  | xbrc (h : XpHdr) (t : BrTest) (imm : BitVec 32)
  /-- `XBEND` (R269). -/
  | xbend (h : XpHdr) (t : BrTest)
  /-- `VLD` (R271). -/
  | vld (h : XpHdr) (d : VmOp) (a : BitVec 4) (imm : BitVec 32)
  /-- `VLD_INDEXED` (R271). -/
  | vldIndexed (h : XpHdr) (d : VmOp) (a : BitVec 4) (b : Opnd) (ty : Fmt) (imm : BitVec 32)
  /-- `VST` (R271). -/
  | vst (h : XpHdr) (a : BitVec 4) (b : Opnd) (imm : BitVec 32)
  /-- `VST_INDEXED` (R271). -/
  | vstIndexed (h : XpHdr) (a : BitVec 4) (b c : Opnd) (ty : Fmt) (imm : BitVec 32)
  /-- `MWLD_F4` (R295). -/
  | mwldF4 (h : XpHdr) (a : Opnd) (w : MwldOpts)
  /-- `MWLD_E4M3` (R295). -/
  | mwldE4m3 (h : XpHdr) (a : Opnd) (w : MwldOpts)
  /-- `MWLD_E5M2` (R295). -/
  | mwldE5m2 (h : XpHdr) (a : Opnd) (w : MwldOpts)
  /-- `MWLD_BF16` (R295). -/
  | mwldBf16 (h : XpHdr) (a : Opnd) (w : MwldOpts)
  /-- `MWLD_F16` (R295). -/
  | mwldF16 (h : XpHdr) (a : Opnd) (w : MwldOpts)
  /-- `MWLD_I8` (R295). -/
  | mwldI8 (h : XpHdr) (a : Opnd) (w : MwldOpts)
  /-- `MWLD_N8` (R295). -/
  | mwldN8 (h : XpHdr) (a : Opnd) (w : MwldOpts)
  /-- `MWLD_I4` (R295). -/
  | mwldI4 (h : XpHdr) (a : Opnd) (w : MwldOpts)
  /-- `MWLD_N4` (R295). -/
  | mwldN4 (h : XpHdr) (a : Opnd) (w : MwldOpts)
  /-- `MWID` (R296). -/
  | mwid (h : XpHdr) (ty : Fmt)
  /-- `MWPERM` (R296). -/
  | mwperm (h : XpHdr) (a : Opnd) (ty : Fmt)
  /-- `MWONES` (R296). -/
  | mwones (h : XpHdr) (ty : Fmt)
  /-- `MWSEL` (R296). -/
  | mwsel (h : XpHdr) (a : BitVec 3) (ty : Fmt)
  /-- `MWSWP` (R297). -/
  | mwswp (h : XpHdr)
  /-- `MMUL` (R298). -/
  | mmul (h : XpHdr) (a : Opnd) (ty : Fmt) (abase : BitVec 6)
  /-- `MMULZ` (R298). -/
  | mmulz (h : XpHdr) (a : Opnd) (ty : Fmt) (abase : BitVec 6)
  /-- `MMULM` (R298). -/
  | mmulm (h : XpHdr) (a : Opnd) (ty : Fmt) (abase : BitVec 6) (g : BitVec 3) (mbase : BitVec 6) (ngm1 : BitVec 2) (gte : Bool)
  /-- `MMULMZ` (R298). -/
  | mmulmz (h : XpHdr) (a : Opnd) (ty : Fmt) (abase : BitVec 6) (g : BitVec 3) (mbase : BitVec 6) (ngm1 : BitVec 2) (gte : Bool)
  /-- `MACRD` (R301). -/
  | macrd (h : XpHdr) (d : VmOp) (row : BitVec 6) (cg : BitVec 2) (clr : Bool)
  /-- `MACRD_SCRATCHPAD` (R301). -/
  | macrdScratchpad (h : XpHdr) (a : BitVec 4) (row : BitVec 6) (cg : BitVec 2) (clr : Bool)
  /-- `MACCLR` (R302). -/
  | macclr (h : XpHdr) (row nrm1 : BitVec 6)
  /-- `MSCOUT_QUERY` (R303). -/
  | mscoutQuery (h : XpHdr) (a : Opnd) (eidx : BitVec 5)
  /-- `MSCOUT_KEY` (R303). -/
  | mscoutKey (h : XpHdr) (a : Opnd) (eidx : BitVec 5)
  /-- `MSCOUT_SCORE` (R303). -/
  | mscoutScore (h : XpHdr) (d a : Opnd) (eidx : BitVec 5) (nqm1 nkm1 slane : BitVec 6) (nsegm1 : Bool)
  /-- `MCAIRN` (R304). -/
  | mcairn (h : XpHdr) (d : BitVec 3) (a : Opnd) (b : BitVec 4) (c : BitVec 3)
  /-- `GAND` (R305). -/
  | gand (h : XpHdr) (d : BitVec 3) (a b : GSrc)
  /-- `GOR` (R305). -/
  | gor (h : XpHdr) (d : BitVec 3) (a b : GSrc)
  /-- `GANDN` (R305). -/
  | gandn (h : XpHdr) (d : BitVec 3) (a b : GSrc)
  /-- `GSET` (R305). -/
  | gset (h : XpHdr) (d a : BitVec 3)
  /-- `GGET` (R305). -/
  | gget (h : XpHdr) (d : BitVec 3) (a : GSrc)
  /-- `XP_RDV` (R341). -/
  | xpRdv (h : XpHdr)
  /-- `XP_WAIT` (R326). -/
  | xpWait (h : XpHdr) (d a b : BitVec 4) (all : Bool) (ncm1 : BitVec 2) (imm : BitVec 32)
  /-- `WLPOPV` (R336). -/
  | wlpopv (h : XpHdr) (d : VmOp) (xn : BitVec 4)
  /-- `XP_IFENCE` (R189). -/
  | xpIfence (h : XpHdr)
  /-- `XP_RDSR` (R347). -/
  | xpRdsr (h : XpHdr) (d : BitVec 4) (half : Bool) (srn : BitVec 8)
  /-- `XP_WRSR` (R347). -/
  | xpWrsr (h : XpHdr) (a : BitVec 4) (srn : BitVec 8)
  /-- `XP_YIELD` (R344). -/
  | xpYield (h : XpHdr)
  /-- `XP_TRAP` (R345). -/
  | xpTrap (h : XpHdr) (code : BitVec 16)
  /-- `XP_DONE` (R342). -/
  | xpDone (h : XpHdr)
  /-- `XP_NOP` (R314). -/
  | xpNop (h : XpHdr)
  /-- `XP_FENCE_ACQ` (R349). -/
  | xpFenceAcq (h : XpHdr) (sc : Scope)
  /-- `XP_FENCE_REL` (R349). -/
  | xpFenceRel (h : XpHdr) (sc : Scope)
  /-- `XP_FENCE_SC` (R349). -/
  | xpFenceSc (h : XpHdr) (sc : Scope)
  /-- `STALL_RELEASE` (R10). A word stalled in a wait proceeds once its condition holds. -/
  | stallRelease (t : Tid)
  /-- `WAIT_TIMEOUT` (R323). A WAIT ends with TO set when GTC reaches its deadline with no satisfying set. -/
  | waitTimeout (t : Tid)
  /-- `WATCHDOG` (R406). A half waiting without issue for SR_WATCHDOG ticks traps as watchdog. -/
  | watchdog (t : Tid)
  /-- `LOAD_DATA_ARRIVAL` (R201). Data of an AP load or atomic arrive and are written to the destination register. -/
  | loadDataArrival (id : Nat)
  /-- `LONG_LATENCY_DELIVERY` (R171). A vector load, accumulator read or MCAIRN writes its destination and sets it full. -/
  | longLatencyDelivery (id : Nat)
  /-- `TOKEN_ARRIVAL` (R176). A pushed token enters its target FIFO once its word's conditions are met. -/
  | tokenArrival (id : Nat)
  /-- `MEMORY_REQUEST_ARRIVAL` (R66). A read or write request reaches a checking port or its home and performs. -/
  | memoryRequestArrival (id : Nat) (ue : Bool)
  /-- `ATOMIC_PERFORM` (R221). An atomic runs at its location's home unit in the location's total order. -/
  | atomicPerform (id : Nat) (ue : Bool)
  /-- `PAGE_TABLE_WALK` (R72). A TLB miss walks the tenant's page table and fills the TLBs or faults. -/
  | pageTableWalk (core ctx va : Nat) (acc : AccessKind)
  /-- `COPY` (R112). The engine runs a COPY command with conversion, transpose and zero fill. -/
  | copy (core id : Nat)
  /-- `COPY_TO_IMEM` (R118). A COPY with DSPACE 01b writes raw words into IMEM. -/
  | copyToImem (core id : Nat)
  /-- `COPY_TO_TEMPLATE_STORE` (R118). A COPY with DSPACE 10b writes templates of the issuing context. -/
  | copyToTemplateStore (core id : Nat)
  /-- `PUBLISH` (R114). The engine runs a COPY whose destination rows are written row-atomically. -/
  | publish (core id : Nat)
  /-- `GATHER` (R115). The engine gathers indexed rows, writing null-index rows as zero. -/
  | gather (core id : Nat)
  /-- `RREAD` (R116). The engine sends remote row reads to peer scratchpads. -/
  | rread (core id : Nat)
  /-- `RREAD_REPLY` (R116). A remote row reply arrives and is written at its row position. -/
  | rreadReply (core id row : Nat)
  /-- `POOL` (R117). The engine forms weighted sums of indexed rows per bag. -/
  | pool (core id : Nat)
  /-- `CSR` (R120). The engine converts a dense matrix into values, column indices and row pointers. -/
  | csr (core id : Nat)
  /-- `DECODE` (R122). The engine moves compressed blocks through the codec into scratchpad. -/
  | decode (core id : Nat)
  /-- `ENCODE` (R122). The engine moves raw scratchpad blocks through the codec encoder. -/
  | encode (core id : Nat)
  /-- `HIST` (R123). The engine counts codec symbols of raw blocks into a histogram. -/
  | hist (core id : Nat)
  /-- `BUILD` (R123). The engine builds a valid code table block from a histogram. -/
  | build (core id : Nat)
  /-- `COPY_COMPLETION` (R126). A command completes, writes its status entry, then updates tag and watermark. -/
  | copyCompletion (core id : Nat)
  /-- `ALMANAC_RELEASE` (R128). A timed command is released when GTC reaches its TIME. -/
  | almanacRelease (core id : Nat)
  /-- `CODEC_DECODE_BLOCK` (R101). The decode pipe expands one compressed block into 16 output lines. -/
  | codecDecodeBlock (u : CodecUser)
  /-- `CODEC_ENCODE_BLOCK` (R102). The encode pipe compresses one raw block and writes it. -/
  | codecEncodeBlock (u : CodecUser)
  /-- `CHAIN_ENTRY_FETCH` (R392). A chain fetches its next entry, stopping on a fault or malformed entry. -/
  | chainEntryFetch (core ctx chan : Nat)
  /-- `CHAIN_SLOT_CONSUME` (R392). A chain entry's wait is satisfied and it subtracts WCNT and issues its command. -/
  | chainSlotConsume (core ctx chan : Nat)
  /-- `CHAIN_POST` (R392). After its command completes, an entry adds PCNT to its counter in entry order. -/
  | chainPost (core ctx chan : Nat)
  /-- `RING_AUDIT_EVENT` (R393). A paired ring undercount persisting for AUDIT ticks raises the audit event. -/
  | ringAuditEvent (ten n : Nat) (flip : Bool)
  /-- `TRIGGER_LAUNCH` (R394). Summit consumes one unit of a trigger counter and launches the next trigger card. -/
  | triggerLaunch (ten n : Nat)
  /-- `STREAM_ELEMENT_GENERATE` (R149). A pattern engine generates one element's addresses into a free line. -/
  | streamElementGenerate (core ctx sp : Nat)
  /-- `STREAM_LINE_FULL` (R146). All items of a source element have arrived and its line is set full. -/
  | streamLineFull (core ctx sp line : Nat)
  /-- `STREAM_DRAIN` (R146). A sink writes the items of its head line and sets it empty. -/
  | streamDrain (core ctx sp : Nat)
  /-- `MASK_LATCH` (R142). A stream latches its tile-mask register once the register is full. -/
  | maskLatch (core ctx sp : Nat)
  /-- `PEER_ELEMENT_ARRIVAL` (R153). An element from a peer sink or fork arrives in a reserved line of a peer source. -/
  | peerElementArrival (id : Nat)
  /-- `END_MARKER_ARRIVAL` (R153). The end marker of a peer sink or fork arrives at the peer source. -/
  | endMarkerArrival (id : Nat)
  /-- `WORK_LIST_SPILL` (R337). The work-list thread writes on-chip entries to the spill region. -/
  | workListSpill (core ctx : Nat)
  /-- `WORK_LIST_REFILL` (R337). The work-list thread reads spilled entries back on chip. -/
  | workListRefill (core ctx : Nat)
  /-- `ARRAY_OPERATION` (R282). A queued array operation reaches the array and runs in queue order. -/
  | arrayOperation (core : Nat)
  /-- `SCOUT_OPERATION` (R282). A queued scout operation reaches the scout array and runs in queue order. -/
  | scoutOperation (core : Nat)
  /-- `DEFERRED_POISON_TRAP` (R300). A poisoned bank cell met by a row traps the multiplication at the next XP boundary. -/
  | deferredPoisonTrap (core ctx : Nat)
  /-- `BARRIER_ARRIVAL_MESSAGE` (R330). A BARRX arrival reaches its target barrier and counts or is dropped and logged. -/
  | barrierArrivalMessage (id : Nat)
  /-- `HANDLER_DISPATCH` (R401). A pending trap or parked stream starts the system context at SR_TRAPENTRY when it is idle. -/
  | handlerDispatch (core : Nat)
  /-- `CORRECTABLE_ERROR_FREEZE` (R420). A correctable error freezes the core and its engines for 24 cc. -/
  | correctableErrorFreeze (err : FoundError)
  /-- `FREEZE_END` (R421). A 24 cc freeze expires and held port work is applied first. -/
  | freezeEnd (core : Nat)
  /-- `MSIX_WRITE` (R455). An MSI-X write is issued after the release that covers its record. -/
  | msixWrite (write : VectorWrite)
  /-- `TAIL_SWAP_REPORT` (R374). A swap on a registered tail word is reported and Summit accepts the card. -/
  | tailSwapReport (ten cls : Nat)
  /-- `STEP_BIND` (R385). Summit binds the oldest ready step to a gang and runs the bind sequence. -/
  | stepBind (ten pick : Nat)
  /-- `GANG_RELEASE` (R28). When every gang member is bound and cleared, all members may issue. -/
  | gangRelease (step : Nat)
  /-- `TRANSFORM_NODE_START` (R381). A ready transform node starts its chain on a free system channel 3. -/
  | transformNodeStart (ten : Nat)
  /-- `NODE_COMPLETION` (R382). A node's last step or chain ends and Summit decrements its successors. -/
  | nodeCompletion (run : Nat)
  /-- `CARD_COMPLETION` (R377). A card's work ends and Summit writes DGTC and STATE with a SYSTEM release. -/
  | cardCompletion (id : Nat)
  /-- `STEP_AGEING` (R388). A step ready for AGE ticks is treated as class 0. -/
  | stepAgeing (step : Nat)
  /-- `YIELD_REQUEST` (R388). A class-0 step waiting YLIM ticks makes Summit request a yield of a lower-class step. -/
  | yieldRequest (step victim : Nat)
  /-- `SET_ASIDE` (R411). A yielded gang's images are written to the yield area and its contexts freed. -/
  | setAside (step : Nat)
  /-- `QTAIL_WRITE` (R373). Writing QTAIL.EN to 1 records the tail word's value and starts a new chain. -/
  | qtailWrite (ten cls : Nat) (v : BitVec 64)
  /-- `CTR_WRITE` (R390). A write of COUNT sets the counter, increments SEQ and recomputes PAR. -/
  | ctrWrite (ten n : Nat) (v : BitVec 64)
  /-- `CCFG_WRITE` (R390). A write configures a counter; setting TRG resets the launch ordinal. -/
  | ccfgWrite (ten n : Nat) (v : BitVec 64)
  /-- `LPOST` (R429). In host-assisted dispatch, writing a card's VA accepts that card. -/
  | lpost (ten : Nat) (v : BitVec 64)
  /-- `FORCED_HALT` (R409). Writing HALT = 1 stops every user context of the partition at a boundary. -/
  | forcedHalt (ten : Nat)
  /-- `HALT_RELEASE` (R409). Writing HALT = 0 resumes a halted partition that was not swapped out. -/
  | haltRelease (ten : Nat)
  /-- `COOPERATIVE_REQUEST` (R410). Writing COOP = 1 halts each step at its next YIELD or DONE. -/
  | cooperativeRequest (ten : Nat)
  /-- `SWAP_OUT` (R412). Saves the halted partition to shadow storage and the swap area and parks it. -/
  | swapOut (ten : Nat)
  /-- `SWAP_IN` (R413). Restores a parked partition rank for rank. -/
  | swapIn (ten : Nat)
  /-- `SWAP_EXCHANGE` (R413). Swaps the halted partition out and the parked set in. -/
  | swapExchange (ten : Nat)
  /-- `TLBI_WHOLE_TENANT` (R79). TLBICMD GO with KIND 00b removes all of the tenant's translations. -/
  | tlbiWholeTenant (ten : Nat)
  /-- `TLBI_RANGE` (R79). TLBICMD GO with KIND 01b removes the tenant's translations overlapping a range. -/
  | tlbiRange (ten : Nat) (npages : BitVec 32)
  /-- `TLB_INVALIDATION_COMPLETE` (R79). BUSY clears once no removed entry remains and its accesses have performed. -/
  | tlbInvalidationComplete (ten : Nat)
  /-- `PARKQ_READ` (R405). A read of SR_PARKQ returns and removes the next parked port and latches its descriptor. -/
  | parkqRead (core : Nat)
  /-- `PARK_RESUME` (R405). SR_PARKACT resume clears PARK and retranslates the port. -/
  | parkResume (core ctx sp : Nat)
  /-- `PARK_DELIVER` (R405). SR_PARKACT deliver sets FLT on the parked port. -/
  | parkDeliver (core ctx sp : Nat)
  /-- `CECOUNT_READ` (R421). A read of SR_CECOUNT returns and clears the correctable-error count. -/
  | cecountRead (core : Nat)
  /-- `LOST_READ` (R427). A read of ELCFG returns and clears the LOST count. -/
  | lostRead (ten : Nat)
  /-- `CCTL_RESUME` (R448). Writing RESUME resumes a trapped context as ERET does. -/
  | cctlResume (core ctx : Nat)
  /-- `CCTL_PARK_RESUME` (R448). Writing PACT 01b resumes a parked port of the context. -/
  | cctlParkResume (core ctx sp : Nat)
  /-- `CCTL_PARK_DELIVER` (R448). Writing PACT 10b delivers the fault of a parked port. -/
  | cctlParkDeliver (core ctx sp : Nat)
  /-- `CPART_MOVE` (R449). A write changing VALID or TEN moves the cluster out of its partition and starts its scrub. -/
  | cpartMove (c : Nat) (v : BitVec 64)
  /-- `CPART_MOVE_COMPLETE` (R449). The scrub ends, BUSY clears and the cluster joins the new partition. -/
  | cpartMoveComplete (c : Nat)
  /-- `RETRAIN` (R426). Writing BRCTL RETRAIN retrains a bridge that is down. -/
  | retrain 
  /-- `PORT_MODE_OFF` (R457). Writing MODE 00b turns a port off and abandons a frame in progress. -/
  | portModeOff (p : Nat)
  /-- `PORT_MODE_NYMAY` (R457). Writing MODE 01b makes the port a Nymay link. -/
  | portModeNymay (p : Nat)
  /-- `PORT_MODE_INGRESS` (R457). Writing MODE 10b makes the port a frame ingress port. -/
  | portModeIngress (p : Nat)
  /-- `PORT_COUNTER_READ` (R459). A read of an ingress counter returns and clears it. -/
  | portCounterRead (p ctr : Nat)
  /-- `REGISTER_WRITE` (R6). A write to a register without a row of its own updates its RW and W1C fields. -/
  | registerWrite (fn off n : Nat) (v : BitVec 64)
  /-- `VF_FLR` (R452). A function level reset of a VF tears down its tenant. -/
  | vfFlr (ten : Nat)
  /-- `PF0_FLR` (R452). A function level reset of PF0 tears down every tenant and resets device control. -/
  | pf0Flr 
  /-- `HOST_POSTED_WRITE` (R369). A host posted write arrives through BAR2 in PCIe order and is window-checked. -/
  | hostPostedWrite (fn off : Nat) (bs : List Byte)
  /-- `HOST_READ` (R451). A host read through BAR2 is window-checked and completed. -/
  | hostRead (fn : Nat) (bar0 : Bool) (off n : Nat)
  /-- `HOST_ATOMICOP` (R453). A PCIe AtomicOp runs at the memory-side atomic unit. -/
  | hostAtomicop (fn off n : Nat) (op : ReqOp) (v : BitVec 64)
  /-- `SPDM_REQUEST` (R462). An SPDM request over DOE is answered. -/
  | spdmRequest (req : List Byte)
  /-- `DEVICE_RESET` (R461). Reset starts the boot ROM, which trains stack 0 and the host port. -/
  | deviceReset 
  /-- `FIRMWARE_IMAGE_VERIFY` (R461). The boot ROM verifies a written firmware image and starts the system contexts or stops. -/
  | firmwareImageVerify 
  /-- `THERMAL_WARNING` (R463). Junction temperature reaching 95 °C sets the warning and logs. -/
  | thermalWarning (temp : Nat)
  /-- `THERMAL_TRIP` (R463). Junction temperature reaching 105 °C latches trip and stops cores and links. -/
  | thermalTrip (temp : Nat)
  /-- `BRIDGE_RETRAIN_EVENT` (R425). The Baroa bridge starts retraining and holds flits for replay. -/
  | bridgeRetrainEvent 
  /-- `BRIDGE_LINK_DOWN` (R426). A retrain exceeding 100 µs brings the bridge down. -/
  | bridgeLinkDown 
  /-- `BRIDGE_TRAINING_COMPLETE` (R426). Bridge training succeeds, UP sets and dispatch to die 1 resumes. -/
  | bridgeTrainingComplete 
  /-- `NYMAY_LINK_DOWN` (R456). Loss of a Nymay link fails peer-window traffic as link down. -/
  | nymayLinkDown (p : Nat)
  /-- `NYMAY_REQUEST_ARRIVAL` (R456). A request arriving on a Nymay port is checked against the port tenant's windows. -/
  | nymayRequestArrival (p off n : Nat) (op : ReqOp) (v : BitVec 64)
  /-- `GVSP_LEADER` (R459). A GVSP leader takes a free slot or drops the block. -/
  | gvspLeader (p : Nat) (g : Gvsp) (width height pix : BitVec 32)
  /-- `GVSP_PAYLOAD` (R459). A GVSP payload packet writes its data into the held slot. -/
  | gvspPayload (p : Nat) (g : Gvsp) (pkt : Nat) (bs : List Byte)
  /-- `GVSP_TRAILER` (R459). A GVSP trailer completes the slot header and posts the full-slot counter. -/
  | gvspTrailer (p : Nat) (g : Gvsp) (len : Nat)
  /-- `GVSP_PACKET_REFUSED` (R458). A datagram outside the accepted subset is counted in BADPKT and dropped. -/
  | gvspPacketRefused (d : PortDatagram)
  /-- `FRAME_TIMEOUT` (R459). No packet of a frame for FTO µs abandons the frame. -/
  | frameTimeout (p : Nat)
  /-- `HOST_INGRESS_FRAME` (R459). In host-assisted ingress, a received Ethernet frame is written to the host ring. -/
  | hostIngressFrame (p : Nat) (bs : List Byte)
  /-- `TIME_SYNC_MESSAGE` (R460). A PTM or IEEE 1588 timing message updates TADJ and HOFF. -/
  | timeSyncMessage 
  /-- `CXL_MEM_REQUEST` (R454). A host CXL.mem load or store reaches a tenant's DRAM window as host-managed device memory. -/
  | cxlMemRequest (ten off n : Nat) (wr : Option (List Byte))
  /-- `NYMAY_LINK_RETRAIN` (R456). A Nymay port starts retraining, holding flits for replay as R425 states for the bridge. -/
  | nymayLinkRetrain (p : Nat)
  /-- `ETHERNET_LINK_UP` (R456). An Ethernet port's link comes up and PCFG.UP sets, making it usable for peer-window routing or frame ingress. -/
  | ethernetLinkUp (p : Nat)
  deriving DecidableEq, Repr

end Sys2Proof
end

