-- ==== Sys2Proof/Machine/State.lean ====
section
/-! DEFINITION. The state of the H7 as plain data: everything the spec gives the machine, and the model's own schedule. -/

namespace Sys2Proof.Machine
open Sys2Proof

/-! ## Registers of a context -/

/-- An AP scalar register: value, poison (R173), taint (R203). -/
structure AReg where
  v : BitVec 64 := 0
  bad : Bool := false
  taint : Bool := false
  deriving DecidableEq, Repr

/-- A predicate with its poison (R165, R202). -/
structure PReg where
  v : Bool := false
  bad : Bool := false
  deriving DecidableEq, Repr

/-- A vector register: bytes, poison per 8-byte chunk (R173), full/empty (R171), and `busy` while a scout score of it is
on its way (R303). -/
structure VReg where
  v : BitVec 2048 := 0
  bad : BitVec 32 := 0
  full : Bool := true
  busy : Bool := false
  deriving DecidableEq, Repr

/-- An x register with its poison. -/
structure XReg where
  v : BitVec 32 := 0
  bad : Bool := false
  deriving DecidableEq, Repr

/-- A lane-mask register with its poison. -/
structure MReg where
  v : BitVec 64 := 0
  bad : Bool := false
  deriving DecidableEq, Repr

/-- A tile-mask register: value, poison, full/empty (R166, R171). -/
structure GReg where
  v : BitVec 64 := 0
  bad : Bool := false
  full : Bool := true
  deriving DecidableEq, Repr

/-- An entry of the AP loop stack (R210). -/
structure ApLoop where
  start : Nat
  fin : Nat
  remaining : Nat
  deriving DecidableEq, Repr

/-- An entry of the XP loop stack (R267): rotating ranges as (base, ring length). -/
structure XpLoop where
  start : Nat
  fin : Nat
  remaining : Nat
  iter : Nat
  ranges : List (Nat × Nat)
  deriving DecidableEq, Repr

/-! ## A half of a context -/

/-- The group being executed: its thread, its offset, the offset of the next group, its operation word, and the template a
storing literal writes when it completes (R185). -/
structure Cur where
  tid : Tid := ⟨0, 0, .ap⟩
  pc : Nat := 0
  pcn : Nat := 0
  op : BitVec 128 := 0
  store : Option (BitVec 6) := none
  deriving DecidableEq, Repr

/-- What a WAIT has read of its condition block and waits for: all of its entries or any, how many, the block (R322, R323). -/
structure WaitSet where
  all : Bool
  n : Nat
  blk : BitVec 512
  deriving DecidableEq, Repr

/-- A word that waits under R10: whether it has issued (its token masks have acted, R176), the GTC its counted wait began
at, the ticks counted before that (R406), the deadline of a WAIT and the conditions it read (R322, R323), and the next
identifier at the issue of a CPQ (R319). `word` is a word that has issued, as it was fetched (R188); `blk` the command block and the
time word that a copy form has read (R315); `latched` the result word with which a WAIT has ended, none where a word it compared is
poisoned (R323, R324). -/
structure Stall where
  issued : Bool
  since : Nat
  acc : Nat
  deadline : Option Nat
  conds : Option WaitSet := none
  mark : Option Nat := none
  word : Option Cur := none
  blk : Option (BitVec 512 × BitVec 64) := none
  latched : Option (Option Nat) := none
  deriving DecidableEq, Repr

/-- Arrival at RDV (R25): none, waiting for the partner, or released by it. -/
inductive Rdv where | none | arrived | met
  deriving DecidableEq, Repr

/-- A half: program counter, activity, incoming token FIFOs (R175), template store (R180), wait, rendezvous. `srSeen` gives, by
number, the values of special registers that the half still sees though the other half has written them (R347). -/
structure Half where
  pc : Nat := 0
  active : Bool := false
  toks : SMap Nat := []
  tmpl : SMap (BitVec 128) := []
  tmplBad : SMap Bool := []
  stall : Option Stall := none
  rdv : Rdv := .none
  srSeen : SMap (BitVec 64) := []
  deriving DecidableEq, Repr

/-! ## Translated addresses -/

/-- The ordering kinds (R71, R365). -/
inductive Ord where | so | rc | un
  deriving DecidableEq, Repr

/-- A translated page part. -/
structure Part where
  pa : Nat
  ord : Ord
  mt : Nat
  deriving DecidableEq, Repr

/-! ## Copy commands, codec tables, chains -/

/-- A code table held by the codec for a request (R96); `bad` where an uncorrectable error has struck it (R422). -/
structure CodecTable where
  tid : BitVec 32
  fmt : Fmt
  lens : List Nat
  bad : Bool := false
  deriving DecidableEq, Repr

/-- How a command stands: held in the Almanac or waiting to start, running, ended but not yet completed. -/
inductive CmdPhase where | waiting | running | ended
  deriving DecidableEq, Repr

/-- What a command reports (Table 05-6). -/
structure CmdResult where
  status : Nat := 0
  reason : Nat := 0
  codec : Nat := 0
  pois : Bool := false
  ph2 : Bool := false
  count : Nat := 0
  ares : Nat := 0
  scrc : Nat := 0
  dcrc : Nat := 0
  fault : BitVec 256 := 0
  deriving DecidableEq, Repr

/-- Why a command stops short (R111, R120, R127): a fault, a link that is down, a reason found while it runs, too many values; or
for now: an access must wait, or its turn is over (R130). -/
inductive Halt where
  | fault (f : BitVec 256)
  | link
  | reject (reason : Nat)
  | overrun
  | notYet
  | pause
  deriving DecidableEq, Repr

/-- What an access of a command that moves its data by beats has found (R130, R354): page parts, bytes with their poison, whether a
write was performed, or how the command stops at it. -/
inductive Did where
  | parts (ps : List (Part × Nat))
  | bytes (bs : List (Byte × Bool))
  | wrote (ok : Bool)
  | halted (h : Halt)
  deriving DecidableEq, Repr

/-- An outstanding copy command (R105 to R130); `ten` is the tenant its accesses carry (16: the system). `rows` are the remote
rows still to arrive, with their index entries (R116), `block` the codec blocks done (R122); `srcRows` holds, by row or block,
the bytes read, and `img` the destination image, for the CRCs of a command that takes several steps (R125). `bad` marks one whose
block came poisoned from a chain (R16). Of one that moves its data by beats, `log` is what its accesses have found, and `beat` counts
the words read and written in its present beat (R130), `gen` the number at which it last translated (R79). -/
structure Cmd where
  id : Nat
  ctx : Nat
  ten : Nat
  chan : Nat
  tag : Nat
  xid : Nat
  blk : BitVec 512
  time : Option Nat := none
  ofChain : Bool := false
  phase : CmdPhase := .waiting
  wrote : Bool := false
  table : Option CodecTable := none
  block : Nat := 0
  rows : SMap Nat := []
  srcRows : SMap (List Byte) := []
  img : SMap Byte := []
  res : CmdResult := {}
  bad : Bool := false
  log : List Did := []
  beat : Nat × Nat := (0, 0)
  gen : Nat := 0
  deriving DecidableEq, Repr

/-- An entry's post that is still to be made (R392): counter and slots, and the command it waits for. -/
structure ChainPost where
  post : Option (Nat × Nat)
  took : Nat := 0
  wctr : Nat := 0
  cmd : Option Nat
  last : Bool
  status : Option Nat := none
  deriving DecidableEq, Repr

/-- A chain entry fetched and not yet issued (Table 15-13), as its 1024 bits: whether its command came poisoned (R16), and whether its
slots are consumed, so that its command alone still waits (R392). -/
structure ChainEntry where
  va : Nat
  raw : BitVec 1024
  bad : Bool := false
  took : Bool := false
  deriving DecidableEq, Repr

/-- A chain linked to a channel (R338, R392). `next` is the first entry not started, none past the end. `node` is the
transform node it runs (R381). -/
structure Chain where
  next : Option Nat
  running : Bool := false
  failed : Bool := false
  entry : Option ChainEntry := none
  posts : List ChainPost := []
  node : Option Nat := none
  deriving DecidableEq, Repr

/-- A copy channel: next identifier, watermark, identifiers completed beyond it, its chain (R105, R106, R338). -/
structure Chan where
  nextId : Nat := 1
  mark : Nat := 0
  ahead : List Nat := []
  chain : Option Chain := none
  deriving DecidableEq, Repr

/-! ## Streams -/

/-- An element position: the indices of levels 1 to 5; past the end, i5 = COUNT5 and the others 0 (R158). -/
structure Pos where
  i1 : Nat := 0
  i2 : Nat := 0
  i3 : Nat := 0
  i4 : Nat := 0
  i5 : Nat := 0
  deriving DecidableEq, Repr

/-- One item of an element: where it lies (none for a padded or outside item), as a physical byte address, in bits from
the start of that byte, and in bytes of a codec stream's decoded tensor; its virtual address or local offset. -/
structure Item where
  pa : Option Nat
  nib : Bool := false
  ord : Nat := 1
  mt : Nat := 0
  va : Nat := 0
  deriving DecidableEq, Repr

/-- A line of a ring that is reserved or full (R146): the element's position, and the position from which the mask was asked for it
(`frm`), its items, whether it is full, the number at which it was translated. A codec source builds its element over several blocks: `got` items stand in `part` (R104).
Of another source `got` of the element's words have been read, and of a sink written (R354). -/
structure Line where
  pos : Pos
  frm : Pos := {}
  full : Bool
  gen : Nat := 0
  items : List Item := []
  got : Nat := 0
  part : BitVec 2048 := 0
  partBad : BitVec 32 := 0
  deriving DecidableEq, Repr

/-- A stream port (R138 to R164). `shadow` and `cfg` are the words at record offsets 0 to 56. `lines` runs from the ring's
head on. `latch` is the latched mask and its poison (R142); `next` is the position after the last element generated or
pushed, which the mask has not yet been asked about. `fltLines` counts the lines of a failed sink that still drain, those
before the element it failed at (R162); `blocked` marks restored lines whose mask was poisoned (R142, R160); `usedAt` is the cycle of
the core in which the XP last popped or pushed it (R152). -/
structure Port where
  shadow : SMap (BitVec 64) := []
  cfg : SMap (BitVec 64) := []
  act : Bool := false
  ended : Bool := false
  eflag : Bool := false
  park : Bool := false
  flt : Bool := false
  cpos : Pos := {}
  fpos : Pos := {}
  mark : Pos := {}
  latch : Option (BitVec 64 × Bool) := none
  head : Nat := 0
  lines : List Line := []
  fault : BitVec 256 := 0
  fltPos : Pos := {}
  ord : Nat := 0
  cst : Nat := 0
  table : Option CodecTable := none
  block : Option Nat := none
  endSent : Bool := false
  endGot : Bool := false
  restored : Nat := 0
  sendFrom : Pos := {}
  next : Pos := {}
  fltLines : Nat := 0
  blocked : Bool := false
  usedAt : Option Nat := none
  deriving DecidableEq, Repr

/-- The ports of a context that no bind has cleared: SCALE is 1.0 at reset (R48). -/
def resetPorts : SMap Port := (List.range 16).map fun n => (n, { shadow := [(3, 0x3F80000000000000)] })

/-- An element or end marker on its way between two ports (R153 to R155); not `ready` while its line is not yet full. -/
structure Elem where
  id : Nat
  core : Nat
  ctx : Nat
  sp : Nat
  toCore : Nat
  toCtx : Nat
  toSp : Nat
  data : BitVec 2048
  bad : BitVec 32
  isEnd : Bool
  ready : Bool := true
  deriving DecidableEq, Repr

/-! ## Elision -/

/-- An elided region (R223 to R225): the abort register, the fallback, the checkpoint, the tracked lines, the held bytes
and the poison held for their 8-byte words; the words written by local offset, which no window governs (R82); the number at which
it began (R79). -/
structure Elide where
  rd : BitVec 5
  fallback : Nat
  a : SMap AReg
  p : SMap PReg
  loops : List ApLoop
  lines : List Nat
  writes : SMap Byte
  wbad : SMap Bool
  locs : List Nat := []
  gen : Nat := 0
  deriving DecidableEq, Repr

/-! ## Matrix units -/

/-- A weight bank (R277): format, orientation, fill pointer, band scale; each K-row packed in column order, with poison by
nibble; for FP4 the eight block scales of each column, with poison by scale. -/
structure Bank where
  fmt : Fmt := .e4m3
  rowMajor : Bool := false
  fp : Nat := 0
  band : BitVec 16 := 0x3F80
  rows : SMap (BitVec 1024) := []
  bad : SMap (BitVec 256) := []
  scales : SMap (BitVec 96) := []
  scaleBad : SMap (BitVec 8) := []
  deriving DecidableEq, Repr

/-- An element held by the scout units, with its poison. -/
structure EBuf where
  v : BitVec 2048 := 0
  bad : BitVec 32 := 0
  deriving DecidableEq, Repr

/-- A Poison trap of R300 that is pending: operation word, group offset, bank, K-row, column. -/
structure MmTrap where
  op : BitVec 128
  pc : Nat
  other : Bool
  krow : Nat
  col : Nat
  deriving DecidableEq, Repr

/-- The matrix state of a context: two banks and which is active (`actB` for bank B), accumulators at 256r + c with poison
per 8-byte chunk at 128r + c div 2 (R284), the scout buffers (R287, R303), a pending trap (R300). -/
structure Mx where
  bankA : Bank := {}
  bankB : Bank := {}
  actB : Bool := false
  acc : SMap (BitVec 32) := []
  accBad : SMap Bool := []
  qry : SMap EBuf := []
  key : SMap EBuf := []
  recv : BitVec 32 := 0
  pend : Option MmTrap := none
  deriving DecidableEq, Repr

/-- A queued array operation (R282), with what it read at issue. `bank` is true for bank B. -/
inductive ArrOp where
  | load (ctx : Nat) (bank : Bool) (fmt : Fmt) (rowMajor : Bool) (e : Nat) (v : BitVec 2048) (bad : BitVec 32)
  | fill (ctx : Nat) (bank : Bool) (fmt : Fmt) (ones : List (Nat × Nat))
  | swap (ctx : Nat)
  | mul (ctx : Nat) (bank : Bool) (other : Bool) (af wf : Fmt) (rowMajor : Bool) (band : BitVec 16) (sc : BitVec 32)
      (base : Nat) (ovw : Bool) (keep : List Bool) (v : BitVec 2048) (op : BitVec 128) (pc : Nat)
  | read (ctx row cg : Nat) (clr : Bool) (dst : Nat)
  | readSp (ctx row cg : Nat) (clr : Bool) (first : Nat)
  | clear (ctx row n : Nat)
  deriving DecidableEq, Repr

/-- A queued scout operation (R282, R303). The destination of a score is a level and an index. -/
inductive ScoutOp where
  | query (ctx e : Nat) (v : BitVec 2048) (bad : BitVec 32)
  | key (ctx e : Nat) (v : BitVec 2048) (bad : BitVec 32)
  | score (ctx e nq nk segs lane : Nat) (lvl : Level) (idx : Nat) (v : BitVec 2048) (bad : BitVec 32)
  deriving DecidableEq, Repr

/-! ## Work lists -/

/-- A work list (R333 to R337): configuration, the oldest entries on chip, the spilled chunks in the region from chunk
`spAt` on, the newest entries on chip; FLT and its descriptor. Each entry has its poison. -/
structure WorkList where
  base : BitVec 64 := 0
  cfg : BitVec 64 := 0
  front : List (BitVec 32 × Bool) := []
  spAt : Nat := 0
  spN : Nat := 0
  back : List (BitVec 32 × Bool) := []
  flt : Bool := false
  desc : BitVec 256 := 0
  deriving DecidableEq, Repr

/-! ## Contexts -/

/-- What a bind gives a context (R386, Table 07-2): the tenant, the gang, its shape, the step; `cls0` where it has aged (R388). -/
structure Bind where
  tenant : Nat := 0
  gang : Nat := 0
  shape : Nat := 0
  released : Bool := false
  nmain : Nat := 0
  vreq : Nat := 0
  scount : Nat := 0
  aentry : Nat := 0
  xentry : Nat := 0
  card : Nat := 0
  cls : Nat := 0
  cls0 : Bool := false
  node : Nat := 0
  inst : Nat := 0
  step : Nat := 0
  run : Nat := 0
  coord : List Nat := []
  valid : Nat := 0xFFFFFFFF
  validBad : Bool := false
  img : Nat × Nat × Nat := (0, 0, 0)
  deriving DecidableEq, Repr

/-- A context of a core. `atYield` marks a context that a yield request has halted at its YIELD (R411); `resumed` is the cycle
of the last RESUME that resumed it (R448); `ending` marks an abandoned step whose engines are still at work (R402); `redirect` is the
fallback of a region that has aborted while a trap stopped the context, at which its AP resumes (R225). -/
structure Ctx where
  bind : Option Bind := none
  ap : Half := {}
  xp : Half := {}
  a : SMap AReg := []
  p : SMap PReg := []
  v : SMap VReg := []
  o : SMap VReg := []
  lt : SMap VReg := []
  x : SMap XReg := []
  m : SMap MReg := []
  g : SMap GReg := []
  apLoops : List ApLoop := []
  xpLoops : List XpLoop := []
  ports : SMap Port := resetPorts
  tags : BitVec 64 := 0
  counts : SMap Nat := []
  chans : SMap Chan := []
  copyStat : BitVec 64 := 0
  trapped : Bool := false
  pend : Bool := false
  halted : Bool := false
  yielding : Bool := false
  trapCause : BitVec 64 := 0
  trapArea : BitVec 64 := 0
  rerr : Bool := false
  atYield : Bool := false
  resumed : Option Nat := none
  ending : Bool := false
  redirect : Option Nat := none
  elide : Option Elide := none
  mx : Mx := {}
  wl : WorkList := {}
  deriving DecidableEq, Repr

/-! ## Cores -/

/-- A barrier (R327), and its poison (R422). -/
structure Bar where
  e : Nat := 0
  a : Nat := 0
  p : Bool := false
  bad : Bool := false
  deriving DecidableEq, Repr

/-- What Summit, the host or another core tells a core: contexts of a tenant halt or go on (R409), a write of a context's control
register (R448), a yield request (R388), a line of a peer sink that its target has accepted (R154); that a link is down, which cuts a
stream or the reads of its copies (R426); that a chain must stop (R393); that an access has conflicted with the region of a context
(R224). -/
inductive CtlWork where
  | halt (ten : Nat)
  | goOn (ten : Nat)
  | control (ctx v : Nat)
  | yield (ctx : Nat)
  | freed (ctx port : Nat)
  | cut (ctx port : Nat)
  | loseRows
  | chainStop (ctx chan : Nat)
  | strike (ctx : Nat)
  deriving DecidableEq, Repr

/-- Work that reaches the port of a core, and is held there while the core is frozen (R325, R420). -/
inductive PortWork where
  | token (id : Nat)
  | barrier (id : Nat)
  | memory (id : Nat) (ue : Bool)
  | atomic (id : Nat) (ue : Bool)
  | loadData (id : Nat)
  | completion (core id : Nat)
  | post (core ctx chan : Nat)
  | element (id : Nat)
  | marker (id : Nat)
  | reply (core id row : Nat)
  | ctl (core : Nat) (w : CtlWork)
  deriving DecidableEq, Repr

/-- A core. `inBeat` is the copy command in whose beat the engine is, and `beatTurn` the command that had the last (R130); `slotWas` gives
the slot tables before a write, with its cycle, in which they still hold (R387). `cmdTurn`, `decTurn` and `encTurn` are the places in the round-robin orders at which the copy engine and the codec's
pipes go on (R103, R130), `genTurn` that of the pattern engines and `genAt` the cycle of their last element (R149), and each starts at 0
(log entry 116); `issuedAt` gives
for the AP (0) and the XP (1) the cycle of the last issue, its context and how many words of it have issued in that cycle (R21),
`sampledAt` the cycle of the last word that reads or waits on what a completion changes (R317), `portAt` the cycle and the context of the last stream form that the AP has issued, with the ports that such forms of that cycle name
(R152, R228); `ceAt` is the cycle of the last
correctable error (R421), `frozenAt` that at which a freeze began, and `lost` counts the cycles of the freezes before it, in which
the core did not advance (R7). -/
structure Core where
  ctxs : SMap Ctx := []
  imem : SMap Byte := []
  imemBad : SMap Bool := []
  images : List (Nat × Nat × Nat) := []
  bars : SMap Bar := []
  arrayQ : List ArrOp := []
  scoutQ : List ScoutOp := []
  cmds : List Cmd := []
  cmdTurn : Nat := 0
  decTurn : Nat := 0
  encTurn : Nat := 0
  inBeat : Option Nat := none
  beatTurn : Nat := 0
  genTurn : Nat := 0
  genAt : Option Nat := none
  parkQ : List (Nat × Nat) := []
  parkDesc : BitVec 256 := 0
  trapEntry : BitVec 64 := 0
  slotAp : BitVec 64 := 0
  slotXp : BitVec 64 := 0
  slotWas : Option (Nat × BitVec 64 × BitVec 64) := none
  watchdog : BitVec 64 := 0x00989680
  ceCount : BitVec 32 := 0
  freezes : Nat := 0
  held : List PortWork := []
  handling : Option Nat := none
  issuedAt : SMap (Nat × Nat × Nat) := []
  sampledAt : Option Nat := none
  portAt : Option (Nat × Nat × List Nat) := none
  frozenAt : Option Nat := none
  lost : Nat := 0
  ceAt : Option Nat := none
  doubleTrap : Bool := false
  deriving DecidableEq, Repr

/-! ## Requests in flight -/

/-- Where the data of a read go: nowhere, an AP register (with its extension, R212, and the taint it takes, R203), or bytes
of a main vector: `n` lanes from `lane` on, each extended as `ty` says (R271). -/
inductive ReqDst where
  | none
  | areg (rd : BitVec 5) (ty : AccTy) (taint : Bool) (pd : BitVec 3)
  | vec (idx lane n : Nat) (ty : Fmt)
  deriving DecidableEq, Repr

/-- One access in flight (R353 to R357): its thread, address and size, its ordering, and whether it has performed. `loc` marks
a local offset, which no window governs. `data` is what a write stores; `ready` is false while that value is still to come
(R301). `sent` numbers the moment from which no earlier access of its thread holds it: a write is then in the outbound path of
its core (R355). `grp` gives the first request of a vector access and their count (R272). -/
structure Req where
  id : Nat
  tid : Tid
  op : ReqOp
  pa : Nat
  n : Nat
  ord : Ord
  mt : Nat
  ten : Nat
  sys : Bool
  loc : Bool := false
  sent : Option Nat := none
  grp : Option (Nat × Nat) := none
  data : BitVec 64 := 0
  dbad : Bool := false
  ready : Bool := true
  dst : ReqDst := .none
  acq : Bool := false
  ldc : Bool := false
  tainted : Bool := false
  done : Bool := false
  res : BitVec 64 := 0
  rbad : Bool := false
  wrote : Bool := false
  deriving DecidableEq, Repr

/-- A value of a long-latency producer on its way to its register (R171): a main vector, a tile-mask register, or a vector
load, whose data its accesses write (R272). -/
inductive Deliv where
  | load (core ctx idx : Nat)
  | vec (core ctx idx : Nat) (v : BitVec 2048) (bad : BitVec 32)
  | mask (core ctx idx : Nat) (v : BitVec 64) (bad : Bool)
  deriving DecidableEq, Repr

/-- A token on its way (R176): the FIFO it enters, the requests it waits for, and whether its word has completed. -/
structure Tok where
  id : Nat
  src : Tid
  dst : Tid
  chan : Nat
  after : List Nat
  held : Bool
  deriving DecidableEq, Repr

/-- A barrier arrival on its way (R330). -/
structure BarMsg where
  id : Nat
  src : Tid
  core : Nat
  bar : Nat
  deriving DecidableEq, Repr

/-! ## Translation -/

/-- A leaf entry held by the TLBs, with the core that filled it (R72 to R79): tenant (16 for the system), page base and level,
the entry. -/
structure TlbEntry where
  core : Nat
  ten : Nat
  lvl : Nat
  page : Nat
  pte : BitVec 64
  deriving DecidableEq, Repr

/-- A non-leaf entry held by a walk cache (R75): stack group, tenant, level, the address bits above it, the entry. -/
structure WalkEntry where
  group : Nat
  ten : Nat
  lvl : Nat
  tag : Nat
  pte : BitVec 64
  deriving DecidableEq, Repr

/-- A translation block (R62, Tables 03-2 to 03-5, 03-10, 03-11); `busy` while an invalidation runs, which waits for the
requests and stream lines whose numbers are below `mark`. -/
structure Trans where
  ptroot : BitVec 64 := 0
  tlbiva : BitVec 64 := 0
  npages : BitVec 32 := 0
  kind : BitVec 2 := 0
  busy : Bool := false
  err : Bool := false
  mark : Nat := 0
  twbase : SMap (BitVec 64) := []
  twlimit : SMap (BitVec 64) := []
  deriving DecidableEq, Repr

/-! ## Summit -/

/-- A ring-slot counter (R390 to R394): `parBad` when its parity no longer matches; `k` the launch ordinal; `short` the
time since which an audit shortfall has held; `waiters` the chains waiting, the first to begin first. -/
structure Ctr where
  count : Nat := 0
  seq : Nat := 0
  parBad : Bool := false
  ccfg : BitVec 64 := 0
  trgva : BitVec 64 := 0
  k : Nat := 0
  short : Option Nat := none
  waiters : List (Nat × Nat × Nat) := []
  deriving DecidableEq, Repr

/-- A launch queue (R373, R374): QTAIL, ERR, the last value accepted, the card whose LINK comes next, accepted cards in
order. -/
structure Queue where
  qtail : BitVec 64 := 0
  err : Bool := false
  last : Nat := 0
  prev : Option Nat := none
  cards : List Nat := []
  deriving DecidableEq, Repr

/-- A launch block (Table 15-1). -/
structure Launch where
  lcfg : BitVec 64 := 1
  age : BitVec 32 := 0x000F4240
  audit : BitVec 32 := 0x00989680
  ylim : BitVec 32 := 0x000186A0
  queues : SMap Queue := []
  ctrs : SMap Ctr := []
  deriving DecidableEq, Repr

/-- An error log: base, configuration (NOIRQ, SIZE, EN, VEC), dropped entries, head, tail (R407, R427). -/
structure Log where
  base : BitVec 64 := 0
  cfg : BitVec 64 := 0
  lost : Nat := 0
  head : BitVec 32 := 0
  tail : BitVec 32 := 0
  deriving DecidableEq, Repr

/-- A tenant control block (Table 16-5). `swap` is the SWAP in progress (0: none; R408). -/
structure Control where
  fsplit : BitVec 64 := 0
  halt : Bool := false
  coop : Bool := false
  swerr : Bool := false
  swap : Nat := 0
  swapbase : BitVec 64 := 0
  ybase : BitVec 64 := 0
  log : Log := {}
  deriving DecidableEq, Repr

/-- A node of an instance of a card that has become ready and is not complete: steps still to end, and for a transform node
the core that runs its chain (R381, R382). -/
structure NodeRun where
  id : Nat
  card : Nat
  inst : Nat
  node : Nat
  left : Nat
  xform : Bool
  chain : Option Nat := none
  since : Nat
  deriving DecidableEq, Repr

/-- An accepted job card that is not complete (R376, R377). `nodesLeft` counts the nodes of its instances still to
complete; `ran` lists the nodes that node cards have run for it (R429); `fail` is the STATE, REASON, NIDX and IOFF it will
end with; `trig` is the launch ordinal of a trigger card (R394); `note` the node and the instance offset of its first step to have ended
with a stream drained with FLT (R343). -/
structure Card where
  id : Nat
  ten : Nat
  cls : Nat
  va : Nat
  kind : Nat
  irq : Bool
  vec : Nat
  graph : Nat
  node : Nat
  inst : Nat
  ninst : Nat
  work : Nat
  nodesLeft : Nat
  fail : Option (Nat × Nat × Nat × Nat) := none
  ran : List (Nat × Nat) := []
  queued : Bool := true
  trig : Option Nat := none
  note : Option (Nat × Nat) := none
  deriving DecidableEq, Repr

/-- A parked context of a swap (R412): the rank of its core in the partition, its context number, what it held, its ports
queued for park service, its cancelled copies, the pushes of words that wait in it, what its ports have sent and no target yet takes
(R153); `shadowBad` marks an uncorrectable word of
shadow storage in another section than accumulators and vectors (R413). -/
structure ParkedCtx where
  rank : Nat
  ctx : Nat
  held : Ctx
  parked : List Nat
  cmds : List Cmd
  toks : List Tok
  elems : List Elem := []
  shadowBad : Bool := false
  deriving DecidableEq, Repr

/-- A parked set (R412, R413): the mode of the swap (R429), its clusters (R449), its contexts, and each rank's barriers. -/
structure Parked where
  host : Bool := false
  clusters : List Nat := []
  ctxs : List ParkedCtx
  bars : List (Nat × SMap Bar)
  deriving DecidableEq, Repr

/-- A tile step that is ready (R384, R385): its node's run, class, coordinates, VALID, the time it became ready; `aside`
gives the cores of a step set aside with what they held (R411), `cls0` an aged step (R388); `validBad` is the poison of VALID (R16), `heldSince`
the time since which it has waited for what other steps hold (R388). -/
structure TileStep where
  id : Nat
  run : Nat
  card : Nat
  ten : Nat
  cls : Nat
  inst : Nat
  node : Nat
  coord : List Nat
  valid : Nat
  since : Nat
  cls0 : Bool := false
  aside : Option (List (Nat × ParkedCtx)) := none
  validBad : Bool := false
  heldSince : Option Nat := none
  deriving DecidableEq, Repr

/-- A swap on a registered tail word, reported and not yet taken by Summit (R374). -/
structure Report where
  ten : Nat
  cls : Nat
  old : Nat
  new : Nat
  deriving DecidableEq, Repr

/-- A frame that a port receives (R459): its block, leader time, packet IDs received, bytes that fitted, and the time of its
last packet. -/
structure Frame where
  block : Nat
  lgtc : Nat
  ids : List Nat := []
  bytes : Nat := 0
  lastAt : Nat := 0
  deriving DecidableEq, Repr

/-- An Ethernet port (Table 20-5, R456 to R459): `slot` is the slot index, `held` whether its slot is held without a frame,
`dropped` the blocks of which every packet is dropped, `hidx` the entry of the host ring that comes next, `reply` the last
answer to a peer's request, and whether it is poisoned. -/
structure EthPort where
  pcfg : BitVec 64 := 0
  rbase : BitVec 64 := 0
  rcfg : BitVec 64 := 0
  frames : Nat := 0
  drop : Nat := 0
  incompl : Nat := 0
  badpkt : Nat := 0
  hrbase : BitVec 64 := 0
  up : Bool := false
  err : Bool := false
  slot : Nat := 0
  frame : Option Frame := none
  hidx : Nat := 0
  retrain : Option Nat := none
  held : Bool := false
  dropped : List Nat := []
  reply : List Byte := []
  replyBad : Bool := false
  deriving DecidableEq, Repr

/-- CPART of a cluster (Table 20-11), with the tenant that a move in progress leaves. -/
structure Cpart where
  busy : Bool := false
  old : Option Nat := none
  err : Bool := false
  valid : Bool := false
  ten : Nat := 0
  deriving DecidableEq, Repr

/-- The Baroa bridge (R425, R426): up, or retraining since a time, or down. -/
structure Bridge where
  up : Bool := true
  retrain : Option Nat := none
  deriving DecidableEq, Repr

/-- Device control and the agents outside the cores. `bootStage` numbers the step of R461 that the boot ROM has come to, 0
before it starts; `fairLag` gives, for the tenants between which Summit shares its binds, the binds by which each is behind
its share, and for others those by which they are ahead of it (R388); `imageIn` says that the host has written a firmware image that
the boot ROM has not taken, `image` is that which it has verified, each byte with its poison (R461); `msix` lists the vectors raised and not yet issued, `msixPend` those masked,
whose pending bits are set (R455); `digest` is that of the firmware (R462); `hostReply` is the last answer to the host, and
whether it is poisoned. -/
structure Dev where
  trans : SMap Trans := []
  launch : SMap Launch := []
  control : SMap Control := []
  cparts : SMap Cpart := []
  ports : SMap EthPort := []
  bootStage : Nat := 0
  bootFail : Nat := 0
  imageIn : Bool := false
  image : List (Byte × Bool) := []
  tcfg : BitVec 64 := 0
  tadj : BitVec 64 := 0
  hoff : BitVec 64 := 0
  log : Log := {}
  therm : BitVec 64 := 0
  bridge : Bridge := {}
  tripped : Bool := false
  reports : List Report := []
  cards : List Card := []
  runs : List NodeRun := []
  steps : List TileStep := []
  lastBound : SMap Nat := []
  fairLag : List (Nat × Rat) := []
  parked : SMap Parked := []
  msix : List (Nat × Nat) := []
  msixPend : List (Nat × Nat) := []
  msixSent : List (Nat × Nat) := []
  digest : List Byte := []
  hostReply : List Byte := []
  hostBad : Bool := false
  deriving DecidableEq, Repr

/-! ## The schedule, the current word, the machine -/

/-- Where an uncorrectable error is found (R422): the 8-byte word of an address; of a core and context, an a, x, m, g or p register by
class and index, a chunk of a vector register by level and index, a chunk of the accumulators, an 8-byte word of a bank's K-row or
of its block scales, a chunk of an element of the query bank or the key buffer; a word of IMEM; a template; of a context held in
shadow storage, by tenant, rank and context: a chunk of a vector, a chunk of the accumulators, or a word of another section; a barrier;
an entry of the Almanac, by its command; the code table of a stream or of a command. -/
inductive ErrorSite where
  | memory (core ctx pa : Nat)
  | areg (core ctx idx : Nat)
  | xreg (core ctx idx : Nat)
  | mreg (core ctx idx : Nat)
  | greg (core ctx idx : Nat)
  | preg (core ctx idx : Nat)
  | vec (core ctx : Nat) (lvl : Level) (idx chunk : Nat)
  | acc (core ctx chunk : Nat)
  | weight (core ctx : Nat) (bankB : Bool) (krow word : Nat)
  | scale (core ctx : Nat) (bankB : Bool) (word : Nat)
  | query (core ctx elem chunk : Nat)
  | key (core ctx elem chunk : Nat)
  | imem (core word : Nat)
  | template (t : Tid) (idx : Nat)
  | shadow (ten rank ctx : Nat)
  | shadowVec (ten rank ctx : Nat) (lvl : Level) (idx chunk : Nat)
  | shadowAcc (ten rank ctx chunk : Nat)
  | barrier (core n : Nat)
  | almanac (core id : Nat)
  | table (u : CodecUser)
  deriving DecidableEq, Repr

/-- One turn of the schedule: a half issues its next word, an engine step or event of the table happens, an uncorrectable error is
found, an abandoned step leaves its context (log entries 1, 83, 84); or up to `n` accesses
are made of a copy command, which it starts, of a line that a source fills, of the line that a sink drains (R130, R354; log entries 45, 53, 54). -/
inductive Act where
  | issue (t : Tid)
  | event (i : Instr)
  | error (e : ErrorSite)
  | leave (core ctx : Nat)
  | beat (core id n : Nat)
  | fetch (core ctx port line n : Nat)
  | drain (core ctx port n : Nat)
  deriving DecidableEq, Repr

/-- A turn, with the GTC ticks and the core cycles that pass before it, and the contexts whose next words are not ready in that
cycle: for a wait, or for what the model does not hold, latencies, fetch and decode (R21, R187). -/
structure Turn where
  ticks : Nat := 0
  act : Act
  cycles : Nat := 0
  late : List Nat := []
  deriving DecidableEq, Repr

/-- The state of the H7. `agenda`, `cur`, `fresh` and `nextId` are the model's own (log entries 1 and 2); `cc` counts
core cycles. -/
structure State where
  agenda : List Turn := []
  cur : Cur := {}
  fresh : Nat := 0
  nextId : Nat := 0
  cc : Nat := 0
  gtc : Nat := 0
  mem : SMap Byte := []
  bad : SMap Bool := []
  reqs : List Req := []
  delivs : List (Nat × Deliv) := []
  toks : List Tok := []
  barMsgs : List BarMsg := []
  elems : List Elem := []
  tlb : List TlbEntry := []
  walk : List WalkEntry := []
  cores : SMap Core := []
  dev : Dev := {}
  deriving DecidableEq, Repr

/-- The machine right after reset (log entries 1 to 5). -/
def State.reset : State := {}

/-- Why a run of the model stops. No instruction or event of this model faults. -/
inductive Fault where
  /-- Raised by no instruction of this model; safe. -/
  | none
  deriving DecidableEq, Repr

/-- Why the model gives no next state. -/
inductive Refusal where
  /-- Raised by an arm of exec whose instruction has no meaning yet; safe. -/
  | notModelled (mnemonic : String)
  deriving DecidableEq, Repr

/-- The answer of a meaning. -/
abbrev Out := Host.Outcome State Fault Refusal

end Sys2Proof.Machine
end

