-- ==== Sys2Proof/Machine/Mem.lean ====
section
/-! DEFINITION. Reading and writing the parts of the state: cores, contexts, halves, bytes of memory with their poison, and
elided regions that an access conflicts with. -/

namespace Sys2Proof.Machine
open Sys2Proof

/-! ## Cores, contexts, halves -/

def State.core (s : State) (k : Nat) : Core := s.cores.get {} k
def State.setCore (s : State) (k : Nat) (c : Core) : State := { s with cores := s.cores.put k c }
def State.modCore (s : State) (k : Nat) (f : Core → Core) : State := s.setCore k (f (s.core k))

def Core.ctx (c : Core) (x : Nat) : Ctx := c.ctxs.get {} x
def State.ctx (s : State) (k x : Nat) : Ctx := (s.core k).ctx x
def State.setCtx (s : State) (k x : Nat) (c : Ctx) : State :=
  s.modCore k fun co => { co with ctxs := co.ctxs.put x c }
def State.modCtx (s : State) (k x : Nat) (f : Ctx → Ctx) : State := s.setCtx k x (f (s.ctx k x))

def Ctx.half (c : Ctx) : HalfId → Half
  | .ap => c.ap
  | .xp => c.xp
def Ctx.setHalf (c : Ctx) : HalfId → Half → Ctx
  | .ap, h => { c with ap := h }
  | .xp, h => { c with xp := h }
def State.half (s : State) (t : Tid) : Half := (s.ctx t.core t.ctx).half t.half
def State.modHalf (s : State) (t : Tid) (f : Half → Half) : State :=
  s.modCtx t.core t.ctx fun c => c.setHalf t.half (f (c.half t.half))

/-- The cycles in which a core has advanced: those of its freezes are none (R7). -/
def State.coreCc (s : State) (k : Nat) : Nat := (s.core k).frozenAt.getD s.cc - (s.core k).lost

/-- The context of the current word. -/
def State.me (s : State) : Ctx := s.ctx s.cur.tid.core s.cur.tid.ctx
def State.modMe (s : State) (f : Ctx → Ctx) : State := s.modCtx s.cur.tid.core s.cur.tid.ctx f

/-- The tenant that owns a core: TEN of a valid CPART of its cluster (R31, R449). -/
def State.coreTenant (s : State) (k : Nat) : Option Nat :=
  let p := s.dev.cparts.get {} (k / 8)
  if p.valid && !p.busy then some p.ten else none

/-- The tenant a context's accesses carry: of its bind, or 16, the translation block of the system (R62). -/
def State.ctxTenant (s : State) (k x : Nat) : Nat :=
  if x = 4 then 16 else
  match (s.ctx k x).bind with
  | some b => b.tenant
  | none => (s.coreTenant k).getD 0

/-! ## Places of the physical map (R59) -/

/-- Local offset `o` of core `k` as a physical address (R81). -/
def spad (k o : Nat) : Nat := 0x10000000000 + k * 0x200000 + o
def inDram (pa : Nat) : Bool := pa < 0x8000000000
def inSpad (pa : Nat) : Bool := 0x10000000000 ≤ pa && pa < 0x10020000000
def inSram (pa : Nat) : Bool := 0x10020000000 ≤ pa && pa < 0x10030000000
def inRegs (pa : Nat) : Bool := 0x10100000000 ≤ pa && pa < 0x10200000000
def inHost (pa : Nat) : Bool := 0x8000000000000 ≤ pa && pa < 0x9000000000000
def inPeer (pa : Nat) : Bool := 0xC000000000000 ≤ pa && pa < 0xD000000000000
def spadCore (pa : Nat) : Nat := (pa - 0x10000000000) / 0x200000
def sramCluster (pa : Nat) : Nat := (pa - 0x10020000000) / 0x800000
/-- Whether a peer window's offset can be reached (R60). -/
def peerReach (pa : Nat) : Bool :=
  let o := pa % 0x100000000000
  inDram o || inSpad o || inSram o

/-! ## Bytes -/

def State.byte (s : State) (pa : Nat) : Byte := s.mem.get 0 pa
def State.setByte (s : State) (pa : Nat) (b : Byte) : State := { s with mem := s.mem.set 0 pa b }

/-- The `n` bytes from `pa` up. -/
def State.bytes (s : State) (pa : Nat) : Nat → List Byte
  | 0 => []
  | n + 1 => s.byte pa :: s.bytes (pa + 1) n

def State.setBytes (s : State) (pa : Nat) : List Byte → State
  | [] => s
  | b :: bs => (s.setByte pa b).setBytes (pa + 1) bs

/-- Whether an aligned 8-byte word carries poison (R16, R86, R134). -/
def State.badWord (s : State) (w : Nat) : Bool := s.bad.get false w

/-- Whether any word that the `n` bytes from `pa` touch carries poison. -/
def State.badIn (s : State) (pa n : Nat) : Bool :=
  s.bad.any fun p => decide (pa / 8 ≤ p.1) && decide (p.1 * 8 < pa + n)

/-- Poison after a write of `n` bytes at `pa`, word by word: a word written in full takes the data's poison, a word written
in part keeps its own as well (R86, R134). -/
def State.markBad (s : State) (pa n : Nat) (b : Bool) : Nat → State
  | 0 => s
  | k + 1 =>
    let w := pa / 8 + k
    let full := decide (pa ≤ w * 8) && decide (w * 8 + 8 ≤ pa + n)
    let s := { s with bad := s.bad.set false w (b || (!full && s.badWord w)) }
    s.markBad pa n b k

/-- The 8-byte words that `n` bytes at `pa` touch. -/
def wordsOf (pa n : Nat) : Nat := if n = 0 then 0 else (pa + n - 1) / 8 - pa / 8 + 1

/-- Bytes placed in IMEM. -/
def placeBytes (m : SMap Byte) (o : Nat) : List Byte → SMap Byte
  | [] => m
  | b :: bs => placeBytes (m.set 0 o b) (o + 1) bs

/-! ## Elided regions (R224, R225) -/

/-- The abort word of Table 09-6. -/
def abortWord (e : Elide) (xcode cause : Nat) : BitVec 64 :=
  BitVec.ofNat 64 (e.lines.length * 2 ^ 16 + xcode * 2 ^ 8 + cause)

/-- A context whose elided region has aborted (R225): writes dropped, checkpoint restored, abort word written, fallback. Where the trap of
its XP has stopped it, its AP resumes at the fallback (log entry 122). -/
def Ctx.abort (c : Ctx) (e : Elide) (xcode cause : Nat) : Ctx :=
  { c with
    a := if e.rd = 0 then e.a else e.a.put e.rd.toNat { v := abortWord e xcode cause }
    p := e.p
    apLoops := e.loops
    elide := none
    redirect := if c.trapped then some e.fallback else c.redirect
    ap := { c.ap with pc := e.fallback, stall := none } }

/-- Whether an access of another thread conflicts with a region (R224). -/
def Elide.hit (e : Elide) (pa n : Nat) (wr : Bool) : Bool :=
  let inside := fun l => decide (0 < n) && decide (pa / 64 ≤ l) && decide (l * 64 < pa + n)
  if wr then e.lines.any inside else e.writes.any fun p => inside (p.1 / 64)

/-- Whether a context has a region that `who` conflicts with. -/
def Ctx.struck (c : Ctx) (core ctx : Nat) (who : Option Tid) (pa n : Nat) (wr : Bool) : Bool :=
  match c.elide with
  | some e => e.hit pa n wr && decide (who ≠ some ⟨core, ctx, .ap⟩)
  | none => false

/-- A conflict aborts the region of a context. Its fallback is taken as it stands: R225 names no loop-back (log entry 122). -/
def Ctx.strike (c : Ctx) : Ctx :=
  match c.elide with
  | some e => c.abort e 0 2
  | none => c

/-- An access aborts the regions of a core that it conflicts with. The core's state stands while it is frozen: it is told, and takes it when its
freeze ends (R420). -/
def Core.strike (c : Core) (k : Nat) (who : Option Tid) (pa n : Nat) (wr : Bool) : Core :=
  if c.freezes = 0 then
    { c with ctxs := c.ctxs.map fun x => (x.1, if x.2.struck k x.1 who pa n wr then x.2.strike else x.2) }
  else { c with held := c.held ++ (c.ctxs.filter fun x => x.2.struck k x.1 who pa n wr).map fun x => .ctl k (.strike x.1) }

/-- An access of `who` at `n` bytes from `pa` aborts every region of another thread that it conflicts with (R224). -/
def State.touch (s : State) (who : Option Tid) (pa n : Nat) (wr : Bool) : State :=
  if s.cores.any fun k => k.2.ctxs.any fun x => x.2.struck k.1 x.1 who pa n wr then
    { s with cores := s.cores.map fun k => (k.1, k.2.strike k.1 who pa n wr) }
  else s

/-! ## Accesses that have reached their home -/

/-- A write of bytes by `who`: bytes, poison, conflicts. -/
def State.store (s : State) (who : Option Tid) (pa : Nat) (bs : List Byte) (b : Bool) : State :=
  let s := s.touch who pa bs.length true
  (s.setBytes pa bs).markBad pa bs.length b (wordsOf pa bs.length)

/-- A read of bytes by `who` has no effect but its conflicts. -/
def State.look (s : State) (who : Option Tid) (pa n : Nat) : State := s.touch who pa n false

def State.nat (s : State) (pa n : Nat) : Nat := leNat (s.bytes pa n)

/-- A write of the `n` low bytes of a number. -/
def State.storeNat (s : State) (who : Option Tid) (pa n v : Nat) (b : Bool) : State :=
  s.store who pa (leBytes n v) b

/-- The canonical form of memory: addresses rise strictly, and none is listed that holds what an unlisted one reads as. -/
def Memory.wf (s : State) : Bool := SMap.wf 0 s.mem && SMap.wf false s.bad

/-- A fresh number for something in flight. -/
def State.newId (s : State) : Nat × State := (s.nextId, { s with nextId := s.nextId + 1 })

/-- A fresh argument for a free value (log entry 2). -/
def State.newFree (s : State) : Nat × State := (s.fresh, { s with fresh := s.fresh + 1 })

end Sys2Proof.Machine
end

