-- ==== Sys2Proof/Machine/Translate.lean ====
section
/-! DEFINITION. Windows, page tables, TLBs, fault descriptors and the error logs (03, R427). -/

namespace Sys2Proof.Machine
open Sys2Proof

/-- The code of an access kind (R69). -/
def accCode : AccessKind → Nat
  | .read => 0 | .write => 1 | .atomic => 2 | .execute => 3 | .source => 4 | .sink => 5

/-- Permission bits a leaf needs for an access kind (R69, Table 03-7). -/
def accBits : AccessKind → List Nat
  | .read => [2] | .source => [2] | .write => [3] | .sink => [3] | .atomic => [2, 3, 5] | .execute => [4]

/-- The requester of an access, as a fault descriptor names it (Table 03-12). `ten` is 16 for the system. -/
structure Rq where
  core : Nat
  ctx : Nat
  ten : Nat
  req : Nat
  unit : Nat := 0
  deriving DecidableEq, Repr

def Rq.sys (r : Rq) : Bool := r.ten == 16

/-- The requester of a context's accesses. -/
def State.rq (s : State) (core ctx req : Nat) (unit : Nat := 0) : Rq := ⟨core, ctx, s.ctxTenant core ctx, req, unit⟩

/-! ## Windows (R64, R65) -/

/-- Whether one enabled window of a translation block covers bytes `lo` to `hi` and grants every bit of `need` (Table 03-4). A page
that several windows cover only together is in none (log entry 90). -/
def regWindow (t : Trans) (lo hi : Nat) (need : List Nat) : Nat → Bool
  | 0 => false
  | n + 1 =>
    let b := (t.twbase.get 0 n).toNat
    let l := (t.twlimit.get 0 n).toNat
    (bit b 0 && need.all (bit b) && decide (bits b 51 13 ≤ lo / 8192) && decide (hi / 8192 ≤ bits l 51 13))
      || regWindow t lo hi need n

/-- Window bits an access kind needs (R69, Table 03-4). -/
def winBits : AccessKind → List Nat
  | .read => [1] | .source => [1] | .write => [2] | .sink => [2] | .atomic => [1, 2, 4] | .execute => [3]

/-- The range classes windows can match. -/
def inWindowed (pa : Nat) : Bool := inDram pa || inHost pa || inPeer pa

/-- The clusters of an aperture or cluster SRAM address. -/
def clusterOf (pa : Nat) : Nat := if inSpad pa then spadCore pa / 8 else sramCluster pa

/-- Whether a cluster belongs to a tenant's partition (R31, R449). -/
def State.owns (s : State) (ten c : Nat) : Bool :=
  let p := s.dev.cparts.get {} c
  p.valid && !p.busy && p.ten == ten

/-- Whether the windows of a tenant (16: the system) let bytes `lo` to `hi` through for an access kind (R64, R65). -/
def State.windowOk (s : State) (ten lo hi : Nat) (acc : AccessKind) : Bool :=
  let t := s.dev.trans.get {} ten
  if inWindowed lo then inWindowed hi && regWindow t lo hi (winBits acc) 16
  else if (inSpad lo && inSpad hi) || (inSram lo && inSram hi) then
    ten == 16 || (s.owns ten (clusterOf lo) && s.owns ten (clusterOf hi))
  else ten == 16 && inRegs lo && inRegs hi

/-- Whether the windows let the walker read a table word (R69, R72). -/
def State.walkOk (s : State) (ten ea : Nat) : Bool :=
  inWindowed ea && regWindow (s.dev.trans.get {} ten) ea (ea + 7) [5] 16

/-! ## Page-table entries (R67, R68) -/

def pteAddr (e : Nat) : Nat := bits e 51 13 * 8192
def pageSize (lvl : Nat) : Nat := 2 ^ (13 + 10 * lvl)
def vaIndex (va lvl : Nat) : Nat := va / 2 ^ (13 + 10 * lvl) % 1024

/-- Whether a valid entry is malformed for a reason other than its range (R68). -/
def pteMalformed (e lvl : Nat) : Bool :=
  let leaf := bit e 1
  bits e 59 52 != 0 || bits e 12 10 != 0 || (leaf && decide (3 ≤ lvl)) || (!leaf && lvl == 0)
    || (leaf && bits e 7 6 == 3) || (!leaf && bits e 9 2 != 0)
    || (leaf && pteAddr e % pageSize lvl != 0)

/-- Whether a leaf's page lies wholly inside the range its memory type requires (R68, R70, Table 03-8). -/
def pteInRange (e lvl ten : Nat) : Bool :=
  let lo := pteAddr e
  let hi := lo + pageSize lvl - 1
  match bits e 9 8 with
  | 0 => (inDram lo && inDram hi) || (inSram lo && inSram hi) || (ten == 16 && inRegs lo && inRegs hi)
  | 1 => inHost lo && inHost hi
  | 2 =>
    let o := lo % 0x100000000000
    let q := hi % 0x100000000000
    inPeer lo && inPeer hi &&
      ((inDram o && inDram q) || (inSpad o && inSpad q) || (inSram o && inSram q))
  | _ => inSpad lo && inSpad hi

/-! ## The walk (R72) -/

/-- Why a translation failed, in the terms of Table 03-12; `refused` where the windows refused a read of the walker (R66). -/
structure XFault where
  cls : Nat
  sub : Nat
  lvl : Nat
  psz : Nat := 3
  pte : Nat := 0
  fpa : Nat := 0
  refused : Bool := false
  deriving DecidableEq, Repr

/-- A leaf found by a walk: its level, the entry, and the non-leaf entries read on the way (level, tag, entry). -/
structure Leaf where
  lvl : Nat
  pte : Nat
  path : List (Nat × Nat × Nat) := []
  deriving DecidableEq, Repr

/-- The walk below a node at `a`, from level `lvl` down (R72). Fuel is the number of levels left. Of an entry that could not be read
a fault names the address and the kind of the access that missed (log entry 91); a leaf that is malformed and outside its type's range
is malformed (log entry 115). -/
def State.walkFrom (s : State) (ten va : Nat) (acc : AccessKind) (path : List (Nat × Nat × Nat)) :
    Nat → Nat → Except XFault Leaf
  | _, 0 => .error { cls := 1, sub := 1, lvl := 0 }
  | a, lvl + 1 =>
    let ea := a + 8 * vaIndex va lvl
    if !s.walkOk ten ea then .error { cls := 1, sub := 4, lvl := lvl, fpa := ea, refused := true }
    else if s.badIn ea 8 then .error { cls := 1, sub := 4, lvl := lvl, fpa := ea } else
    let e := s.nat ea 8
    if !bit e 0 then .error { cls := 1, sub := 1, lvl := lvl, pte := e, fpa := ea }
    else if pteMalformed e lvl then .error { cls := 1, sub := 2, lvl := lvl, pte := e, fpa := ea }
    else if bit e 1 then
      if !pteInRange e lvl ten then .error { cls := 1, sub := 3, lvl := lvl, psz := lvl, pte := e, fpa := ea }
      else if !s.windowOk ten (pteAddr e) (pteAddr e + pageSize lvl - 1) acc then
        .error { cls := 2, sub := 1, lvl := lvl, psz := lvl, pte := e, fpa := pteAddr e + va % pageSize lvl }
      else .ok ⟨lvl, e, path⟩
    else s.walkFrom ten va acc ((lvl, va / pageSize lvl, e) :: path) (pteAddr e) lvl

/-- The non-leaf entry at the lowest level that the stack group's walk cache holds for an address (R75). -/
def State.walkHit (s : State) (group ten va : Nat) : Option WalkEntry :=
  firstSome (fun lvl => s.walk.find? fun w =>
    w.group == group && w.ten == ten && w.lvl == lvl && w.tag == va / pageSize lvl) [1, 2, 3, 4]

/-- Walk (R72), from the deepest cached non-leaf entry (R75). -/
def State.walkVa (s : State) (core ten va : Nat) (acc : AccessKind) : Except XFault Leaf :=
  let r := (s.dev.trans.get {} ten).ptroot.toNat
  if !bit r 0 then .error { cls := 1, sub := 1, lvl := 4 } else
  match s.walkHit (core / 32) ten va with
  | some w => s.walkFrom ten va acc [] (pteAddr w.pte.toNat) w.lvl
  | none => s.walkFrom ten va acc [] (bits r 51 13 * 8192) 5

/-- The TLB entry that holds an address for a core: one that it or another core of its cluster filled (R72, R75). -/
def State.tlbHit (s : State) (core ten va : Nat) : Option TlbEntry :=
  s.tlb.find? fun e => e.core / 8 == core / 8 && e.ten == ten && e.page == va / pageSize e.lvl

/-- Fill the TLB and the walk cache with what a walk found (R72, R75). A walk that ends in a fault fills neither, which is the model's choice for
the walk cache (log entry 126). -/
def State.fill (s : State) (core ten va : Nat) (l : Leaf) : State :=
  let new := l.path.filter fun p =>
    !(s.walk.any fun w => w.group == core / 32 && w.ten == ten && w.lvl == p.1 && w.tag == p.2.1)
  { s with
    tlb := { core := core, ten := ten, lvl := l.lvl, page := va / pageSize l.lvl, pte := BitVec.ofNat 64 l.pte } :: s.tlb
    walk := (new.map fun p => { group := core / 32, ten := ten, lvl := p.1, tag := p.2.1, pte := BitVec.ofNat 64 p.2.2 })
      ++ s.walk }

/-! ## Error logs and events (R427, R455) -/

/-- An entry of an error log (Table 16-10). -/
structure Entry where
  cls : Nat
  sub : Nat := 0
  core : Nat := 0
  ctx : Nat := 0
  sys : Bool := false
  d0 : Nat := 0
  d1 : Nat := 0
  fault : BitVec 256 := 0

def Entry.value (e : Entry) (ten gtc : Nat) : Nat :=
  e.cls + e.sub % 256 * 2 ^ 8 + e.core % 256 * 2 ^ 16 + ten % 16 * 2 ^ 24 + e.ctx % 8 * 2 ^ 28
    + (if e.sys then 2 ^ 31 else 0) + gtc % 2 ^ 64 * 2 ^ 64 + e.d0 % 2 ^ 64 * 2 ^ 128 + e.d1 % 2 ^ 64 * 2 ^ 192
    + e.fault.toNat * 2 ^ 256

/-- The event of a log's vector: function `fn` (a tenant, or 16 for the physical function) and its MSI-X vector. -/
def State.raise (s : State) (fn vec : Nat) : State := { s with dev := { s.dev with msix := s.dev.msix ++ [(fn, vec)] } }

/-- Whether a log takes one more entry (R427, Table 16-9): EN set and HEAD − TAIL below 2^SIZE. -/
def Log.room (l : Log) : Bool :=
  bit l.cfg.toNat 7 && decide ((l.head - l.tail).toNat < 2 ^ bits l.cfg.toNat 11 8)

def Log.drop (l : Log) : Log := { l with lost := Nat.min 0xFFFF (l.lost + 1) }

/-- The address of the next entry of a log. -/
def Log.nextAt (l : Log) : Nat := bits l.base.toNat 51 6 * 64 + 64 * (l.head.toNat % 2 ^ bits l.cfg.toNat 11 8)

/-- Write one entry to a log, or count it as lost (R427). The machine's own writes pass no window (log entry 93). -/
def State.logTo (s : State) (l : Log) (ten fn : Nat) (e : Entry) : Log × State :=
  if l.room then
    let pa := l.nextAt
    let s := s.store none pa (leBytes 64 (e.value ten s.gtc)) false
    let s := if bit l.cfg.toNat 12 then s else s.raise fn (bits l.cfg.toNat 5 0)
    ({ l with head := l.head + 1 }, s)
  else (l.drop, s)

/-- An error-log entry of a tenant, or of the device when it belongs to no tenant (R427). -/
def State.logError (s : State) (ten : Option Nat) (e : Entry) : State :=
  match ten with
  | some t =>
    let (l, s) := s.logTo (s.dev.control.get {} t).log t t e
    let c := s.dev.control.get {} t
    { s with dev := { s.dev with control := s.dev.control.put t { c with log := l } } }
  | none =>
    let (l, s) := s.logTo s.dev.log 0 16 e
    { s with dev := { s.dev with log := l } }

/-! ## Translate (R72) -/

def ordOf : Nat → Ord
  | 0 => .so | 1 => .rc | _ => .un

/-- Permissions and type rules of a leaf for an access of `n` bytes at `pa` (R61, R69, R70); with `n` at 0 the size is the
engine's to check, chunk by chunk. -/
def leafCheck (e : Nat) (pa n : Nat) (acc : AccessKind) : Option Nat :=
  let mt := bits e 9 8
  if !(accBits acc).all (bit e) then some 0
  else if mt == 1 && acc == .atomic then some 2
  else if mt == 2 && acc == .execute then some 2
  else if inRegs pa && (acc == .atomic || acc == .execute || (n != 0 && !((n == 4 || n == 8) && pa % n == 0))) then some 2
  else none

/-- The fault descriptor of R80 (of the system: log entry 92), as a number of 256 bits; `n` counts the bytes of the access
from `va` on. Of a part of more than 65536 bytes LEN holds the low 16 bits of their count less 1, which is the model's choice (log entry 124). -/
def faultDesc (s : State) (r : Rq) (va n : Nat) (acc : AccessKind) (f : XFault) : BitVec 256 :=
  let page := if f.psz = 3 then 8192 else pageSize f.psz
  let len := Nat.min n (page - va % page)
  let ten := if r.sys then (s.coreTenant r.core).getD 0 else r.ten
  let w1 := f.cls + f.sub * 2 ^ 4 + f.psz * 2 ^ 8 + f.lvl * 2 ^ 10 + accCode acc * 2 ^ 13 + (len - 1) % 65536 * 2 ^ 16
    + r.unit * 2 ^ 40 + r.req * 2 ^ 44 + r.ctx * 2 ^ 48 + (if r.sys then 2 ^ 51 else 0) + ten * 2 ^ 52 + r.core * 2 ^ 56
  BitVec.ofNat 256 (va % 2 ^ 64 + w1 * 2 ^ 64 + f.pte * 2 ^ 128 + f.fpa * 2 ^ 192)

/-- The descriptor of a protection fault with subcode type, of `n` bytes at an address that has been translated. -/
def State.typeDesc (s : State) (r : Rq) (va n : Nat) (acc : AccessKind) (pa : Nat) : BitVec 256 :=
  match s.tlbHit r.core r.ten va with
  | some t => faultDesc s r va n acc { cls := 2, sub := 2, lvl := t.lvl, psz := t.lvl, pte := t.pte.toNat, fpa := pa }
  | none => faultDesc s r va n acc { cls := 2, sub := 2, lvl := 0, psz := 0, fpa := pa }

/-- A read of the walker that the windows refuse is logged as any refused request is (R66). -/
def State.refuseWalk (s : State) (r : Rq) (f : XFault) : State :=
  if f.refused then
    s.logError (if r.sys then s.coreTenant r.core else some r.ten) { cls := 3, core := r.core, ctx := r.ctx, sys := r.sys, d0 := f.fpa }
  else s

/-- The failure of the walk that an access would make now, if it misses and walks. -/
def State.walkFault (s : State) (r : Rq) (va : Nat) (acc : AccessKind) : Option XFault :=
  if 2 ^ 57 ≤ va || (s.tlbHit r.core r.ten va).isSome then none else
  match s.walkVa r.core r.ten va acc with
  | .error f => some f
  | .ok _ => none

/-- Translate one page part that begins at `va` (R72): `n` bytes are accessed, and `len` bytes of the access remain. -/
def State.xlat (s : State) (r : Rq) (va n len : Nat) (acc : AccessKind) : Except (BitVec 256) Part × State :=
  let bad := fun f => Except.error (faultDesc s r va len acc f)
  if 2 ^ 57 ≤ va then (bad { cls := 1, sub := 0, lvl := 7 }, s) else
  let use := fun (lvl e : Nat) (s' : State) =>
    let pa := pteAddr e + va % pageSize lvl
    match leafCheck e pa n acc with
    | some sub => (bad { cls := 2, sub := sub, lvl := lvl, psz := lvl, pte := e, fpa := pa }, s')
    | none =>
      let ord := if inRegs pa then Ord.so else ordOf (bits e 7 6)
      (Except.ok { pa := pa, ord := ord, mt := bits e 9 8 : Part }, s')
  match s.tlbHit r.core r.ten va with
  | some e => use e.lvl e.pte.toNat s
  | none =>
    match s.walkVa r.core r.ten va acc with
    | .error f => (bad f, s.refuseWalk r f)
    | .ok l => use l.lvl l.pte (s.fill r.core r.ten va l)

/-- The page parts of an access: address, bytes in the part, bytes left of the access. Split at 8 KiB (R72). -/
def partsOf (va n : Nat) : Nat → List (Nat × Nat × Nat)
  | 0 => []
  | k + 1 =>
    if n = 0 then [] else
    let len := Nat.min n (8192 - va % 8192)
    (va, len, n) :: partsOf (va + len) (n - len) k

/-- Translate every part of an access; the first fault ends it, and no part performs before all translate (R72). -/
def State.xlatAll (s : State) (r : Rq) (acc : AccessKind) :
    List (Nat × Nat × Nat) → List (Part × Nat) → Except (BitVec 256) (List (Part × Nat)) × State
  | [], done => (.ok done.reverse, s)
  | (va, len, left) :: ps, done =>
    match s.xlat r va len left acc with
    | (.error f, s) => (.error f, s)
    | (.ok p, s) => s.xlatAll r acc ps ((p, len) :: done)

def State.translate (s : State) (r : Rq) (va n : Nat) (acc : AccessKind) :
    Except (BitVec 256) (List (Part × Nat)) × State :=
  s.xlatAll r acc (partsOf va n (n / 8192 + 2)) []

/-! ## Requesters at a port -/

/-- Who makes a request that reaches a port: its tenant (16: the system flag), the tenant whose log takes its errors (none:
the device log), its core and context, and its thread where it is an AP or an XP. -/
structure Src where
  ten : Nat
  log : Option Nat
  core : Nat := 0
  ctx : Nat := 0
  who : Option Tid := none
  deriving DecidableEq, Repr

/-- The requester of an engine's accesses for a context (R353: an engine is a thread of its own). -/
def State.src (s : State) (k x : Nat) : Src :=
  let t := s.ctxTenant k x
  { ten := t, log := if x = 4 then s.coreTenant k else some t, core := k, ctx := x }

/-- The requester of a thread's accesses. -/
def State.srcOf (s : State) (t : Tid) : Src := { s.src t.core t.ctx with who := some t }

/-- A request refused at a port is logged as class 3 with its address, and the log's event is raised (R66). -/
def State.refuseAt (s : State) (r : Src) (pa : Nat) : State :=
  s.logError r.log { cls := 3, core := r.core, ctx := r.ctx, sys := r.ten == 16, d0 := pa }

/-- The data of a refused read: free values (log entry 2). -/
def State.openBytes (s : State) (n : Nat) : List Byte × State :=
  let (f, s) := s.newFree
  ((List.range n).map (Config.openByte f), s)

/-! ## Links (R426, R456) -/

/-- The die that holds the home of a physical address; the host port, the registers and the peer links are on die 0. -/
def dieOf (pa : Nat) : Nat :=
  if inDram pa then pa / 0x1000000000 / 4
  else if inSpad pa then spadCore pa / 128
  else if inSram pa then sramCluster pa / 16
  else 0

/-- Whether a core must cross the bridge, which is down, to reach an address (R426). -/
def State.bridgeCut (s : State) (core pa : Nat) : Bool := !s.dev.bridge.up && dieOf pa != core / 128

end Sys2Proof.Machine
end

