-- ==== Sys2Proof/Machine/Ops.lean ====
section
/-! DEFINITION. The operations every instruction is built from: links, tokens, taking a trap and returning
from one, issuing and completing a word. -/

namespace Sys2Proof.Machine
open Sys2Proof

/-! ## The function split (R429) -/

/-- A bit of a tenant's FSPLIT (R429): 1 is the host-assisted mode. -/
def State.hostMode (s : State) (ten fn : Nat) : Bool := (s.dev.control.get {} ten).fsplit.getLsbD fn

/-! ## Links (R426, R456) -/

def EthPort.mode (p : EthPort) : Nat := bits p.pcfg.toNat 1 0
def EthPort.peer (p : EthPort) : Nat := bits p.pcfg.toNat 27 24

/-- The port of a peer window (R456): the lowest-numbered port that is up, in Nymay mode and has the peer's number. -/
def State.peerPort (s : State) (peer : Nat) : Option Nat :=
  (List.range 8).find? fun n =>
    let p := s.dev.ports.get {} n
    p.up && p.mode == 1 && p.peer == peer

/-- The DETAIL of a link-down failure of an access from a core to an address (R426, R456), if it fails so. -/
def State.linkCut (s : State) (core pa : Nat) : Option Nat :=
  if s.bridgeCut core pa then some 0
  else if inPeer pa && (s.peerPort (pa / 0x100000000000 % 16)).isNone then some 1
  else none

/-! ## Ways a word stops -/

/-- What a trap records beside its cause (Tables 16-1, 16-2). `ofPort` marks a word that names a port it cannot use (R150): its tokens
come first (log entry 104). -/
structure TrapInfo where
  code : Nat
  detail : Nat := 0
  opnd : Nat := 15
  lane : Nat := 0
  chunk : Nat := 0
  port : Option (Nat × Pos) := none
  swcode : Nat := 0
  addr : Nat := 0
  mm : Option (Bool × Nat × Nat) := none
  fault : BitVec 256 := 0
  noOp : Bool := false
  ofPort : Bool := false
  deriving DecidableEq, Repr

/-- How a word stops short of completing: a precise trap; a trap that changes the state named; a hold before issue (R176,
R201, R240), or one that changes the state named; a wait after issue, which keeps the state given (R10, R176); an abort of the elided region, with XCODE and CAUSE
(R224); a software trap, which resumes at the next group (R345); a word that has itself set all it leaves (DONE, ERET). -/
inductive Stop where
  | trap (i : TrapInfo)
  | trapWith (f : State → State) (i : TrapInfo)
  | hold
  | holdWith (f : State → State)
  | wait (s : State)
  | abort (xcode cause : Nat)
  | soft (i : TrapInfo)
  | ended (s : State)

/-- A word's body: it works on the state and may stop. -/
abbrev Exec (α : Type) := StateT State (Except Stop) α

def stop {α : Type} (e : Stop) : Exec α := fun _ => .error e
def trap {α : Type} (i : TrapInfo) : Exec α := stop (.trap i)
/-- Trap as illegal operation, with a reason (Tables 06-4, 16-1). -/
def illegal {α : Type} (detail : Nat := 0) : Exec α := trap { code := 1, detail := detail }
/-- A misaligned branch target or register value. -/
def misaligned {α : Type} (addr : Nat) : Exec α := trap { code := 5, addr := addr }
/-- A misaligned memory operand (Table 16-2; log entry 74). -/
def badAddress {α : Type} (addr : Nat) (lane : Nat := 0) : Exec α := trap { code := 5, opnd := 4, lane := lane, addr := addr }
def poisonTrap {α : Type} (opnd : Nat) : Exec α := trap { code := 8, opnd := opnd }
def hold {α : Type} : Exec α := stop .hold
/-- Wait after issue, from the state reached (R10). -/
def waitHere {α : Type} : Exec α := fun s => .error (.wait s)
def require (b : Bool) (e : Stop) : Exec Unit := if b then pure () else stop e

/-- Where a body goes: the next group, or another offset. -/
abbrev Next := Option Nat

/-! ## Tokens (R29, R175, R176) -/

/-- The device column and the row of a core (R20). -/
def coreCol (k : Nat) : Nat := 8 * bits k 7 7 + 4 * bits k 5 5 + 2 * bits k 3 3 + bits k 0 0
def coreRow (k : Nat) : Nat := 8 * bits k 6 6 + 4 * bits k 4 4 + 2 * bits k 2 2 + bits k 1 1
/-- The core at a device column and row (R20). -/
def coreAt (col row : Nat) : Nat :=
  col / 8 * 128 + row / 8 * 64 + col / 4 % 2 * 32 + row / 4 % 2 * 16 + col / 2 % 2 * 8 + row % 4 * 2 + col % 2

/-- The neighbour of a core in the direction of a channel: 1 north, 2 east, 3 south, 4 west (R20, R29). -/
def neighbour (k c : Nat) : Option Nat :=
  let x := coreCol k
  let y := coreRow k
  match c with
  | 1 => if y = 0 then none else some (coreAt x (y - 1))
  | 2 => if x = 15 then none else some (coreAt (x + 1) y)
  | 3 => if y = 15 then none else some (coreAt x (y + 1))
  | 4 => if x = 0 then none else some (coreAt (x - 1) y)
  | _ => none

/-- The channel on which a push on channel `c` arrives (R175). -/
def opposite : Nat → Nat
  | 1 => 3 | 2 => 4 | 3 => 1 | 4 => 2 | c => c

/-- The context of a core that belongs to a gang. -/
def State.member (s : State) (core gang : Nat) : Option Nat :=
  (List.range 4).find? fun x =>
    match (s.ctx core x).bind with
    | some b => b.gang == gang && b.shape != 0
    | none => false

/-- Whether two cores lie in one gang of a shape (Tables 01-2 and 01-3): a gang of a shape covers every core whose number has the
same bits above the rank. A member that has ended its part is still a member (log entry 76). -/
def sameGang (shape k j : Nat) : Bool :=
  match shape with
  | 2 => k / 8 == j / 8 | 3 => k / 32 == j / 32 | 4 => k / 128 == j / 128 | 5 => true | _ => false

/-- The half that channel `c` of a half connects to (R29): none outside the gang, and none where that member has ended its
part. -/
def State.linked (s : State) (t : Tid) (c : Nat) : Option Tid :=
  if c = 0 then some { t with half := if t.half = .ap then .xp else .ap } else
  match (s.ctx t.core t.ctx).bind, neighbour t.core c with
  | some b, some k =>
    if b.shape = 0 then none else (s.member k b.gang).map fun x => ⟨k, x, t.half⟩
  | _, _ => none

def channels (m : BitVec 5) : List Nat := [0, 1, 2, 3, 4].filter fun c => m.getLsbD c

/-- The trap of a word that names channel `c` (R29, R426), if it has one. -/
def State.chanTrap (s : State) (t : Tid) (c : Nat) : Option TrapInfo :=
  if c = 0 then none else
  match (s.ctx t.core t.ctx).bind, neighbour t.core c with
  | some b, some k =>
    if !sameGang b.shape t.core k then some { code := 10, detail := c }
    else if !s.dev.bridge.up && k / 128 != t.core / 128 then some { code := 12, detail := 0 } else none
  | _, _ => some { code := 10, detail := c }

/-- Tokens of a FIFO: those it holds, and those on their way to it (R175, R176). -/
def State.tokens (s : State) (t : Tid) (c : Nat) : Nat := (s.half t).toks.get 0 c
def State.comingTo (s : State) (t : Tid) (c : Nat) : Nat :=
  (s.toks.filter fun k => k.dst = t ∧ k.chan = c).length

/-- Whether the FIFOs of the masks hold tokens and have room (R176). A push to a member that has ended its part does not wait,
and is dropped (log entry 76). -/
def State.canPop (s : State) (t : Tid) (m : BitVec 5) : Bool := (channels m).all fun c => 0 < s.tokens t c
def State.canPush (s : State) (t : Tid) (m : BitVec 5) : Bool :=
  (channels m).all fun c =>
    match s.linked t c with
    | some d => s.tokens d (opposite c) + s.comingTo d (opposite c) < 8
    | none => true

def State.addTokens (s : State) (t : Tid) (d : Nat → Nat) (cs : List Nat) : State :=
  cs.foldl (fun s c => s.modHalf t fun h => { h with toks := h.toks.set 0 c (d (h.toks.get 0 c)) }) s

/-- A half sees what the other has written to special registers: it has taken a token, met it, or passed a barrier (R347). -/
def State.seeSr (s : State) (t : Tid) : State := s.modHalf t fun h => { h with srSeen := [] }

/-- Take the tokens of the pop mask and reserve room for those of the push mask (R176). -/
def State.takeTokens (s : State) (t : Tid) (popm pushm : BitVec 5) : State :=
  let s := if popm = 0 then s else (s.addTokens t (· - 1) (channels popm)).seeSr t
  (channels pushm).foldl (fun s c =>
    match s.linked t c with
    | some d =>
      let (id, s) := s.newId
      { s with toks := s.toks ++ [{ id := id, src := t, dst := d, chan := opposite c, after := [], held := true }] }
    | none => s) s

/-- Give back what a word took that traps after it issued (R176). -/
def State.giveBack (s : State) (t : Tid) (popm : BitVec 5) : State :=
  let s := s.addTokens t (· + 1) (channels popm)
  { s with toks := s.toks.filter fun k => !(k.held && decide (k.src = t)) }

/-! ## Requests in flight (R201, R353 to R357) -/

/-- Whether a write's home is in its core, so that it must still perform at CORE scope (R355). -/
def Req.isLocal (q : Req) : Bool := inSpad q.pa && spadCore q.pa == q.tid.core

/-- Whether two requests touch a common byte. -/
def Req.overlaps (q r : Req) : Bool := decide (q.pa < r.pa + r.n) && decide (r.pa < q.pa + q.n)

/-- Whether a request must perform before a later one of its thread (Table 14-2): same location, SO after SO, a tainted address
after LDC, anything after an acquire; the last two reach no UN access (R215, R365). -/
def Req.orders (r q : Req) : Bool :=
  decide (r.id < q.id) && !r.done && decide (r.tid = q.tid) &&
    (r.overlaps q || (r.ord == .so && q.ord == .so)
      || (((r.ldc && q.tainted) || r.acq) && r.ord != .un && q.ord != .un))

/-- Whether a write is in the outbound path of its core, on its way to a home outside it (R355). -/
def Req.inPath (q : Req) : Bool := !q.done && q.op == .write && !q.isLocal && q.sent.isSome

/-- Whether a request has yet to perform at a scope (R355): a write in its core's outbound path has performed at CORE. -/
def Req.lacks (q : Req) (sc : Scope) : Bool :=
  !q.done && (decide (q.op ≠ .write) || q.isLocal || q.sent.isNone || decide (1 < sc.code))

/-- Whether an access of a core, at `n` bytes from `pa`, waits behind a write in the core's outbound path (R355). -/
def State.pathHolds (s : State) (k pa n : Nat) : Bool :=
  s.reqs.any fun q => q.inPath && q.tid.core == k && decide (q.pa < pa + n) && decide (pa < q.pa + q.n)

/-- Whether an RC access of a thread that performs at once must wait: for the thread's own accesses to its bytes, for its acquires,
and behind writes in its core's outbound path (R353, R355, R365, Table 14-2; log entries 65 and 89). -/
def State.mustWait (s : State) (t : Tid) (pa n : Nat) : Bool :=
  (s.reqs.any fun q => decide (q.tid = t) && !q.done
      && ((decide (q.pa < pa + n) && decide (pa < q.pa + q.n)) || (q.acq && q.ord != .un)))
    || s.pathHolds t.core pa n

/-- Put an access in flight; nothing may hold it yet. -/
def State.putReq (s : State) (q : Req) : State :=
  let q := { q with id := s.nextId }
  { s with
    nextId := s.nextId + 1
    reqs := s.reqs ++ [{ q with sent := if s.reqs.any (·.orders q) then none else some q.id }] }

/-- Note which accesses of a thread nothing holds any longer. -/
def State.letGo (s : State) (t : Tid) : State :=
  let free := fun (q : Req) => decide (q.tid = t) && q.sent.isNone && !s.reqs.any (·.orders q)
  if s.reqs.any free then
    let (n, s') := s.newId
    { s' with reqs := s.reqs.map fun q => if free q then { q with sent := some n } else q }
  else s

/-- The requests that a release edge at a scope waits for (R222, R362, R365): the thread's own SO and RC accesses, and past
CORE the writes of the other threads of its core that have left it (log entry 12). `all` takes in UN accesses. -/
def State.before (s : State) (t : Tid) (sc : Scope) (all : Bool) : List Req :=
  s.reqs.filter fun q => q.lacks sc &&
    ((decide (q.tid = t) && (all || decide (q.ord ≠ .un)))
      || (decide (q.tid ≠ t) && q.tid.core == t.core && q.op == .write && decide (1 < sc.code) && !q.isLocal))

/-- The requests a word's push waits for (R176, R222). `first` is the number of its own first request. -/
def State.pushAfter (s : State) (t : Tid) (first : Nat) : List Nat :=
  (s.reqs.filter fun q => decide (q.tid = t) && q.lacks .core &&
    (if first ≤ q.id then decide (q.op ≠ .read) else decide (q.ord ≠ .un))).map (·.id)

/-! ## Loops (R210, R268) -/

/-- The loop-back rule of the AP (R210). -/
def apLoopBack : List ApLoop → Nat → Nat × List ApLoop
  | [], n => (n, [])
  | l :: ls, n =>
    if n = l.fin then
      if 1 < l.remaining then (l.start, { l with remaining := l.remaining - 1 } :: ls) else apLoopBack ls n
    else (n, l :: ls)

/-- The loop-back rule of the XP (R268), which also counts the iteration. -/
def xpLoopBack : List XpLoop → Nat → Nat × List XpLoop
  | [], n => (n, [])
  | l :: ls, n =>
    if n = l.fin then
      if 1 < l.remaining then (l.start, { l with remaining := l.remaining - 1, iter := l.iter + 1 } :: ls)
      else xpLoopBack ls n
    else (n, l :: ls)

/-- Set the next group of the current half, after the loop-back rule. -/
def State.advance (s : State) (n : Nat) : State :=
  match s.cur.tid.half with
  | .ap => s.modMe fun c =>
      let (n, l) := apLoopBack c.apLoops n
      { c with apLoops := l, ap := { c.ap with pc := n, stall := none } }
  | .xp => s.modMe fun c =>
      let (n, l) := xpLoopBack c.xpLoops n
      { c with xpLoops := l, xp := { c.xp with pc := n, stall := none } }

/-- The store of a literal into its template (R185). -/
def State.storeTemplate (s : State) : State :=
  match s.cur.store with
  | some n => s.modHalf s.cur.tid fun h =>
      { h with tmpl := h.tmpl.set 0 n.toNat s.cur.op, tmplBad := h.tmplBad.set false n.toNat false }
  | none => s

/-- Let the current word's pushes go: they arrive once what they wait for has performed (R176). -/
def State.letPushes (s : State) (first : Nat) : State :=
  let after := s.pushAfter s.cur.tid first
  { s with toks := s.toks.map fun k =>
      if k.held && decide (k.src = s.cur.tid) then { k with held := false, after := after } else k }

/-- Complete the current word: template store, pushes, next group. -/
def State.retire (s : State) (first : Nat) (next : Next) : State :=
  ((s.storeTemplate).letPushes first).advance (next.getD s.cur.pcn)

/-! ## Waiting -/

/-- The count of a wait, to now. -/
def Stall.count (w : Stall) (gtc : Nat) : Stall := { w with acc := w.acc + (gtc - w.since), since := gtc }

/-- Stop the count of a half's waiting (R406). -/
def Half.pause (h : Half) (gtc : Nat) : Half :=
  { h with stall := h.stall.map (·.count gtc) }
/-- Let the count go on from now; a WAIT reads its block again, and so does a copy form that waits (R10, R315, R325). -/
def Half.unpause (h : Half) (gtc : Nat) : Half :=
  { h with stall := h.stall.map fun w => { w with since := gtc, conds := none, latched := none, blk := none } }

/-- Note that the current half waits, before or after its word has issued; a word that has issued is kept as fetched (R188). -/
def State.noteStall (s : State) (issued : Bool) : State :=
  s.modHalf s.cur.tid fun h => { h with stall := some (match h.stall with
    | some w => { w with issued := w.issued || issued, word := if issued then some s.cur else w.word }
    | none => { issued := issued, since := s.gtc, acc := 0, deadline := none, word := if issued then some s.cur else none }) }

/-! ## Taking a trap (R397 to R404) -/

/-- The trap area of a context (Table 16-3): its reset value is local offset 0. -/
def Ctx.trapBase (c : Ctx) : Nat := bits c.trapArea.toNat 20 8 * 256

/-- SR_TRAPCAUSE (Table 16-3). -/
def causeWord (c : Ctx) (t : Tid) (i : TrapInfo) : Nat :=
  i.code + (if t.half = .xp then 2 ^ 8 else 0) + t.ctx * 2 ^ 9 + i.detail % 65536 * 2 ^ 16
    + bits c.trapArea.toNat 20 8 * 2 ^ 32

def Half.inWord (h : Half) : Bool := match h.stall with
  | some w => w.issued
  | none => false

/-- The trap record (Table 16-2). `rpc` is the resume offset of the trapping half. -/
def trapRecord (c : Ctx) (t : Tid) (rpc : Nat) (op : BitVec 128) (gtc : Nat) (i : TrapInfo) : Nat :=
  let rapc := if t.half = .ap then rpc else c.ap.pc
  let rxpc := if t.half = .xp then rpc else if c.xp.active then c.xp.pc else 0xFFFFFFFF
  let pos : Pos := (i.port.map (·.2)).getD {}
  causeWord c t i + rapc % 2 ^ 32 * 2 ^ 64 + rxpc % 2 ^ 32 * 2 ^ 96 + gtc % 2 ^ 64 * 2 ^ 128
    + (if i.noOp then 0 else op.toNat) * 2 ^ 192
    + (i.opnd + i.lane % 64 * 2 ^ 4 + i.chunk % 32 * 2 ^ 10
        + (match i.port with | some (p, _) => p % 16 * 2 ^ 16 + 2 ^ 20 | none => 0)
        + i.swcode % 65536 * 2 ^ 32) * 2 ^ 320
    + (pos.i1 % 65536 + pos.i2 % 65536 * 2 ^ 16 + pos.i3 % 65536 * 2 ^ 32 + pos.i4 % 65536 * 2 ^ 48) * 2 ^ 384
    + pos.i5 % 65536 * 2 ^ 448 + i.addr % 2 ^ 64 * 2 ^ 512
    + ((match i.mm with
        | some (b, k, col) => 1 + (if b then 2 else 0) + k % 64 * 2 ^ 8 + col % 256 * 2 ^ 16
        | none => 0)
        + (if c.ap.inWord then 4 else 0) + (if c.xp.inWord then 8 else 0)) * 2 ^ 576
    + i.fault.toNat * 2 ^ 768

/-- Whether a cause is served by the host for a tenant (R401, R429). -/
def State.hostServes (s : State) (ten code : Nat) : Bool :=
  s.hostMode ten (if code = 6 ∨ code = 7 then 2 else 5)

/-- Take a trap on half `t` whose group starts at the offset that its operation word came from (R397 to R401, R404). The
record is written, SR_TRAPCAUSE is set, both halves stop (where the record's own bytes conflict with the context's elided region, its AP
resumes at the fallback: log entry 122); then the pending bit is set, or the host is told. A trap of the
system context is a double trap. -/
def State.takeTrap (s : State) (t : Tid) (rpc : Nat) (op : BitVec 128) (i : TrapInfo) : State :=
  let c0 := s.ctx t.core t.ctx
  let rec0 := trapRecord c0 t rpc op s.gtc i
  let s := s.store none (spad t.core c0.trapBase) (leBytes 256 rec0) false
  let s := s.modCtx t.core t.ctx fun c =>
    let c := c.setHalf t.half { c.half t.half with pc := rpc }
    { c with
      trapCause := BitVec.ofNat 64 (causeWord c t i)
      trapped := true
      redirect := match c0.elide, c.elide with
        | some e, none => some e.fallback
        | _, _ => c.redirect
      resumed := none
      ap := c.ap.pause s.gtc
      xp := c.xp.pause s.gtc }
  let e : Entry := { cls := 12, sub := i.code, core := t.core, ctx := t.ctx, d0 := i.addr, fault := i.fault }
  if t.ctx = 4 then
    let s := s.modCore t.core fun k => { k with doubleTrap := true }
    s.logError (s.coreTenant t.core) { e with cls := 13, sys := true }
  else
    let ten := s.ctxTenant t.core t.ctx
    if s.hostServes ten i.code then s.logError (some ten) e
    else s.modCtx t.core t.ctx fun c => { c with pend := true }

/-! ## Returning from a trap (R346, R402, R448) -/

/-- A half that resumes at an offset; `tk` says that its word repeats without its token masks acting again (R176). A half that goes
on with the wait it was in keeps its count (R406); its group is decoded again (R185). -/
def Half.resume (h : Half) (pc : Nat) (act tk : Bool) (gtc : Nat) : Half :=
  let same := decide (h.pc = pc) && act
  let acc := if same then (h.stall.map (·.acc)).getD 0 else 0
  { h with
    pc := pc
    active := act
    rdv := if same then h.rdv else .none
    stall :=
      if tk && act then
        some { issued := true, since := gtc, acc := acc, deadline := h.stall.bind (·.deadline), mark := h.stall.bind (·.mark) }
      else if same && h.stall.isSome then some { issued := false, since := gtc, acc := acc, deadline := none }
      else none }

/-- Where the AP resumes for an RAPC: at the fallback of a region that has aborted meanwhile, but where the step is abandoned (R225, R402). -/
def Ctx.rapcOf (c : Ctx) (rapc : Nat) : Nat := if rapc = 0xFFFFFFFF then rapc else c.redirect.getD rapc

/-- The return from a trap of user context `x` of core `k`: `none` when a resume offset is not 4-aligned, and the context
stays stopped. `abandon` ends the step when RAPC says so, given the cause code. -/
def State.returnFromTrap (s : State) (k x : Nat) (abandon : State → Nat → State) : Option State :=
  let c := s.ctx k x
  let base := spad k (bits c.trapCause.toNat 44 32 * 256)
  let rapc := c.rapcOf (s.nat (base + 8) 4)
  let rxpc := s.nat (base + 12) 4
  let flags := s.nat (base + 72) 1
  if rapc = 0xFFFFFFFF then some (abandon s (bits c.trapCause.toNat 7 0))
  else if rapc % 4 ≠ 0 ∨ (rxpc ≠ 0xFFFFFFFF ∧ rxpc % 4 ≠ 0) then none
  else
    let ta : Tid := ⟨k, x, .ap⟩
    let tx : Tid := ⟨k, x, .xp⟩
    let tka := bit flags 2 && c.redirect.isNone
    let tkx := bit flags 3
    let s := { s with toks := s.toks.filter fun q =>
      !(q.held && ((decide (q.src = ta) && !tka) || (decide (q.src = tx) && !(tkx && rxpc != 0xFFFFFFFF)))) }
    some (s.modCtx k x fun c => { c with
      trapped := false
      pend := false
      redirect := none
      ap := c.ap.resume rapc true tka s.gtc
      xp := c.xp.resume (if rxpc = 0xFFFFFFFF then c.xp.pc else rxpc) (decide (rxpc ≠ 0xFFFFFFFF)) tkx s.gtc })

/-! ## Running a word -/

/-- Abort the elided region of the current context by its own word (R225): the loop-back rule applies to the fallback (R210; log entry 122). -/
def State.abortMine (s : State) (xcode cause : Nat) : State :=
  s.modMe fun c => match c.elide with
    | some e =>
      let c := c.abort e xcode cause
      let (n, l) := apLoopBack c.apLoops c.ap.pc
      { c with apLoops := l, ap := { c.ap with pc := n } }
    | none => c

/-- What becomes of the state when the current word traps (R224, R397): an AP word inside an elided region aborts it
instead. -/
def State.trapWord (s : State) (popm : BitVec 5) (rpc : Nat) (i : TrapInfo) : State :=
  if s.cur.tid.half = .ap ∧ s.me.elide.isSome then s.abortMine 0 4
  else
    let s := if (s.half s.cur.tid).inWord then
        (s.giveBack s.cur.tid popm).modHalf s.cur.tid fun h => { h with stall := none }
      else s
    s.takeTrap s.cur.tid rpc s.cur.op i

/-- The end of a word's body: it completes, or stops in one of the ways of `Stop`. -/
def State.finish (s0 : State) (popm : BitVec 5) (first : Nat) : Except Stop (Next × State) → State
  | .ok (n, s) => s.retire first n
  | .error (.trap i) => s0.trapWord popm s0.cur.pc i
  | .error (.trapWith f i) => (f s0).trapWord popm s0.cur.pc i
  | .error .hold => s0.noteStall false
  | .error (.holdWith f) => (f s0).noteStall false
  | .error (.wait s) => s.noteStall true
  | .error (.abort x c) => s0.abortMine x c
  | .error (.soft i) =>
    let s := s0.advance s0.cur.pcn
    s.takeTrap s.cur.tid (s.half s.cur.tid).pc s.cur.op i
  | .error (.ended s) => s

/-- A word: its channels are checked, its tokens are taken once, its body runs (R29, R176). Of several channels that fail, the trap names
the lowest-numbered (log entry 114). Where tokens are missing, a body
that stops in a way that comes `before` its issue stops so; another waits. -/
def runWordWith (before : Except Stop (Next × State) → Bool) (popm pushm : BitVec 5) (body : Exec Next) (s : State) : State :=
  if (s.half s.cur.tid).inWord then s.finish popm s.nextId (body s) else
  match firstSome (s.chanTrap s.cur.tid) (channels (popm ||| pushm)) with
  | some i => s.trapWord popm s.cur.pc i
  | none =>
    let s1 := s.takeTokens s.cur.tid popm pushm
    let r := body s1
    if (s.canPop s.cur.tid popm && s.canPush s.cur.tid pushm) || before r then s.finish popm s1.nextId r
    else s.noteStall false

def runWord : BitVec 5 → BitVec 5 → Exec Next → State → State := runWordWith fun _ => false

/-- The stops of an XP word that come in steps 1 to 3 of R240, before its tokens: illegal operation, EmptySource, EndOfStream,
register range; and a poisoned word of its group, at decode (R424). -/
def stopsEarly : Except Stop (Next × State) → Bool
  | .error (.trap i) | .error (.trapWith _ i) => (i.code == 1 && !i.ofPort) || i.code == 3 || i.code == 4 || i.code == 9 || (i.code == 8 && i.noOp)
  | _ => false

/-! ## Registers of the AP (R165, R201 to R203) -/

def Ctx.areg (c : Ctx) (r : BitVec 5) : AReg := if r = 0 then {} else c.a.get {} r.toNat
def Ctx.setA (c : Ctx) (r : BitVec 5) (v : AReg) : Ctx := if r = 0 then c else { c with a := c.a.put r.toNat v }
def Ctx.pred (c : Ctx) (p : BitVec 3) : PReg := if p = 0 then { v := true } else c.p.get {} p.toNat
def Ctx.setP (c : Ctx) (p : BitVec 3) (v : PReg) : Ctx := if p = 0 then c else { c with p := c.p.put p.toNat v }

/-- Whether a read in flight will write an AP register or predicate of a context (R201). -/
def Req.targetsA (q : Req) (t : Tid) (r : BitVec 5) : Bool :=
  decide (q.tid = t) && match q.dst with
    | .areg rd _ _ _ => rd == r && rd != 0
    | _ => false
def Req.targetsP (q : Req) (t : Tid) (p : BitVec 3) : Bool :=
  decide (q.tid = t) && match q.dst with
    | .areg _ _ _ pd => pd == p && pd != 0
    | _ => false
def State.busyA (s : State) (r : BitVec 5) : Bool := s.reqs.any fun q => q.targetsA s.cur.tid r
def State.busyP (s : State) (p : BitVec 3) : Bool := s.reqs.any fun q => q.targetsP s.cur.tid p

/-- An AP word (R198): its guard, then its body where the guard holds. `forbid` marks the forms that abort an elided
region (R224). -/
def apWord (h : ApHdr) (forbid : Bool) (body : Exec Next) (s : State) : Out :=
  let p := s.me.pred h.pred
  .next <|
    if s.busyP h.pred then s.noteStall false
    else if p.bad then s.trapWord h.popm s.cur.pc { code := 8 }
    else if s.me.elide.isSome && h.popm ||| h.pushm != 0 then s.abortMine 0 5
    else if p.v = h.psense then runWord h.popm h.pushm (pure none) s
    else if s.me.elide.isSome && forbid then s.abortMine 0 5
    else runWord h.popm h.pushm body s

/-- Take a pending Poison trap of a multiplication at the boundary where the XP stands (R300). -/
def State.takeMmTrap (s : State) (k x : Nat) (m : MmTrap) : State :=
  let c := s.ctx k x
  let s := s.modCtx k x fun c => { c with mx := { c.mx with pend := none } }
  s.takeTrap ⟨k, x, .xp⟩ (if c.xp.active then c.xp.pc else 0xFFFFFFFF) m.op
    { code := 8, addr := m.pc, mm := some (m.other, m.krow, m.col) }

/-- An XP word (R240). -/
def xpWord (h : XpHdr) (body : Exec Next) (s : State) : Out := .next (runWordWith stopsEarly h.popm h.pushm body s)

/-- An XP word that reads memory before it can tell whether it traps: nothing of it comes before its tokens. -/
def xpWordLate (h : XpHdr) (body : Exec Next) (s : State) : Out := .next (runWord h.popm h.pushm body s)

/-- Read an AP register, waiting for a load in flight to it (R201). -/
def readA (r : BitVec 5) : Exec AReg := do
  let s ← get
  if s.busyA r then hold else pure (s.me.areg r)

/-- Read an AP register to compute on it: poison traps (R202). -/
def needA (r : BitVec 5) (opnd : Nat) : Exec AReg := do
  let v ← readA r
  if v.bad then poisonTrap opnd else pure v

/-- Write an AP register once no load in flight will (R201). -/
def writeA (r : BitVec 5) (v : AReg) : Exec Unit := do
  let s ← get
  if s.busyA r then hold else set (s.modMe (·.setA r v))

def readP (p : BitVec 3) : Exec PReg := do
  let s ← get
  if s.busyP p then hold else pure (s.me.pred p)
def needP (p : BitVec 3) (opnd : Nat) : Exec Bool := do
  let v ← readP p
  if v.bad then poisonTrap opnd else pure v.v
def writeP (p : BitVec 3) (v : PReg) : Exec Unit := do
  let s ← get
  if s.busyP p then hold else set (s.modMe (·.setP p v))

/-- Wait at issue until `n` bytes at `pa` can be accessed at once (R353, R355). -/
def awaitOwn (pa n : Nat) : Exec Unit := do
  let s ← get
  if s.mustWait s.cur.tid pa n then hold else pure ()

/-- The second operand of an AP form (R199), as a register value: an immediate has no poison and no taint. -/
def needOp2 (o : Op2) : Exec AReg :=
  match o with
  | .reg rb => needA rb 2
  | .imm v => pure { v := v.signExtend 64 }
def readOp2 (o : Op2) : Exec AReg :=
  match o with
  | .reg rb => readA rb
  | .imm v => pure { v := v.signExtend 64 }

end Sys2Proof.Machine
end

