-- ==== Sys2Proof/Machine/Flags.lean ====
section
/-! DEFINITION. Conditions and integer results: what the compare forms test, saturation, division (R14, R36, R204, R208). The
H7 has no status flags: a comparison writes a predicate or a lane mask. -/

namespace Sys2Proof.Machine
open Sys2Proof

/-- A condition of Tables 09-1 and 10-2 on two values. -/
def condHolds (c : Cond) (a b : Int) : Bool :=
  match c with
  | .eq => a == b
  | .ne => a != b
  | .lt => decide (a < b)
  | .le => decide (a ≤ b)
  | .gt => decide (b < a)
  | .ge => decide (b ≤ a)

/-- Sat to a signed format of `w` bits (R14). -/
def satS (w : Nat) (x : Int) : Int :=
  if x < -(2 ^ (w - 1) : Nat) then -(2 ^ (w - 1) : Nat) else if (2 ^ (w - 1) : Nat) ≤ x then (2 ^ (w - 1) : Nat) - 1 else x

/-- Sat to a natural format of `w` bits (R14). -/
def satN (w : Nat) (x : Int) : Int := if x < 0 then 0 else if (2 ^ w : Nat) ≤ x then (2 ^ w : Nat) - 1 else x

/-- The number of leading zero bits of a `w`-bit value. -/
def clzNat : Nat → Nat → Nat
  | 0, _ => 0
  | w + 1, v => if v / 2 ^ w % 2 = 1 then 0 else 1 + clzNat w v

/-- The number of trailing zero bits of a `w`-bit value. -/
def ctzNat : Nat → Nat → Nat
  | 0, _ => 0
  | w + 1, v => if v % 2 = 1 then 0 else 1 + ctzNat w (v / 2)

/-- The number of one bits among the low `w`. -/
def popcNat : Nat → Nat → Nat
  | 0, _ => 0
  | w + 1, v => v % 2 + popcNat w (v / 2)

end Sys2Proof.Machine
end

