-- ==== Sys2Proof/Machine/Num.lean ====
section
/-! DEFINITION. Number formats: exact values, rounding, the codes of each format, block scales (02). -/

namespace Sys2Proof.Machine
open Sys2Proof

/-- An extended real: NaN, an infinity, or the exact value m × 2^e with a sign that a zero keeps too (R9, R13). -/
inductive Num where
  | nan
  | inf (neg : Bool)
  | fin (neg : Bool) (m : Nat) (e : Int)
  deriving DecidableEq, Repr

/-- The roundings of R13 and R50. -/
inductive Rnd where | ne | tz | dn | up
  deriving DecidableEq, Repr

/-- A binary float format: exponent and fraction bits, bias, largest finite code, whether it has infinities (R37, R42). -/
structure FloatFmt where
  ebits : Nat
  mbits : Nat
  bias : Nat
  maxCode : Nat
  ieee : Bool

def f32F : FloatFmt := ⟨8, 23, 127, 0x7F7FFFFF, true⟩
def f16F : FloatFmt := ⟨5, 10, 15, 0x7BFF, true⟩
def bf16F : FloatFmt := ⟨8, 7, 127, 0x7F7F, true⟩
def e4m3F : FloatFmt := ⟨4, 3, 7, 0x7F, false⟩
def e5m2F : FloatFmt := ⟨5, 2, 15, 0x7F, false⟩
def f4F : FloatFmt := ⟨2, 1, 1, 7, false⟩
/-- UE5M7 (R44), of which the sign is no part. -/
def scaleF : FloatFmt := ⟨5, 7, 15, 0xFFE, false⟩

def floatFmt : Fmt → Option FloatFmt
  | .f32 => some f32F | .f16 => some f16F | .bf16 => some bf16F
  | .e4m3 => some e4m3F | .e5m2 => some e5m2F | .f4 => some f4F
  | _ => none

/-- Whether a format is signed, for the integer formats. -/
def intSigned : Fmt → Bool
  | .i8 | .i4 | .i16 | .i32 => true
  | _ => false

/-! ## Rounding (R13, R50) -/

/-- 2^k as a ratio of naturals. -/
def powRatio (k : Int) : Nat × Nat := if 0 ≤ k then (2 ^ k.toNat, 1) else (1, 2 ^ (-k).toNat)

/-- The exponent of the leading bit of num / den, both positive. -/
def floorLog (num den : Nat) : Int :=
  let l : Int := (Nat.log2 num : Int) - Nat.log2 den
  let (a, b) := powRatio l
  if den * a ≤ num * b then l else l - 1

/-- Round the non-negative ratio num / den to a whole number. -/
def roundNat (r : Rnd) (neg : Bool) (num den : Nat) : Nat :=
  let q := num / den
  let t := num % den
  let up := match r with
    | .ne => decide (den < 2 * t) || (decide (2 * t = den) && q % 2 == 1)
    | .tz => false
    | .dn => neg && decide (t ≠ 0)
    | .up => !neg && decide (t ≠ 0)
  if up then q + 1 else q

/-- The magnitude code of num / den in a format, before the overflow rule: subnormals are exact (R13). -/
def magCode (f : FloatFmt) (r : Rnd) (neg : Bool) (num den : Nat) : Nat :=
  if num = 0 then 0 else
  let e := max (floorLog num den) (1 - (f.bias : Int))
  let (a, b) := powRatio ((f.mbits : Int) - e)
  (e + f.bias - 1).toNat * 2 ^ f.mbits + roundNat r neg (num * a) (den * b)

/-- The code of infinity, one above the largest finite code in the formats that have it. -/
def FloatFmt.infCode (f : FloatFmt) : Nat := f.maxCode + 1
def FloatFmt.signBit (f : FloatFmt) (neg : Bool) : Nat := if neg then 2 ^ (f.ebits + f.mbits) else 0

/-- The code of a ratio with a sign: overflow goes to infinity or to the largest finite value (R13, R50). -/
def ratCode (f : FloatFmt) (r : Rnd) (neg : Bool) (num den : Nat) : Nat :=
  let c := magCode f r neg num den
  let c :=
    if c ≤ f.maxCode then c
    else if !f.ieee then f.maxCode
    else match r with
      | .ne => f.infCode
      | .tz => f.maxCode
      | .dn => if neg then f.infCode else f.maxCode
      | .up => if neg then f.maxCode else f.infCode
  f.signBit neg + c

/-- The canonical NaN, or what a format without NaN gives (R13, R39). -/
def FloatFmt.nanCode (f : FloatFmt) : Nat := if f.ieee then f.infCode + 2 ^ (f.mbits - 1) else 0

/-- The code of an exact value in a float format (Table 00-4). -/
def floatCode (f : FloatFmt) (r : Rnd) : Num → Nat
  | .nan => f.nanCode
  | .inf neg => f.signBit neg + (if f.ieee then f.infCode else f.maxCode)
  | .fin neg m e =>
    let (a, b) := powRatio e
    ratCode f r neg (m * a) b

/-- The value of a code of a float format (R37, R42). -/
def floatVal (f : FloatFmt) (c : Nat) : Num :=
  let neg := decide (c / 2 ^ (f.ebits + f.mbits) % 2 = 1)
  let m := c % 2 ^ f.mbits
  let e := c / 2 ^ f.mbits % 2 ^ f.ebits
  if f.ieee && e + 1 == 2 ^ f.ebits then (if m = 0 then .inf neg else .nan)
  else if e = 0 then .fin neg m (1 - (f.bias : Int) - f.mbits)
  else .fin neg (2 ^ f.mbits + m) ((e : Int) - f.bias - f.mbits)

/-- The value of a UE5M7 scale (R44). -/
def scaleVal (c : Nat) : Num :=
  if c = 0xFFF then .nan
  else if c / 128 = 0 then .fin false (c % 128) (-21)
  else .fin false (128 + c % 128) ((c / 128 : Nat) - 22)

/-- The code of a value in UE5M7 (Table 02-4). -/
def scaleCode (r : Rnd) : Num → Nat
  | .nan => 0xFFF
  | .inf neg => if neg then 0 else 0xFFE
  | .fin neg m e => if neg then 0 else
    let (a, b) := powRatio e
    Nat.min 0xFFE (magCode scaleF r false (m * a) b)

/-! ## Integers -/

/-- The exact value of an integer. -/
def Num.ofInt (x : Int) : Num := .fin (decide (x < 0)) x.natAbs 0

/-- Round a value to an integer, saturating into a format (Table 02-4): NaN gives 0. -/
def toIntSat (r : Rnd) (w : Nat) (signed : Bool) : Num → Int
  | .nan => 0
  | .inf neg =>
    if signed then (if neg then -(2 ^ (w - 1) : Nat) else (2 ^ (w - 1) : Nat) - 1)
    else if neg then 0 else (2 ^ w : Nat) - 1
  | .fin neg m e =>
    let (a, b) := powRatio e
    let n : Int := roundNat r neg (m * a) b
    let n := if neg then -n else n
    if signed then satS w n else satN w n

/-- The value of an element code of a format. -/
def fmtVal (f : Fmt) (c : Nat) : Num :=
  match floatFmt f with
  | some ff => floatVal ff c
  | none => .ofInt (if intSigned f then sgn f.bits c else (c % 2 ^ f.bits : Nat))

/-- The code of a value in a format, saturating into an integer format (Table 02-4). -/
def fmtCode (f : Fmt) (r : Rnd) (x : Num) : Nat :=
  match floatFmt f with
  | some ff => floatCode ff r x
  | none => wrap f.bits (toIntSat r f.bits (intSigned f) x)

/-! ## Arithmetic (R39) -/

def Num.neg : Num → Num
  | .nan => .nan
  | .inf s => .inf (!s)
  | .fin s m e => .fin (!s) m e

def Num.abs : Num → Num
  | .nan => .nan
  | .inf _ => .inf false
  | .fin _ m e => .fin false m e

def Num.isNan : Num → Bool
  | .nan => true
  | _ => false
def Num.isZero : Num → Bool
  | .fin _ m _ => m == 0
  | _ => false
def Num.isNeg : Num → Bool
  | .nan => false
  | .inf s => s
  | .fin s _ _ => s

/-- Two finite values at one exponent. -/
def alignTo (m : Nat) (e lo : Int) : Nat := m * 2 ^ (e - lo).toNat
def signedMag (s : Bool) (m : Nat) : Int := if s then -(m : Int) else m

/-- The exact sum. `dn` says that the sum is rounded down, which gives an exact zero of opposite signs the sign − (R39). -/
def Num.add (dn : Bool) : Num → Num → Num
  | .nan, _ => .nan
  | _, .nan => .nan
  | .inf a, .inf b => if a = b then .inf a else .nan
  | .inf a, _ => .inf a
  | _, .inf b => .inf b
  | .fin sa ma ea, .fin sb mb eb =>
    let lo := min ea eb
    let x := signedMag sa (alignTo ma ea lo) + signedMag sb (alignTo mb eb lo)
    if x = 0 then .fin (if sa = sb then sa else dn) 0 0 else .fin (decide (x < 0)) x.natAbs lo

/-- The exact product. -/
def Num.mul : Num → Num → Num
  | .nan, _ => .nan
  | _, .nan => .nan
  | .inf a, .inf b => .inf (a != b)
  | .inf a, .fin b m _ => if m = 0 then .nan else .inf (a != b)
  | .fin a m _, .inf b => if m = 0 then .nan else .inf (a != b)
  | .fin a m e, .fin b n k => .fin (a != b) (m * n) (e + k)

/-- The quotient, rounded once into a float format (R39). -/
def divCode (f : FloatFmt) (r : Rnd) : Num → Num → Nat
  | .nan, _ => f.nanCode
  | _, .nan => f.nanCode
  | .inf _, .inf _ => f.nanCode
  | .inf a, .fin b _ _ => floatCode f r (.inf (a != b))
  | .fin a _ _, .inf b => f.signBit (a != b)
  | .fin a m e, .fin b n k =>
    if n = 0 then (if m = 0 then f.nanCode else floatCode f r (.inf (a != b)))
    else
      let (p, q) := powRatio (e - k)
      ratCode f r (a != b) (m * p) (n * q)

/-- Integer square root, bit by bit from bit `k`. -/
def isqrtFrom : Nat → Nat → Nat → Nat
  | 0, _, r => r
  | k + 1, n, r =>
    let t := r + 2 ^ k
    isqrtFrom k n (if t * t ≤ n then t else r)

/-- The square root, rounded once (R39). -/
def sqrtCode (f : FloatFmt) (r : Rnd) : Num → Nat
  | .nan => f.nanCode
  | .inf s => if s then f.nanCode else f.infCode
  | .fin s m e =>
    if m = 0 then f.signBit s
    else if s then f.nanCode
    else
      let (m, e) := if e % 2 = 0 then (m, e) else (2 * m, e - 1)
      let n := m * 2 ^ 128
      let q := isqrtFrom (Nat.log2 n / 2 + 1) n 0
      let x : Num := if q * q = n then .fin false q (e / 2 - 64) else .fin false (2 * q + 1) (e / 2 - 65)
      floatCode f r x

/-- Whether a < b and a = b for values that are no NaN; zeros are equal (R41). -/
def Num.lt (a b : Num) : Bool :=
  match a, b with
  | .nan, _ => false
  | _, .nan => false
  | .inf s, .inf t => s && !t
  | .inf s, .fin _ _ _ => s
  | .fin _ _ _, .inf t => !t
  | .fin sa ma ea, .fin sb mb eb =>
    let lo := min ea eb
    decide (signedMag sa (alignTo ma ea lo) < signedMag sb (alignTo mb eb lo))
def Num.eq (a b : Num) : Bool := !a.isNan && !b.isNan && !a.lt b && !b.lt a

/-- A floating-point condition: with a NaN every one is false but "not equal" (R41). -/
def numHolds (c : Cond) (a b : Num) : Bool :=
  match c with
  | .eq => a.eq b
  | .ne => !a.eq b
  | .lt => a.lt b
  | .le => a.lt b || a.eq b
  | .gt => b.lt a
  | .ge => b.lt a || a.eq b

/-- Maximum and minimum: NaN wins, −0 lies below +0 (R41). -/
def Num.max (a b : Num) : Num :=
  if a.isNan || b.isNan then .nan
  else if a.lt b then b else if b.lt a then a else if a.isZero && a.isNeg then b else a
def Num.min (a b : Num) : Num :=
  if a.isNan || b.isNan then .nan
  else if a.lt b then a else if b.lt a then b else if a.isZero && !a.isNeg then b else a

/-! ## FP4 blocks (R51, R52) -/

/-- QuantiseBlock (R51): the scale and the element codes. -/
def quantise (xs : List Num) : Nat × List Nat :=
  if xs.any Num.isNan then (0xFFF, xs.map fun _ => 0) else
  let amax := xs.foldl (fun m x => if m.lt x.abs then x.abs else m) (.fin false 0 0)
  let s : Nat := match amax with
    | .inf _ => 0xFFE
    | .fin _ m e =>
      let (a, b) := powRatio e
      if m = 0 then 0 else Nat.min 0xFFE (magCode scaleF .up false (m * a) (6 * b))
    | .nan => 0xFFF
  (s, xs.map fun x => if s = 0 then (if x.isNeg then 8 else 0) else divCode f4F .ne x (scaleVal s))

/-- The value of an element of a block (R45, R52). -/
def blockVal (s c : Nat) : Num := if s = 0xFFF then .nan else (floatVal f4F c).mul (scaleVal s)

end Sys2Proof.Machine
end

