-- ==== Sys2Proof/Machine/Codec.lean ====
section
/-! DEFINITION. The codec: code tables, compressed blocks, table construction (04). -/

namespace Sys2Proof.Machine
open Sys2Proof

/-! ## CRC-32C -/

/-- One bit of CRC-32C. -/
def crcBit (c : BitVec 32) : BitVec 32 := if c.getLsbD 0 then (c >>> 1) ^^^ 0x82F63B78 else c >>> 1
def crcByte (c : BitVec 32) (b : Byte) : BitVec 32 :=
  crcBit (crcBit (crcBit (crcBit (crcBit (crcBit (crcBit (crcBit (c ^^^ b.zeroExtend 32))))))))
/-- The running form over bytes, and the CRC of a list of bytes. -/
def crcRun (c : BitVec 32) (bs : List Byte) : BitVec 32 := bs.foldl crcByte c
def crc32c (bs : List Byte) : Nat := (~~~(crcRun 0xFFFFFFFF bs)).toNat

/-! ## Elements of a packed array (R33) -/

/-- The `n` elements of `w` bits packed in bytes, element 0 first, for widths 4, 8, 16 and 32. -/
def unpack (w : Nat) : Nat → List Byte → List Nat
  | 0, _ => []
  | n + 1, bs =>
    if w = 4 then
      match bs with
      | b :: bs => b.toNat % 16 :: (match n with
        | 0 => []
        | n + 1 => b.toNat / 16 :: unpack w n bs)
      | [] => 0 :: unpack w n []
    else leNat (bs.take (w / 8)) :: unpack w n (bs.drop (w / 8))

/-- Elements of `w` bits packed into bytes (R33); a last odd nibble stands in a byte of its own. -/
def pack (w : Nat) : List Nat → List Byte
  | [] => []
  | [x] => if w = 4 then [BitVec.ofNat 8 (x % 16)] else leBytes (w / 8) x
  | x :: y :: xs =>
    if w = 4 then BitVec.ofNat 8 (x % 16 + y % 16 * 16) :: pack w xs
    else leBytes (w / 8) x ++ pack w (y :: xs)

/-! ## Symbols and raw planes (R88, R89) -/

def codecFmt : Fmt → Bool
  | .bf16 | .e4m3 | .e5m2 | .f4 => true
  | _ => false
/-- The alphabet's size (Table 04-1). -/
def alphabet : Fmt → Nat
  | .bf16 => 256 | .e5m2 => 32 | _ => 16
/-- Bits of a raw-plane field (Table 04-1). -/
def planeBits : Fmt → Nat
  | .bf16 => 8 | .e4m3 => 4 | .e5m2 => 3 | _ => 0
def blockElems (f : Fmt) : Nat := 32768 / f.bits
/-- Bytes of the raw plane. -/
def planeBytes (f : Fmt) : Nat := blockElems f * planeBits f / 8

/-- The symbol and the raw-plane field of an element (Table 04-1). -/
def symOf (f : Fmt) (c : Nat) : Nat × Nat :=
  match f with
  | .bf16 => (bits c 14 7, bits c 15 15 * 128 + bits c 6 0)
  | .e4m3 => (bits c 6 3, bits c 7 7 * 8 + bits c 2 0)
  | .e5m2 => (bits c 6 2, bits c 7 7 * 4 + bits c 1 0)
  | _ => (c % 16, 0)
/-- The element of a symbol and a raw-plane field. -/
def elemOf (f : Fmt) (y r : Nat) : Nat :=
  match f with
  | .bf16 => r / 128 * 2 ^ 15 + y * 128 + r % 128
  | .e4m3 => r / 8 * 128 + y * 8 + r % 8
  | .e5m2 => r / 4 * 128 + y * 4 + r % 4
  | _ => y

/-! ## Code tables (R93 to R97) -/

/-- Canonical code words: (symbol, length, code), by length and then by symbol (R93). -/
def canonical (lens : List Nat) : List (Nat × Nat × Nat) :=
  let syms := (List.range 12).flatMap fun l =>
    (List.range lens.length).filterMap fun i => if lens.getD i 0 = l + 1 then some (i, l + 1) else none
  (syms.foldl (fun (acc : List (Nat × Nat × Nat) × Option (Nat × Nat)) p =>
    let code := match acc.2 with
      | none => 0
      | some (l, c) => (c + 1) * 2 ^ (p.2 - l)
    (acc.1 ++ [(p.1, p.2, code)], some (p.2, code))) ([], none)).1

/-- Check a table block of 512 bytes (R95). -/
def tableOf (bs : List Byte) : Option CodecTable :=
  let at1 := fun i => (bs.getD i 0).toNat
  let lens := unpack 4 256 ((bs.drop 16).take 128)
  let nz := (lens.filter (· != 0)).length
  match Fmt.ofCode? (at1 4) with
  | none => none
  | some f =>
    if codecFmt f && at1 5 == 1 && ((bs.drop 8).take 8).all (· == 0) && ((bs.drop 144).take 364).all (· == 0)
        && lens.all (fun l => decide (l ≤ 12)) && (lens.drop (alphabet f)).all (· == 0)
        && at1 6 + at1 7 * 256 == nz && decide (1 ≤ nz)
        && decide (lens.foldl (fun k l => if l = 0 then k else k + 2 ^ (12 - l)) 0 ≤ 4096)
        && leNat (bs.drop 508) == crc32c (bs.take 508)
    then some { tid := BitVec.ofNat 32 (leNat (bs.take 4)), fmt := f, lens := lens.take (alphabet f) }
    else none

/-- A node of BuildLengths: weight, least symbol, members. -/
structure CodeNode where
  weight : Nat
  least : Nat
  members : List Nat

def CodeNode.before (a b : CodeNode) : Bool := a.weight < b.weight || (a.weight == b.weight && a.least < b.least)

/-- The node that comes first, and the others. -/
def takeLeast : List CodeNode → Option (CodeNode × List CodeNode)
  | [] => none
  | a :: as =>
    match takeLeast as with
    | none => some (a, [])
    | some (b, bs) => if a.before b then some (a, b :: bs) else some (b, a :: bs)

def addOne (lens : List Nat) (is : List Nat) : List Nat :=
  lens.mapIdx fun i l => if is.contains i then l + 1 else l

def mergeNodes : Nat → List CodeNode → List Nat → List Nat
  | 0, _, lens => lens
  | k + 1, ns, lens =>
    match takeLeast ns with
    | none => lens
    | some (a, ns) =>
      match takeLeast ns with
      | none => lens
      | some (b, ns) =>
        mergeNodes k (⟨a.weight + b.weight, Nat.min a.least b.least, a.members ++ b.members⟩ :: ns)
          (addOne lens (a.members ++ b.members))

/-- The last loop of BuildLengths: lengthen code words until the Kraft sum fits. -/
def fitKraft : Nat → List Nat → List Nat
  | 0, lens => lens
  | k + 1, lens =>
    if lens.foldl (fun t l => if l = 0 then t else t + 2 ^ (12 - l)) 0 ≤ 4096 then lens else
    let best := (List.range lens.length).foldl (fun (b : Option (Nat × Nat)) i =>
      let l := lens.getD i 0
      if l = 0 ∨ 12 ≤ l then b else
      match b with
      | some (m, _) => if m ≤ l then some (l, i) else b
      | none => some (l, i)) none
    match best with
    | some (_, j) => fitKraft k (addOne lens [j])
    | none => lens

/-- BuildLengths (R97). -/
def buildLengths (count : List Nat) : List Nat :=
  let present := (List.range count.length).filter fun i => 0 < count.getD i 0
  let zero := count.map fun _ => 0
  if present.length ≤ 1 then addOne zero [0] else
  let lens := mergeNodes present.length (present.map fun i => ⟨count.getD i 0, i, [i]⟩) zero
  fitKraft 4096 (lens.map fun l => Nat.min l 12)

/-! ## Blocks (R89 to R100) -/

/-- The bits of a code word, the most significant first. -/
def codeBits : Nat → Nat → List Bool
  | 0, _ => []
  | l + 1, c => bit c l :: codeBits l c

/-- Bytes of a bit string, bit 0 first. -/
def bitsToBytes : Nat → List Bool → List Byte
  | 0, _ => []
  | n + 1, bs =>
    let v := (bs.take 8).foldr (fun (b : Bool) a => 2 * a + b.toNat) 0
    BitVec.ofNat 8 v :: bitsToBytes n (bs.drop 8)
def bytesToBits (bs : List Byte) : List Bool := bs.flatMap fun b => (List.range 8).map fun i => b.getLsbD i

/-- Fields of `w` bits packed into bytes, and back (R33). -/
def packPlane (w : Nat) (rs : List Nat) : List Byte :=
  let bs := rs.flatMap fun r => (List.range w).map fun i => bit r i
  bitsToBytes ((bs.length + 7) / 8) bs
def unpackPlane (w : Nat) : Nat → List Bool → List Nat
  | 0, _ => []
  | n + 1, bs => ((bs.take w).foldr (fun (b : Bool) a => 2 * a + b.toNat) 0) :: unpackPlane w n (bs.drop w)

/-- Pad with zero bytes to `n`. -/
def padTo (n : Nat) (bs : List Byte) : List Byte := (bs ++ List.replicate n 0).take n

/-- Encode up to 4096 valid bytes into a block of `d` bytes (R90, R91); also the stored size. -/
def encodeBlock (t : CodecTable) (d : Nat) (valid : List Byte) : List Byte × Nat :=
  let raw := padTo 4096 valid
  let es := unpack t.fmt.bits (blockElems t.fmt) raw
  let codes := canonical t.lens
  let words := es.map fun e => (codes.find? fun c => c.1 == (symOf t.fmt e).1)
  let bs := words.flatMap fun w => match w with
    | some (_, l, c) => codeBits l c
    | none => []
  let e := (bs.length + 7) / 8
  let hdr := fun (raw : Bool) (eb : Nat) =>
    raw.toNat + t.fmt.code * 2 ^ 4 + (valid.length - 1) % 4096 * 2 ^ 8 + eb * 2 ^ 20 + t.tid.toNat * 2 ^ 32
  if words.all Option.isSome && decide (e + planeBytes t.fmt < 4096) then
    let body := leBytes 8 (hdr false e) ++ bitsToBytes e bs ++ packPlane (planeBits t.fmt) (es.map fun x => (symOf t.fmt x).2)
    (padTo d body, 8 + e + planeBytes t.fmt)
  else (padTo d (leBytes 8 (hdr true 0) ++ raw), 4104)

/-- The next symbol of a bitstream: the code so far, its length, the bits left. -/
def nextSym (codes : List (Nat × Nat × Nat)) : Nat → Nat → Nat → List Bool → Option (Nat × List Bool)
  | 0, _, _, _ => none
  | _ + 1, _, _, [] => none
  | k + 1, c, l, b :: bs =>
    let c := 2 * c + b.toNat
    match codes.find? fun w => w.2.1 == l + 1 && w.2.2 == c with
    | some w => some (w.1, bs)
    | none => nextSym codes k c (l + 1) bs

def readSyms (codes : List (Nat × Nat × Nat)) : Nat → List Bool → Option (List Nat × List Bool)
  | 0, bs => some ([], bs)
  | n + 1, bs =>
    match nextSym codes 12 0 0 bs with
    | none => none
    | some (y, bs) =>
      match readSyms codes n bs with
      | none => none
      | some (ys, bs) => some (y :: ys, bs)

/-- Decode a block of D bytes: the 4096 raw bytes, zero from VLEN + 1 on, and VLEN; none in decode error (R98, R100). -/
def decodeBlock (t : CodecTable) (blk : List Byte) : Option (List Byte × Nat) :=
  let hd := leNat (blk.take 8)
  let f := t.fmt
  let eb := bits hd 31 20
  let vlen := bits hd 19 8
  let cut := fun (raw : List Byte) => padTo 4096 (raw.take (vlen + 1))
  if bits hd 3 1 != 0 || bits hd 7 4 != f.code || (f == .bf16 && (vlen + 1) % 2 != 0) then none
  else if bit hd 0 then
    if blk.length < 4104 || eb != 0 then none else some (cut ((blk.drop 8).take 4096), vlen)
  else if bits hd 63 32 != t.tid.toNat || decide (blk.length < 8 + eb + planeBytes f) then none
  else
    match readSyms (canonical t.lens) (blockElems f) (bytesToBits ((blk.drop 8).take eb)) with
    | none => none
    | some (ys, rest) =>
      if 8 ≤ rest.length ∨ rest.any id then none else
      let rs := unpackPlane (planeBits f) (blockElems f) (bytesToBits ((blk.drop (8 + eb)).take (planeBytes f)))
      some (cut (pack f.bits (List.zipWith (elemOf f) ys rs)), vlen)

/-! ## Tables in use (R96) -/

/-- Tables held by the codec of a core. -/
def Core.tablesHeld (c : Core) : Nat :=
  (c.cmds.filter fun k => k.table.isSome).length
    + (c.ctxs.map fun x => (x.2.ports.filter fun p => p.2.table.isSome).length).foldl (· + ·) 0

/-- Check a codec request: the status that refuses it, or its table (R88, R92, R95). Where several checks fail, the order 1, 2, 3
and, of a stream, its FMT in place of the table's are the model's (log entry 97). -/
def codecRequest (s : State) (core : Nat) (fmt : Fmt) (dsz tbl : Nat) (enc : Bool) : Except Nat CodecTable :=
  match (if s.badIn (spad core tbl) 512 then none else tableOf (s.bytes (spad core tbl) 512)) with
  | none => .error 1
  | some t =>
    if dsz = 0 ∨ 17 < dsz ∨ (enc ∧ dsz < 17) then .error 2
    else if !codecFmt fmt then .error 3
    else .ok { t with fmt := fmt }

end Sys2Proof.Machine
end

