-- ==== Sys2Proof/Machine/Streams.lean ====
section
/-! DEFINITION. Stream ports: configuration, checks, the nest and its mask, pop and push, records (06). -/

namespace Sys2Proof.Machine
open Sys2Proof

/-! ## Configuration words (Tables 06-2, 06-3, 06-6) -/

abbrev Conf := SMap (BitVec 64)

def Conf.fld (c : Conf) (w hi lo : Nat) : Nat := bits (SMap.get 0 c w).toNat hi lo
def Conf.flag (c : Conf) (w i : Nat) : Bool := bit (SMap.get 0 c w).toNat i
def Conf.fmtCode (c : Conf) : Nat := c.fld 0 3 0
def Conf.fmt (c : Conf) : Fmt := (Fmt.ofCode? c.fmtCode).getD .n8
def Conf.kind (c : Conf) : Nat := c.fld 0 5 4
def Conf.sink (c : Conf) : Bool := c.flag 0 6
def Conf.unf (c : Conf) (l : Nat) : Bool := c.flag 0 (8 + l)
def Conf.wlvl (c : Conf) : Nat := c.fld 0 16 14
def Conf.wen (c : Conf) : Bool := c.flag 0 17
def Conf.mlvl (c : Conf) : Nat := c.fld 0 20 18
def Conf.men (c : Conf) : Bool := c.flag 0 21
def Conf.mreg (c : Conf) : Nat := c.fld 0 24 22
def Conf.mbase (c : Conf) : Nat := c.fld 0 30 25
def Conf.paira (c : Conf) : Nat := c.fld 0 33 31
def Conf.pairb (c : Conf) : Nat := c.fld 0 36 34
def Conf.scope (c : Conf) : Nat := c.fld 0 39 37
def Conf.pval (c : Conf) : Bool := c.flag 0 40
def Conf.base (c : Conf) : Nat := c.fld 1 56 0
def Conf.count (c : Conf) (l : Nat) : Nat := if l < 4 then c.fld 2 (16 * l + 15) (16 * l) else c.fld 3 (16 * (l - 4) + 15) (16 * (l - 4))
def Conf.scale (c : Conf) : Nat := c.fld 3 63 32
/-- STR l for l from 1 to 5, as its 32 bits. -/
def Conf.str (c : Conf) (l : Nat) : Nat := c.fld (4 + (l - 1) / 2) (32 * ((l - 1) % 2) + 31) (32 * ((l - 1) % 2))
def Conf.nblk (c : Conf) : Nat := c.fld 6 63 32
def Conf.bufl (c : Conf) : Nat := c.fld 7 12 0 * 256
def Conf.lines (c : Conf) : Nat := c.fld 7 18 13 + 1
def Conf.dsz (c : Conf) : Nat := c.fld 7 23 19
def Conf.tbl (c : Conf) : Nat := c.fld 7 35 24 * 512
def Conf.pcore (c : Conf) : Nat := c.fld 7 43 36
def Conf.pport (c : Conf) : Nat := c.fld 7 47 44
def Conf.splane (c : Conf) : Nat := c.fld 7 63 48 * 32

def Conf.isCodec (c : Conf) : Bool := c.kind == 3
def Conf.isPeer (c : Conf) : Bool := c.kind == 2
/-- The ring's first line and its lines (R146). -/
def Conf.ringAt (c : Conf) : Nat := if c.isCodec then 16 else 0
def Conf.ring (c : Conf) : Nat := c.lines - c.ringAt
/-- The pair level of an unfold level (R140): PAIRA for the lower of them. -/
def Conf.pairOf (c : Conf) (l : Nat) : Nat :=
  if (List.range l).any c.unf then c.pairb else c.paira
def Conf.unfolds (c : Conf) : List Nat := (List.range 6).filter c.unf

/-! ## Ports -/

def Ctx.port (c : Ctx) (n : Nat) : Port := c.ports.get {} n
def Ctx.setPort (c : Ctx) (n : Nat) (p : Port) : Ctx := { c with ports := c.ports.put n p }
def State.port (s : State) (k x n : Nat) : Port := (s.ctx k x).port n
def State.modPort (s : State) (k x n : Nat) (f : Port → Port) : State := s.modCtx k x fun c => c.setPort n (f (c.port n))

/-- Ports of a context (R150, R179): the kernel header's stream count; the system context has all sixteen (log entry 4). -/
def Ctx.streamCount (c : Ctx) (x : Nat) : Nat := if x = 4 then 16 else match c.bind with
  | some b => b.scount
  | none => 0

/-- Local offset of the line at a ring position (R146). -/
def Port.lineAt (p : Port) (i : Nat) : Nat := Conf.bufl p.cfg + 256 * (Conf.ringAt p.cfg + i)
/-- Local offset of the `k`-th line in use. -/
def Port.lineOf (p : Port) (k : Nat) : Nat := p.lineAt ((p.head + k) % Nat.max 1 (Conf.ring p.cfg))

/-- Whether a sink is in the midst of a line that it drains (R354). -/
def Port.midDrain (p : Port) : Bool := p.act && Conf.sink p.cfg && !p.flt && p.lines.head?.any fun l => l.got != 0
def Port.nfull (p : Port) : Nat := (p.lines.filter (·.full)).length

/-- Whether elements or end markers of a port are on their way (R138). -/
def State.inFlight (s : State) (k x n : Nat) : Bool := s.elems.any fun e => e.core == k && e.ctx == x && e.sp == n

/-- Drained (R138). -/
def State.drained (s : State) (k x n : Nat) : Bool :=
  let p := s.port k x n
  if !p.act then false
  else if Conf.sink p.cfg then
    if p.flt then p.fltLines == 0
    else p.ended && p.lines.isEmpty && !s.inFlight k x n && (!Conf.isPeer p.cfg || p.endSent)
  else p.ended && p.lines.isEmpty && !s.inFlight k x n

/-! ## Positions (R140 to R144) -/

def Pos.idx (p : Pos) : Nat → Nat
  | 1 => p.i1 | 2 => p.i2 | 3 => p.i3 | 4 => p.i4 | 5 => p.i5 | _ => 0

/-- The position with level `l` at `v` and the levels below it at 0. -/
def Pos.setFrom (p : Pos) (l v : Nat) : Pos :=
  match l with
  | 1 => { p with i1 := v }
  | 2 => { p with i1 := 0, i2 := v }
  | 3 => { p with i1 := 0, i2 := 0, i3 := v }
  | 4 => { p with i1 := 0, i2 := 0, i3 := 0, i4 := v }
  | _ => { i5 := v }

/-- The past-the-end position (R158). -/
def Conf.pastEnd (c : Conf) : Pos := { i5 := c.count 5 }
def Conf.atEnd (c : Conf) (p : Pos) : Bool := !c.wen && p == c.pastEnd

/-- The next position after level `l` completes an iteration (R140, R143); fuel is the number of levels left. -/
def Conf.bump (c : Conf) (p : Pos) : Nat → Nat → Pos
  | _, 0 => c.pastEnd
  | l, k + 1 =>
    if p.idx l + 1 < c.count l then p.setFrom l (p.idx l + 1)
    else if c.wen && l == c.wlvl then p.setFrom l 0
    else c.bump p (l + 1) k

/-- Whether a mask keeps a position (R142). -/
def Conf.keeps (c : Conf) (m : Option (BitVec 64)) (p : Pos) : Bool :=
  match m with
  | some m => !c.men || m.getLsbD ((c.mbase + p.idx c.mlvl) % 64)
  | none => true

/-- The first position kept at or after one (R142). Within 130 moves of the mask level one is found, if one exists; a stream that
wraps below its mask level never moves it (R143). -/
def Conf.seek (c : Conf) (m : Option (BitVec 64)) : Nat → Pos → Option Pos
  | 0, _ => none
  | k + 1, p =>
    if c.atEnd p then none
    else if c.keeps m p then some p
    else if c.wen && c.wlvl < c.mlvl then none
    else c.seek m k (c.bump p c.mlvl (6 - c.mlvl))

/-- The first kept position at or after `p`, or the past-the-end position. -/
def Conf.first (c : Conf) (m : Option (BitVec 64)) (p : Pos) : Option Pos := c.seek m 130 p
/-- A wrapping stream, which has no past-the-end position (R158), stays where it is while its mask keeps nothing (R143). -/
def Conf.resolve (c : Conf) (m : Option (BitVec 64)) (p : Pos) : Pos := (c.first m p).getD (if c.wen then p else c.pastEnd)
/-- The position that follows one in the nest; none follows the past-the-end position (R158). -/
def Conf.succ (c : Conf) (p : Pos) : Pos := if c.atEnd p then p else c.bump p 1 5
/-- The kept position that follows one. -/
def Conf.after (c : Conf) (m : Option (BitVec 64)) (p : Pos) : Pos := c.resolve m (c.succ p)

/-- The latched mask in use: none while the stream has no mask. -/
def Port.mask (p : Port) : Option (BitVec 64) := if Conf.men p.cfg then p.latch.map (·.1) else none
/-- Whether a port has still to latch a mask before it needs a bit; a peer source has no nest (R153). -/
def Port.needsLatch (p : Port) : Bool := Conf.men p.cfg && p.latch.isNone && (Conf.sink p.cfg || !Conf.isPeer p.cfg)

/-! ## Item addresses (R140, R141) -/

/-- One level's part of an item's address, in half bytes; none for an item that returns zero. -/
def Conf.levelPart (c : Conf) (i0 : Nat) (p : Pos) (l : Nat) : Option Int :=
  let w : Int := c.fmt.bits
  let ix := fun l => if l = 0 then i0 else p.idx l
  if c.unf l then
    let q := c.pairOf l
    let f := c.str q
    let x : Int := (ix q : Int) * (bits f 31 28 + 1) + (ix l : Int) * (bits f 27 24 + 1) - bits f 23 16
    if x < 0 ∨ (bits f 15 0 : Int) ≤ x then none
    else if l = 0 then some (x * (w / 4)) else some (x * (2 * sgn 32 (c.str l)))
  else if c.unfolds.any fun u => c.pairOf u == l then some 0
  else if l = 0 then some (i0 * (w / 4))
  else some ((ix l : Int) * (2 * sgn 32 (c.str l)))

/-- ItemAddress, in half bytes (R140). -/
def Conf.itemAddr (c : Conf) (i0 : Nat) (p : Pos) : Option Int :=
  (List.range 6).foldl (fun a l => match a, c.levelPart i0 p l with
    | some a, some b => some (a + b)
    | _, _ => none) (some (if c.isCodec then 0 else 2 * (c.base : Int)))

/-- The virtual address or local offset of the first item of the element at a position, 0 where that item is padding. -/
def Conf.elemVa (c : Conf) (p : Pos) : Nat := match c.itemAddr 0 p with
  | some a => wrap 64 (a / 2)
  | none => 0

/-! ## Checks (Table 06-4) -/

/-- The bytes two buffers share. -/
def overlap (a n b m : Nat) : Bool := a < b + m && b < a + n

/-- Whether another stream of the core keeps a buffer that overlaps this one (reason 5). -/
def State.bufferClash (s : State) (k x n : Nat) (c : Conf) : Bool :=
  (s.core k).ctxs.any fun cx => cx.2.ports.any fun p =>
    !(cx.1 == x && p.1 == n) && p.2.act && !s.drained k cx.1 p.1
      && overlap c.bufl (256 * c.lines) (Conf.bufl p.2.cfg) (256 * Conf.lines p.2.cfg)

/-- Whether a core is a member of the gang of a context (R139). -/
def State.inGang (s : State) (k x core : Nat) : Bool :=
  match (s.ctx k x).bind with
  | some b => core == k || sameGang b.shape k core
  | none => false

/-- Reason 6 of Table 06-4; a level of 6 or 7 is the model's (log entry 106). -/
def Conf.badUnfold (c : Conf) : Bool :=
  let us := c.unfolds
  let ps := us.map c.pairOf
  decide (2 < us.length) || c.unf 5
    || us.any (fun u => decide (c.pairOf u ≤ u) || decide (5 < c.pairOf u) || c.unf (c.pairOf u) || c.str (c.pairOf u) % 65536 == 0)
    || (match ps with | [a, b] => a == b | _ => false)
    || (c.men && (c.mlvl == 0 || decide (5 < c.mlvl))) || (c.wen && (c.wlvl == 0 || decide (5 < c.wlvl)))

/-- The reason of Table 06-4 that refuses a configuration, the lowest first, with the codec status of reason 8; or the code
table of a codec stream. A port past the stream count has reason 10, whatever else fails (R228; log entry 77). -/
def State.checkConf (s : State) (k x n : Nat) (c : Conf) (busy : Bool) : Except (Nat × Nat) (Option CodecTable) :=
  let w := c.fmt.bits
  let fp4 := c.fmtCode == 5
  let codec : Except Nat (Option CodecTable) :=
    if c.isCodec then (codecRequest s k c.fmt c.dsz c.tbl false).map some else .ok none
  if (s.ctx k x).streamCount x ≤ n then .error (10, 0)
  else if (Fmt.ofCode? c.fmtCode).isNone || (c.isCodec && c.sink) || (c.isCodec && !codecFmt c.fmt) then .error (1, 0)
  else if c.fld 0 63 41 != 0 || c.flag 0 7 || (c.isPeer && c.base != 0)
      || (!c.isCodec && (c.nblk != 0 || c.fld 7 35 24 != 0 || c.dsz != 0))
      || (c.isPeer && !c.sink && ((List.range 6).any (fun l => c.count l != 1) || (List.range 5).any fun l => c.str (l + 1) != 0))
    then .error (2, 0)
  else if c.scope == 7 then .error (3, 0)
  else if (List.range 6).any (fun l => c.count l == 0) || decide (2048 < c.count 0 * w)
      || (fp4 && (c.count 0 % 8 != 0 || decide (256 < c.count 0) || !c.unfolds.isEmpty || decide (0x200000 < c.splane + 12)))
    then .error (4, 0)
  else if c.lines == 1 || (c.isCodec && decide (c.lines < 18)) || decide (0x200000 < c.bufl + 256 * c.lines)
      || s.bufferClash k x n c
    then .error (5, 0)
  else if c.badUnfold then .error (6, 0)
  else if (c.pval && ((c.isPeer && !c.sink) || (c.sink && !c.isPeer))) || (!c.pval && c.isPeer && c.sink)
      || (c.pval && !s.inGang k x c.pcore)
    then .error (7, 0)
  else match codec with
    | .error st => .error (8, st)
    | .ok t =>
      if busy then .error (9, 0) else .ok t

/-! ## Masks -/

/-- The cause word of a fault other than a translation or protection fault (R162; the address of one without an access: log entry
103). -/
def causeWordOf (addr code detail : Nat) : BitVec 256 := BitVec.ofNat 256 (addr % 2 ^ 64 + (code + detail * 256) * 2 ^ 64)

/-- Put a stream in FLT at a position (R162). -/
def Port.fail (p : Port) (pos : Pos) (f : BitVec 256) : Port := { p with flt := true, park := false, fault := f, fltPos := pos }

/-- Positions of lines that were restored from a record: the first kept ones from a start on, and past these the past-the-end
position (R160). -/
def Conf.place (c : Conf) (m : Option (BitVec 64)) : Pos → List Line → List Line × Pos
  | p, [] => ([], c.resolve m p)
  | p, l :: ls =>
    let q := c.resolve m p
    let (ls, e) := c.place m (c.succ q) ls
    ({ l with pos := q, frm := p } :: ls, e)

/-- Give restored lines their positions once the mask is known (R160). The lines of a wrapping sink whose mask keeps nothing have
none (R143). -/
def Port.settle (p : Port) : Port :=
  if p.restored = 0 then p else
  if Conf.isPeer p.cfg && !Conf.sink p.cfg then { p with restored := 0 } else
  if Conf.sink p.cfg && Conf.wen p.cfg && (Conf.first p.cfg p.mask p.fpos).isNone then p else
  let e := (Conf.place p.cfg p.mask (if Conf.sink p.cfg then p.fpos else p.cpos) p.lines).2
  let ls := (Conf.place p.cfg p.mask (if Conf.sink p.cfg then p.fpos else p.cpos) p.lines).1
  let first : Pos := match ls with
    | l :: _ => l.pos
    | [] => e
  let next : Pos := match ls.getLast? with
    | some l => Conf.succ p.cfg l.pos
    | none => e
  let q : Port := { p with lines := ls, restored := 0, next := next }
  if Conf.sink p.cfg then { q with fpos := first, cpos := if p.ended then p.cpos else e }
  else { q with cpos := first, fpos := e }

/-- Point the port at another mask (R142, R237): the latch is cleared, and what has not been fetched or pushed is decided anew. A failed
stream keeps its fault position (R162). -/
def Port.remask (p : Port) (g mbase : Nat) : Port :=
  let cfg := p.cfg.put 0 (BitVec.ofNat 64 (setBits (setBits (SMap.get 0 p.cfg 0).toNat 24 22 g) 30 25 mbase))
  let q := { p with cfg := cfg, latch := none }
  if p.ended || p.flt || p.restored != 0 || p.latch.isNone then q
  else if Conf.sink cfg then { q with cpos := p.next, fpos := if p.lines.isEmpty then p.next else p.fpos }
  else { q with fpos := p.next, cpos := if p.lines.isEmpty then p.next else p.cpos }

/-- The position at which a port first needs a mask bit: the first restored line, or the next element. -/
def Port.maskPos (p : Port) : Pos :=
  if Conf.sink p.cfg then (if p.restored = 0 then p.cpos else p.fpos) else (if p.restored = 0 then p.fpos else p.cpos)

/-- Latch a mask (R142): a poisoned one fails the stream where it first needed a bit, and the lines before it still drain; restored
lines, which needed it, are blocked (R160). A source without a kept element ends. -/
def Port.takeMask (p : Port) (m : BitVec 64) (bad : Bool) : Port :=
  if bad then
    { ({ p with latch := some (m, true) }).fail p.maskPos (causeWordOf (Conf.elemVa p.cfg p.maskPos) 8 0) with
      fltLines := if Conf.sink p.cfg && p.restored == 0 then p.lines.length else 0
      fpos := if p.restored = 0 then p.fpos else p.maskPos
      blocked := p.restored != 0 }
  else
  let p := ({ p with latch := some (m, false) }).settle
  if Conf.sink p.cfg then
    let q := Conf.resolve p.cfg p.mask p.cpos
    { p with cpos := q, fpos := if p.lines.isEmpty then q else p.fpos, ended := p.ended || Conf.atEnd p.cfg q }
  else
    let q := Conf.resolve p.cfg p.mask p.fpos
    { p with fpos := q, cpos := if p.lines.isEmpty then q else p.cpos, ended := p.ended || (Conf.atEnd p.cfg q && p.lines.isEmpty) }

/-! ## Pop and push (R11, R12) -/

/-- The trap a faulted port raises (R162). -/
def Port.faultTrap (p : Port) (n : Nat) : TrapInfo :=
  let f := p.fault.toNat
  let cls := bits f 67 64
  let code := if cls = 1 then 6 else if cls = 2 then 7 else bits f 71 64
  { code := code, detail := if cls = 1 ∨ cls = 2 then 0 else bits f 79 72, port := some (n, p.fltPos), addr := bits f 63 0,
    fault := if cls = 1 ∨ cls = 2 then p.fault else 0 }

/-- Poison of a vector's chunks, from memory. -/
def State.lineBad (s : State) (pa : Nat) : BitVec 32 :=
  BitVec.ofNat 32 ((List.range 32).foldl (fun a i => if s.badWord (pa / 8 + i) then a + 2 ^ i else a) 0)

def vecOf (bs : List Byte) : BitVec 2048 := BitVec.ofNat 2048 (leNat bs)
def vecBytes (v : BitVec 2048) : List Byte := leBytes 256 v.toNat

/-- Store the 8-byte chunks of a vector with their poison. -/
def State.storeChunks (s : State) (who : Option Tid) (pa : Nat) (v : BitVec 2048) (bad : BitVec 32) : Nat → State
  | 0 => s
  | k + 1 =>
    let s := s.storeChunks who pa v bad k
    s.storeNat who (pa + 8 * k) 8 (bits v.toNat (64 * k + 63) (64 * k)) (bad.getLsbD k)

/-- What a pop finds. -/
inductive Popped where
  | stop (e : Stop)
  | got (v : BitVec 2048) (bad : BitVec 32) (s : State)

/-- Pop (R11): port `n` of the current context, with trap-on-empty bit `t`. A saved line that waits for the mask holds the pop, whatever
the bit (R160). -/
def State.pop (s : State) (n : Nat) (t : Bool) : Popped :=
  let k := s.cur.tid.core
  let x := s.cur.tid.ctx
  let p := s.port k x n
  if s.me.streamCount x ≤ n || !p.act || Conf.sink p.cfg then .stop (.trap { code := 1, ofPort := true })
  else
    if p.ended then
      if t then .stop (.trap { code := 4, port := some (n, p.cpos) })
      else .got 0 0 (s.modPort k x n fun p => { p with eflag := true, usedAt := some (s.coreCc k) })
    else match p.lines with
    | l :: ls =>
      if l.full && p.restored == 0 then
        let pa := spad k (p.lineOf 0)
        let q := if Conf.isPeer p.cfg then p.cpos else (ls.head?.map (·.pos)).getD p.fpos
        let s' := s.modPort k x n fun p => { p with
          lines := ls
          head := (p.head + 1) % Nat.max 1 (Conf.ring p.cfg)
          cpos := q
          ord := (p.ord + 1) % 2 ^ 45
          usedAt := some (s.coreCc k)
          ended := if Conf.isPeer p.cfg then p.endGot && ls.isEmpty else Conf.atEnd p.cfg q && ls.isEmpty }
        .got (vecOf (s.bytes pa 256)) (s.lineBad pa) (s'.look (some s.cur.tid) pa 256)
      else if p.blocked then .stop (.trap (p.faultTrap n))
      else if p.restored != 0 then .stop .hold
      else if t then .stop (.trap { code := 3, port := some (n, l.pos) })
      else .stop .hold
    | [] =>
      if p.flt then .stop (.trap (p.faultTrap n))
      else if t then .stop (.trap { code := 3, port := some (n, p.cpos) })
      else .stop .hold

/-- A push (R12) of a vector whose masked-off lanes are zero already, with trap-on-end bit `t`. A push that needs a mask
waits for it; a poisoned one fails the stream (R142); where a wrapping sink keeps nothing, the push waits (R143). -/
def State.push (s : State) (n : Nat) (v : BitVec 2048) (bad : BitVec 32) (t : Bool) : Except Stop State :=
  let k := s.cur.tid.core
  let x := s.cur.tid.ctx
  let p := s.port k x n
  if s.me.streamCount x ≤ n || !p.act || !Conf.sink p.cfg then .error (.trap { code := 1, ofPort := true })
  else if p.flt then .error (.trap (p.faultTrap n))
  else
    let g := (s.ctx k x).g.get {} (Conf.mreg p.cfg)
    let asks := !p.ended && p.needsLatch
    if asks && !g.full then .error .hold else
    let p := if asks then p.takeMask g.v g.bad else p
    let wait : Stop := if asks then .holdWith (fun s => s.modPort k x n fun _ => p) else .hold
    if p.flt then .error (.trapWith (fun s => s.modPort k x n fun _ => p) (p.faultTrap n))
    else if p.ended then
      if t then .error (.trap { code := 4, port := some (n, p.cpos) })
      else .ok (s.modPort k x n fun _ => { p with eflag := true, usedAt := some (s.coreCc k) })
    else if !Conf.keeps p.cfg p.mask p.cpos || decide (Conf.ring p.cfg ≤ p.lines.length) then .error wait
    else
      let q := Conf.after p.cfg p.mask p.cpos
      let s := s.storeChunks none (spad k (p.lineOf p.lines.length)) v bad 32
      .ok (s.modPort k x n fun _ => { p with
        lines := p.lines ++ [{ pos := p.cpos, frm := p.next, full := true }]
        cpos := q
        fpos := if p.lines.isEmpty then p.cpos else p.fpos
        next := Conf.bump p.cfg p.cpos 1 5
        ord := (p.ord + 1) % 2 ^ 45
        usedAt := some (s.coreCc k)
        ended := Conf.atEnd p.cfg q })

/-! ## Starting, ending, rewinding -/

/-- The core, context and port that a port sends to (R154): none where that member has ended its part. -/
def State.target (s : State) (k x n : Nat) : Option (Nat × Nat × Nat) :=
  let c := (s.port k x n).cfg
  match (s.ctx k x).bind with
  | some b =>
    let m := if Conf.pcore c = k ∧ b.shape = 0 then some x else s.member (Conf.pcore c) b.gang
    m.map fun tx => (Conf.pcore c, tx, Conf.pport c)
  | none => none

/-- The end marker of a port goes out after its last element (R154, R155). One for a member that has ended its part is dropped (log
entry 55). -/
def State.sendMarker (s : State) (k x n : Nat) : State :=
  match s.target k x n with
  | some t =>
    let (id, s) := s.newId
    { s with elems := s.elems ++ [{ id := id, core := k, ctx := x, sp := n, toCore := t.1, toCtx := t.2.1, toSp := t.2.2, data := 0, bad := 0, isEnd := true }] }
  | none => s

/-- End a fork (R155): the end marker follows the last element sent, and PVAL of the committed configuration clears. -/
def State.endFork (s : State) (k x n : Nat) : State :=
  let p := s.port k x n
  if p.act && Conf.pval p.cfg && !Conf.sink p.cfg then
    (s.sendMarker k x n).modPort k x n fun p =>
      { p with cfg := p.cfg.put 0 (BitVec.ofNat 64 (setBits (SMap.get 0 p.cfg 0).toNat 40 40 0)) }
  else s

/-- Whether an element or end marker is a port's. -/
def Elem.of (e : Elem) (k x n : Nat) : Bool := e.core == k && e.ctx == x && e.sp == n

/-- The elements of a port from number `m` on are not sent. Where the fork's end marker followed one of them, the fork has not
ended (R155). -/
def State.unsend (s : State) (k x n m : Nat) : State :=
  let gone := fun (e : Elem) => e.of k x n && decide (m ≤ e.id)
  if s.elems.any fun e => gone e && !e.isEnd then
    let open' := s.elems.any fun e => gone e && e.isEnd
    let s := { s with elems := s.elems.filter fun e => !gone e }
    if open' then s.modPort k x n fun p =>
      { p with cfg := p.cfg.put 0 (BitVec.ofNat 64 (setBits (SMap.get 0 p.cfg 0).toNat 40 40 1)) }
    else s
  else s

/-- The number of the first element of a port that is not yet ready. -/
def State.firstUnready (s : State) (k x n : Nat) : Option Nat :=
  (s.elems.find? fun e => e.of k x n && !e.isEnd && !e.ready).map (·.id)

/-- Elements of a port that have not been sent are discarded (R151, R157): of a source those from the first that is not ready on,
so that none goes without those generated before it (R155); of a sink also what has not been accepted yet, whose lines it still
holds, and its end marker. -/
def State.dropUnsent (s : State) (k x n : Nat) : State :=
  if Conf.sink (s.port k x n).cfg then { s with elems := s.elems.filter fun e => !e.of k x n }
  else match s.firstUnready k x n with
  | some m => { s with elems := s.elems.filter fun e => !(e.of k x n && !e.isEnd && decide (m ≤ e.id)) }
  | none => s

/-- SEND on an active port (R151, R233). -/
def State.sendEnd (s : State) (k x n : Nat) : State :=
  let p := s.port k x n
  if p.ended then s
  else if Conf.sink p.cfg then s.modPort k x n fun p => { p with ended := true }
  else ((s.dropUnsent k x n).endFork k x n).modPort k x n fun p => { p with
    ended := true, lines := [], restored := 0, blocked := false, park := false, fault := if p.flt then p.fault else 0 }

/-- Leave a port inactive, its table released (R96, R138). EFLAG and the count of pops and pushes stay (R151, R164). -/
def Port.inactive (p : Port) : Port := { shadow := p.shadow, eflag := p.eflag, ord := p.ord, usedAt := p.usedAt }

/-- A stream that starts, by SGO (R139). -/
def Port.start (p : Port) (c : Conf) (t : Option CodecTable) : Port :=
  { shadow := p.shadow, cfg := c, act := true, table := t, usedAt := p.usedAt }

/-- SREW to a position (R157, R232). -/
def State.rewind (s : State) (k x n : Nat) (pos : Pos) : State :=
  ((s.dropUnsent k x n).endFork k x n).modPort k x n fun p => { p with
    lines := []
    restored := 0
    blocked := false
    cpos := pos
    fpos := pos
    next := pos
    ended := Conf.atEnd p.cfg pos
    eflag := false
    latch := none
    park := false
    flt := false
    fault := 0
    block := none }

/-! ## Records (R158 to R160) -/

def Pos.words (p : Pos) : List Nat := [p.i1, p.i2, p.i3, p.i4, p.i5]
def catWords : List Nat → Nat
  | [] => 0
  | w :: ws => w % 65536 + 65536 * catWords ws

/-- The runtime words of a record, offsets 64 to 127, as one number. -/
def Port.runtime (p : Port) (nfull : Nat) (fpos : Pos) : Nat :=
  catWords (p.cpos.words ++ fpos.words ++ p.mark.words) + p.head % 64 * 2 ^ 240 + nfull % 128 * 2 ^ 246
    + p.cst % 8 * 2 ^ 253 + p.fault.toNat * 2 ^ 256

/-- The 128-byte record of a port (Table 06-6). -/
def Port.record (p : Port) (drn lsv : Bool) (nfull : Nat) (fpos : Pos) : List Byte :=
  let w1 := Conf.base p.cfg + lsv.toNat * 2 ^ 57 + p.flt.toNat * 2 ^ 58 + p.park.toNat * 2 ^ 59 + drn.toNat * 2 ^ 60
    + p.eflag.toNat * 2 ^ 61 + p.ended.toNat * 2 ^ 62 + p.act.toNat * 2 ^ 63
  let word := fun w => (SMap.get 0 p.cfg w).toNat
  leBytes 8 (word 0) ++ leBytes 8 w1 ++ [2, 3, 4, 5, 6, 7].flatMap (fun w => leBytes 8 (word w))
    ++ leBytes 64 (p.runtime nfull fpos)

def posOf (v lo : Nat) : Pos :=
  { i1 := bits v (lo + 15) lo, i2 := bits v (lo + 31) (lo + 16), i3 := bits v (lo + 47) (lo + 32),
    i4 := bits v (lo + 63) (lo + 48), i5 := bits v (lo + 79) (lo + 64) }

/-- A record's words as a configuration, with the status bits of word 1 removed. -/
def recordConf (bs : List Byte) : Conf :=
  (List.range 8).foldl (fun c w =>
    let v := leNat ((bs.drop (8 * w)).take 8)
    SMap.set 0 c w (BitVec.ofNat 64 (if w = 1 then v % 2 ^ 57 else v))) []

/-- Whether a position of a record is one the nest has, or the past-the-end position. -/
def Conf.hasPos (c : Conf) (p : Pos) : Bool :=
  (!c.wen && p == c.pastEnd) || [1, 2, 3, 4, 5].all fun l => decide (p.idx l < c.count l)

/-- The positions a record may hold: those of the nest, and of a peer source, which has no nest, the first and the past-the-end one. -/
def Conf.mayHold (c : Conf) (p : Pos) : Bool :=
  if c.isPeer && !c.sink then p == {} || p == c.pastEnd else c.hasPos p

/-- Whether the FAULT field of a record agrees with PARK and FLT: a descriptor without reserved values (R80) of a parked or failed
stream, a cause word (R162) of a failed one, and else zero. -/
def faultFieldOk (park flt : Bool) (f : Nat) : Bool :=
  let cls := bits f 67 64
  if cls = 1 ∨ cls = 2 then
    (park || flt) && bits f 103 96 == 0 && decide (bits f 111 108 < 11) && decide (bits f 71 68 < if cls = 1 then 5 else 3)
  else if flt then [5, 8, 12].contains (bits f 71 64) && bits f 255 80 == 0
  else !park && f == 0

/-- Whether the runtime fields of a record are consistent (R160): only active streams are saved, so ACT is set (log entry 78); which
other fields do not agree is the model's choice (log entry 107). -/
def recordOk (c : Conf) (bs : List Byte) (image : Bool) : Bool :=
  let w1 := leNat ((bs.drop 8).take 8)
  let r := leNat (bs.drop 64)
  let nf := bits r 252 246
  bit w1 63 && decide (nf ≤ c.ring) && decide (bits r 245 240 < c.ring) && (image || bit w1 57 || nf == 0)
    && !(bit w1 59 && bit w1 58) && faultFieldOk (bit w1 59) (bit w1 58) (bits r 511 256) && decide (bits r 255 253 < 6)
    && c.mayHold (posOf r 0) && c.mayHold (posOf r 80) && c.mayHold (posOf r 160)

/-- A port restored from a record (R160). `lines` is the number of full lines that stand in the ring from HEAD on. PARK
makes the engine translate again. The fault position of a failed stream is its fetch or drain position (R162). A peer source whose end marker has arrived has its fetch position past the end; a peer sink
that is drained has sent its marker. A sink that a poisoned mask failed did so at its next push, and its lines still drain, unless it
is drained: then, as a source whose fault stands at its first line, it failed as its lines waited for the mask. -/
def Port.restore (p : Port) (c : Conf) (t : Option CodecTable) (bs : List Byte) (head lines : Nat) : Port :=
  let w1 := leNat ((bs.drop 8).take 8)
  let r := leNat (bs.drop 64)
  let cpos := posOf r 0
  let fpos := posOf r 80
  let src := !c.sink
  let pastAll := c.isPeer && src && fpos == c.pastEnd
  let masked := bit w1 58 && bits r 327 320 == 8
  let blocked := masked && decide (lines ≠ 0) && (if src then fpos == cpos else bit w1 60)
  let atPush := masked && !blocked
  let q : Port := {
    shadow := p.shadow, cfg := c, act := true, table := t, usedAt := p.usedAt
    ended := bit w1 62 || (pastAll && lines == 0)
    endGot := pastAll
    endSent := c.isPeer && c.sink && bit w1 60
    eflag := false
    flt := bit w1 58
    fault := if bit w1 58 then BitVec.ofNat 256 (bits r 511 256) else 0
    fltPos := if !src && atPush then cpos else fpos
    fltLines := if !src && atPush then lines else 0
    cpos := cpos
    fpos := if src && lines == 0 then cpos else fpos
    next := cpos
    mark := posOf r 160
    cst := bits r 255 253
    head := head
    lines := List.replicate lines { pos := cpos, full := true }
    sendFrom := fpos
    restored := lines
    blocked := blocked }
  if q.needsLatch || q.blocked then q else q.settle

/-- Whether a port is an active peer source, which takes elements until its end marker has come (R153). -/
def Port.peerSource (p : Port) : Bool := p.act && Conf.isPeer p.cfg && !Conf.sink p.cfg && !p.flt && !p.endGot

end Sys2Proof.Machine
end

