-- ==== Sys2Proof/Machine/ApStream.lean ====
section
/-! DEFINITION. Stream forms of the AP (R228 to R238). -/

namespace Sys2Proof.Machine
open Sys2Proof

/-- Check that the port number is below the stream count (R228). -/
def checkPort (n : Nat) (reason : Nat := 0) : Exec Unit := do
  let s ← get
  if s.me.streamCount s.cur.tid.ctx ≤ n then illegal reason else pure ()

def myPort (n : Nat) : Exec Port := do
  let s ← get
  pure (s.port s.cur.tid.core s.cur.tid.ctx n)

def modMyPort (n : Nat) (f : Port → Port) : Exec Unit :=
  modify fun s => s.modPort s.cur.tid.core s.cur.tid.ctx n f

/-- A shadow word as SCFG stores it: the status bits of word 1 stay zero (R139); the reserved bits of SCTL are stored, for SGO to refuse
(log entry 110). -/
def shadowWord (w : Nat) (v : BitVec 64) : BitVec 64 := if w = 1 then BitVec.ofNat 64 (v.toNat % 2 ^ 57) else v

/-- `SCFG` (R229). -/
def execScfg (h : ApHdr) (o : Op2) (sp : BitVec 4) (word : BitVec 3) (s : State) : Out :=
  apWord h true (do
    checkPort sp.toNat
    let v ← needOp2 o
    modMyPort sp.toNat fun p => { p with shadow := p.shadow.set 0 word.toNat (shadowWord word.toNat v.v) }
    pure none) s

/-- Whether a new stream may not take the port: it is active and not drained, or parked (reason 9). -/
def State.portBusy (s : State) (k x n : Nat) : Bool :=
  let p := s.port k x n
  p.act && (p.park || !s.drained k x n)

/-- The codec reads the table block of a codec stream that starts (R96, R224). -/
def lookTable (c : Conf) : Exec Unit :=
  modify fun s => if c.isCodec then s.look none (spad s.cur.tid.core c.tbl) 512 else s

/-- Wait until the thread's own stores to the table block that the check of a codec stream reads have performed (R139, R353). -/
def awaitCode (c : Conf) : Exec Unit := do
  let s ← get
  if c.isCodec then awaitOwn (spad s.cur.tid.core c.tbl) 512 else pure ()

/-- Wait for a codec table slot (R96); the port's own table is released by the start. -/
def awaitTable (n : Nat) (t : Option CodecTable) : Exec Unit := do
  let s ← get
  let own := if (s.port s.cur.tid.core s.cur.tid.ctx n).table.isSome then 1 else 0
  if t.isSome && decide (16 + own ≤ (s.core s.cur.tid.core).tablesHeld) then waitHere else pure ()

/-- The body of SGO (R139, R231): a release at the stream's SCOPE of the thread's earlier accesses (R138). -/
def sgoBody (n : Nat) : Exec Next := do
  let s ← get
  let k := s.cur.tid.core
  let x := s.cur.tid.ctx
  let p := s.port k x n
  awaitCode p.shadow
  match s.checkConf k x n p.shadow (s.portBusy k x n) with
  | .error (r, st) => illegal (r + st * 256)
  | .ok t => do
    if (s.before s.cur.tid ((Scope.ofCode? (Conf.scope p.shadow)).getD .system) false).isEmpty then pure () else hold
    awaitTable n t
    lookTable p.shadow
    modMyPort n fun p => p.start p.shadow t
    pure none

/-- `SGO` (R231). -/
def execSgo (h : ApHdr) (sp : BitVec 4) (s : State) : Out := apWord h true (sgoBody sp.toNat) s

/-- A rewind of a source that is no peer source (R157). -/
def rewindBody (n : Nat) (toMark : Bool) : Exec Next := do
  checkPort n
  let p ← myPort n
  if !p.act || Conf.sink p.cfg || Conf.isPeer p.cfg then illegal
  else do
    modify fun s => s.rewind s.cur.tid.core s.cur.tid.ctx n (if toMark then p.mark else {})
    pure none

/-- `SREW` to the start (R232). -/
def execSrewStart (h : ApHdr) (sp : BitVec 4) (s : State) : Out := apWord h true (rewindBody sp.toNat false) s
/-- `SREW` to the mark (R232). -/
def execSrewMark (h : ApHdr) (sp : BitVec 4) (s : State) : Out := apWord h true (rewindBody sp.toNat true) s

/-- `SMARK` (R232, R157). -/
def execSmark (h : ApHdr) (sp : BitVec 4) (s : State) : Out :=
  apWord h true (do
    checkPort sp.toNat
    let p ← myPort sp.toNat
    if !p.act || Conf.sink p.cfg || Conf.isPeer p.cfg then illegal
    else do
      modMyPort sp.toNat fun p => { p with mark := if p.ended && !Conf.wen p.cfg then Conf.pastEnd p.cfg else p.cpos }
      pure none) s

/-- The shadow with a fork target (R230). -/
def forkShadow (c : Conf) (core port : Nat) : Conf :=
  let w7 := setBits (setBits (SMap.get 0 c 7).toNat 43 36 core) 47 44 port
  ((SMap.set 0 c 7 (BitVec.ofNat 64 w7)).set 0 0 (BitVec.ofNat 64 (setBits (SMap.get 0 c 0).toNat 40 40 1)))

/-- `SFORK` (R230). -/
def execSfork (h : ApHdr) (ra : BitVec 5) (sp pport : BitVec 4) (s : State) : Out :=
  apWord h true (do
    checkPort sp.toNat
    let a ← needA ra 1
    modMyPort sp.toNat fun p => { p with shadow := forkShadow p.shadow (a.v.toNat % 256) pport.toNat }
    pure none) s

/-- `SEND` (R233, R151). -/
def execSend (h : ApHdr) (sp : BitVec 4) (s : State) : Out :=
  apWord h true (do
    checkPort sp.toNat
    let p ← myPort sp.toNat
    if !p.act then illegal
    else do
      modify fun s => s.sendEnd s.cur.tid.core s.cur.tid.ctx sp.toNat
      pure none) s

/-- The local offset of a record (R234): 128-aligned, with room for its lines. -/
def recordAt (ra : BitVec 5) (off : BitVec 32) : Exec Nat := do
  let a ← needA ra 4
  let o := (a.v + off.signExtend 64).toNat
  if o % 128 ≠ 0 ∨ 0x200000 < o + 128 then badAddress o else pure o

/-- The engine of a port stops for a save: elements that are not ready are not sent (R159, R160). -/
def State.stopPort (s : State) (k x n : Nat) : State :=
  if Conf.sink (s.port k x n).cfg then s.dropUnsent k x n
  else match s.firstUnready k x n with
  | some m => s.unsend k x n m
  | none => s

/-- A port is left inactive, and what its engine has not sent is not sent (R235). -/
def State.quitPort (s : State) (k x n : Nat) : State :=
  (if (s.port k x n).act then s.stopPort k x n else s).modPort k x n Port.inactive

/-- Write bytes to the current core's scratchpad at a local offset. -/
def storeLocal (o : Nat) (bs : List Byte) : Exec Unit :=
  modify fun s => s.store (some s.cur.tid) (spad s.cur.tid.core o) bs false

/-- The body of SSAVE (R159, R234). A forked source sends again what it discards here and had sent (log entry 111). -/
def ssaveBody (n : Nat) (ra : BitVec 5) (off : BitVec 32) : Exec Next := do
  checkPort n
  let o ← recordAt ra off
  let p ← myPort n
  if !p.act then illegal
  else do
    let s ← get
    let k := s.cur.tid.core
    let x := s.cur.tid.ctx
    let drn := s.drained k x n
    if Conf.sink p.cfg && (if p.flt then !drn else !p.lines.isEmpty || (Conf.isPeer p.cfg && p.ended && !drn)) then waitHere else pure ()
    awaitOwn (spad k o) 128
    let s := s.stopPort k x n
    set s
    let p := s.port k x n
    let pastAll := p.endGot && Conf.isPeer p.cfg && !Conf.sink p.cfg
    let p := if pastAll then { p with cpos := Conf.pastEnd p.cfg } else p
    storeLocal o (p.record drn false 0 (if Conf.sink p.cfg then p.fpos else p.cpos))
    modMyPort n Port.inactive
    pure none

/-- Copy buffer lines to the save area (R159), with their poison: line `i` of the `k` full ones from the head on. -/
def saveLines (core o : Nat) (p : Port) (s : State) : Nat → State
  | 0 => s
  | k + 1 =>
    let s := saveLines core o p s k
    let pa := spad core (p.lineOf k)
    (s.look none pa 256).storeChunks none (spad core (o + 128 + 256 * k)) (vecOf (s.bytes pa 256)) (s.lineBad pa) 32

/-- The full lines from the head on. -/
def Port.fullRun (p : Port) : List Line := p.lines.takeWhile (·.full)

/-- Whether a failed stream has still to come to its fault position before it can be saved there (R162): a source with reserved lines
before it, a sink with elements before it on their way. A sink that a poisoned mask failed is saved with its lines. -/
def Port.beforeFault (p : Port) : Bool :=
  p.flt && if Conf.sink p.cfg then decide (0 < p.fltLines) && bits p.fault.toNat 71 64 != 8 else p.lines.any fun l => !l.full

/-- The body of SSAVEB (R159, R234). -/
def ssavebBody (n : Nat) (ra : BitVec 5) (off : BitVec 32) : Exec Next := do
  checkPort n
  let o ← recordAt ra off
  let p ← myPort n
  if 0x200000 < o + 128 + 256 * Conf.lines p.cfg then badAddress o
  else if !p.act then illegal
  else do
    let s ← get
    let k := s.cur.tid.core
    let x := s.cur.tid.ctx
    let drn := s.drained k x n
    let run := p.fullRun
    if p.beforeFault || p.midDrain then waitHere else pure ()
    awaitOwn (spad k o) (128 + 256 * run.length)
    let s := s.stopPort k x n
    let p := s.port k x n
    let fpos := if Conf.sink p.cfg || p.blocked || p.flt then p.fpos
      else if Conf.isPeer p.cfg then (if p.endGot then Conf.pastEnd p.cfg else {})
      else match run.getLast? with
      | some l => if p.restored = 0 then Conf.bump p.cfg l.pos 1 5 else p.fpos
      | none => p.cpos
    set (saveLines k o p s run.length)
    storeLocal o (p.record drn true run.length fpos)
    modMyPort n Port.inactive
    pure none

/-- `SSAVE` (R234). -/
def execSsave (h : ApHdr) (ra : BitVec 5) (off : BitVec 32) (sp : BitVec 4) (s : State) : Out :=
  apWord h true (ssaveBody sp.toNat ra off) s
/-- `SSAVEB` (R234). -/
def execSsaveb (h : ApHdr) (ra : BitVec 5) (off : BitVec 32) (sp : BitVec 4) (s : State) : Out :=
  apWord h true (ssavebBody sp.toNat ra off) s

/-- Copy saved lines into the ring from ring position 0 (R160). -/
def loadLines (core o : Nat) (p : Port) (s : State) : Nat → State
  | 0 => s
  | k + 1 =>
    let s := loadLines core o p s k
    let pa := spad core (o + 128 + 256 * k)
    (s.look none pa 256).storeChunks none (spad core (p.lineAt k)) (vecOf (s.bytes pa 256)) (s.lineBad pa) 32

/-- Refuse a restore (R235): the port is left inactive, except for reason 9. A trap changes nothing else. -/
def refuseRestore (n r st : Nat) : Exec Next :=
  stop (.trapWith (fun s => if r = 9 then s else s.quitPort s.cur.tid.core s.cur.tid.ctx n) { code := 1, detail := r + st * 256 })

/-- Whether a write of a thread of a core to a port's first `n` lines, which saved lines are to replace, is still on its way (R160). -/
def State.ringAwaits (s : State) (k : Nat) (p : Port) (n : Nat) : Bool :=
  (List.range n).any fun i => s.reqs.any fun q => q.op != .read && !q.done && q.tid.core == k
    && decide (q.pa < spad k (p.lineAt i) + 256) && decide (spad k (p.lineAt i) < q.pa + q.n)

/-- The body of SRSTR (R160, R235). No write that was made before it lands after the lines that it restores (R440, case 6; log entry 85). -/
def srstrBody (n : Nat) (ra : BitVec 5) (off : BitVec 32) : Exec Next := do
  let o ← recordAt ra off
  let s ← get
  let k := s.cur.tid.core
  let x := s.cur.tid.ctx
  awaitOwn (spad k o) 128
  let bs := s.bytes (spad k o) 128
  let c := recordConf bs
  let lsv := bit (leNat ((bs.drop 8).take 8)) 57
  let nf := bits (leNat (bs.drop 64)) 252 246
  if s.badIn (spad k o) 128 then poisonTrap 4
  else if lsv && decide (0x200000 < o + 128 + 256 * Conf.lines c) then badAddress o
  else do
    awaitCode c
    match s.checkConf k x n c (s.portBusy k x n) with
    | .error (r, st) =>
      if 2 < r && r != 10 && !recordOk c bs false then refuseRestore n 2 0 else refuseRestore n r st
    | .ok t =>
      if !recordOk c bs false then refuseRestore n 2 0
      else do
        if (s.before s.cur.tid ((Scope.ofCode? (Conf.scope c)).getD .system) false).isEmpty then pure () else hold
        if lsv then awaitOwn (spad k (o + 128)) (256 * nf) else pure ()
        awaitTable n t
        lookTable c
        let s ← get
        let p := (s.port k x n).restore c t bs 0 (if lsv then nf else 0)
        if lsv && s.ringAwaits k p nf then hold else pure ()
        let s := s.look (some s.cur.tid) (spad k o) 128
        set ((loadLines k o p s (if lsv then nf else 0)).modPort k x n fun _ => p)
        pure none

/-- `SRSTR` (R235). -/
def execSrstr (h : ApHdr) (ra : BitVec 5) (off : BitVec 32) (sp : BitVec 4) (s : State) : Out :=
  apWord h true (srstrBody sp.toNat ra off) s

/-- The stream status word (Table 06-7). Of an inactive port EFLAG and ORD stand as they were left, and the other
fields are 0 (R151, R164, R236; log entry 113). -/
def Port.status (p : Port) (drn : Bool) : BitVec 64 :=
  if !p.act then BitVec.ofNat 64 (p.eflag.toNat * 2 ^ 9 + p.ord % 2 ^ 45 * 2 ^ 19) else
  BitVec.ofNat 64 (p.nfull + p.act.toNat * 2 ^ 7 + p.ended.toNat * 2 ^ 8 + p.eflag.toNat * 2 ^ 9 + drn.toNat * 2 ^ 10
    + p.park.toNat * 2 ^ 11 + p.flt.toNat * 2 ^ 12 + (Conf.pval p.cfg && !Conf.sink p.cfg).toNat * 2 ^ 13
    + p.cst % 8 * 2 ^ 16 + p.ord % 2 ^ 45 * 2 ^ 19)

/-- `SQRY` (R236). -/
def execSqry (h : ApHdr) (rd : BitVec 5) (sp : BitVec 4) (s : State) : Out :=
  apWord h true (do
    checkPort sp.toNat
    let s ← get
    let p ← myPort sp.toNat
    writeA rd { v := p.status (s.drained s.cur.tid.core s.cur.tid.ctx sp.toNat) }
    pure none) s

/-- `SMASK` (R237). -/
def execSmask (h : ApHdr) (sp : BitVec 4) (g : BitVec 3) (mbase : BitVec 6) (s : State) : Out :=
  apWord h true (do
    checkPort sp.toNat
    let p ← myPort sp.toNat
    if !p.act || !Conf.men p.cfg then illegal
    else do
      modMyPort sp.toNat fun p => p.remask g.toNat mbase.toNat
      pure none) s

/-- `GRD` (R238): waits while the register is empty. -/
def execGrd (h : ApHdr) (rd : BitVec 5) (g : BitVec 3) (s : State) : Out :=
  apWord h true (do
    let s ← get
    let r := s.me.g.get {} g.toNat
    if !r.full then hold
    else if r.bad then poisonTrap 1
    else do
      writeA rd { v := r.v }
      pure none) s

end Sys2Proof.Machine
end

