-- ==== Sys2Proof/Machine/Operands.lean ====
section
/-! DEFINITION. The operand forms of the XP: levels, rotation, readiness, pops, merged writes, poison (R166 to R174, R240 to
R243). -/

namespace Sys2Proof.Machine
open Sys2Proof

/-! ## Lanes and masks -/

/-- A vector value with its poison by 8-byte chunk. -/
structure VV where
  v : BitVec 2048 := 0
  bad : BitVec 32 := 0
  deriving DecidableEq, Repr

def laneOf (v : BitVec 2048) (i : Nat) : Nat := bits v.toNat (32 * i + 31) (32 * i)
/-- The poison of the chunk that holds lane `i`. -/
def VV.laneBad (x : VV) (i : Nat) : Bool := x.bad.getLsbD (i / 2)
def VV.lane (x : VV) (i : Nat) : Nat := laneOf x.v i

/-- A number of `n` fields of `w` bits each, field `i` given by `f`. -/
def fields (w n : Nat) (f : Nat → Nat) : Nat := (List.range n).foldl (fun a i => a + f i % 2 ^ w * 2 ^ (w * i)) 0

/-- A number of `n` bits, bit `i` given by `f`. -/
def flags (n : Nat) (f : Nat → Bool) : Nat := (List.range n).foldl (fun a i => if f i then a + 2 ^ i else a) 0

/-- What a word writes into a vector: its bits, which bits it writes, and the poison of each lane written (R242, R243). -/
structure VW where
  v : BitVec 2048
  mask : BitVec 2048
  bad : BitVec 64 := 0
  deriving DecidableEq, Repr

/-- The bits of a set of lanes. -/
def laneBits (act : BitVec 64) : BitVec 2048 :=
  BitVec.ofNat 2048 (fields 32 64 fun i => if act.getLsbD i then 0xFFFFFFFF else 0)

/-- Poison after a write (R173): a chunk written in full takes the new poison, one written in part keeps its own as well. -/
def VW.mergeBad (w : VW) (old : BitVec 32) : BitVec 32 :=
  BitVec.ofNat 32 (flags 32 fun j =>
    let m := bits w.mask.toNat (64 * j + 63) (64 * j)
    let new := (w.bad.getLsbD (2 * j) && m % 2 ^ 32 != 0) || (w.bad.getLsbD (2 * j + 1) && m / 2 ^ 32 != 0)
    if m = 0 then old.getLsbD j else if m = 2 ^ 64 - 1 then new else new || old.getLsbD j)

/-- A vector after a merged write. -/
def VW.merge (w : VW) (old : VV) : VV :=
  { v := (old.v &&& ~~~w.mask) ||| (w.v &&& w.mask), bad := w.mergeBad old.bad }

/-! ## Where an operand stands (R167, R174) -/

/-- The ranges and the iteration in force: those of the innermost loop that has any (R174, R268). -/
def rotation : List XpLoop → Option (List (Nat × Nat) × Nat)
  | [] => none
  | l :: ls => if l.ranges.isEmpty then rotation ls else some (l.ranges, l.iter)

/-- An index after rotation (R174). -/
def Ctx.rotated (c : Ctx) (rot : Bool) (i : Nat) : Nat :=
  if !rot then i else
  match rotation c.xpLoops with
  | none => i
  | some (rs, k) =>
    match rs.find? fun r => decide (r.1 ≤ i) && decide (i < r.1 + r.2) with
    | some (b, l) => b + (i - b + k) % l
    | none => i

/-- The index of a V-class operand after rotation. -/
def Ctx.index (c : Ctx) (o : Opnd) : Nat :=
  if o.lvl = .main then c.rotated o.rot o.idx.toNat else o.idx.toNat

/-- Main vectors that a context may name (R169, R170; the system context: log entry 4). -/
def Ctx.mains (c : Ctx) (x : Nat) : Nat := if x = 4 then 8 else match c.bind with
  | some b => b.nmain
  | none => 0

def rangeFault {α : Type} (opnd : Nat) : Exec α := trap { code := 9, opnd := opnd }

/-- The range check of a main-file index (R170). -/
def checkMain (lvl : Level) (i opnd : Nat) : Exec Unit := do
  let s ← get
  if lvl = .main ∧ s.me.mains s.cur.tid.ctx ≤ i then rangeFault opnd else pure ()

/-! ## Readiness (R240 step 3) -/

/-- What keeps a source from being read, if anything does: it is empty, or a scout score of it is on its way (R303). -/
def State.srcStop (s : State) (opnd : Nat) (o : Opnd) : Option Stop :=
  match o.lvl with
  | .main =>
    let r := s.me.v.get {} (s.me.index o)
    if !r.full then (if o.trap then some (.trap { code := 3, opnd := opnd }) else some .hold)
    else if r.busy then some .hold else none
  | .file => if (s.me.o.get {} o.idx.toNat).busy then some .hold else none
  | .latch => if (s.me.lt.get {} o.idx.toNat).busy then some .hold else none
  | .port => match s.pop o.idx.toNat o.trap with
    | .stop (.trap i) => some (.trap { i with opnd := opnd })
    | .stop e => some e
    | .got _ _ _ => none

/-- What keeps a destination from being written. -/
def State.dstStop (s : State) (o : Opnd) : Option Stop :=
  match o.lvl with
  | .main => let r := s.me.v.get {} (s.me.index o)
             if r.full && !r.busy then none else some .hold
  | .file => if (s.me.o.get {} o.idx.toNat).busy then some .hold else none
  | .latch => if (s.me.lt.get {} o.idx.toNat).busy then some .hold else none
  | .port => match s.push o.idx.toNat 0 0 o.trap with
    | .error (.trap i) => some (.trap { i with opnd := 0 })
    | .error (.trapWith f i) => some (.trapWith f { i with opnd := 0 })
    | .error e => some e
    | .ok _ => none

def Stop.isTrap : Stop → Bool
  | .trap _ => true
  | .trapWith _ _ => true
  | _ => false

/-- Stop for the first trap of a list, else for the first wait. -/
def settleStops (ss : List (Option Stop)) : Exec Unit :=
  let es := ss.filterMap id
  match es.find? (·.isTrap), es with
  | some e, _ => stop e
  | none, e :: _ => stop e
  | none, [] => pure ()

/-! ## Reading and writing -/

/-- Read one V-class source; `popped` holds what the word has popped already: one pop per port (R11). -/
def takeV (popped : List (Nat × VV)) (o : Opnd) : Exec (VV × List (Nat × VV)) := do
  let s ← get
  match o.lvl with
  | .main => let r := s.me.v.get {} (s.me.index o)
             pure ({ v := r.v, bad := r.bad }, popped)
  | .file => let r := s.me.o.get {} o.idx.toNat
             pure ({ v := r.v, bad := r.bad }, popped)
  | .latch => let r := s.me.lt.get {} o.idx.toNat
              pure ({ v := r.v, bad := r.bad }, popped)
  | .port =>
    match popped.find? fun p => p.1 == o.idx.toNat with
    | some p => pure (p.2, popped)
    | none =>
      match s.pop o.idx.toNat o.trap with
      | .stop e => stop e
      | .got v bad s' => do
        set s'
        pure ({ v := v, bad := bad }, (o.idx.toNat, { v := v, bad := bad }) :: popped)

def takeAll (popped : List (Nat × VV)) : List Opnd → Exec (List VV)
  | [] => pure []
  | o :: os => do
    let (v, popped) ← takeV popped o
    let vs ← takeAll popped os
    pure (v :: vs)

/-- The poison of a vector pushed: bytes not written are zero. -/
def VW.pushed (w : VW) : VV := w.merge {}

/-- Write a V-class destination (R242): registers merge, a port takes zero for the bytes not written. -/
def putV (o : Opnd) (w : VW) : Exec Unit := do
  let s ← get
  let up := fun (r : VReg) =>
    let n := w.merge { v := r.v, bad := r.bad }
    ({ r with v := n.v, bad := n.bad, full := true } : VReg)
  match o.lvl with
  | .main => let i := s.me.index o
             set (s.modMe fun c => { c with v := c.v.put i (up (c.v.get {} i)) })
  | .file => set (s.modMe fun c => { c with o := c.o.put o.idx.toNat (up (c.o.get {} o.idx.toNat)) })
  | .latch => set (s.modMe fun c => { c with lt := c.lt.put o.idx.toNat (up (c.lt.get {} o.idx.toNat)) })
  | .port =>
    match s.push o.idx.toNat w.pushed.v w.pushed.bad o.trap with
    | .error e => stop e
    | .ok s' => set s'

/-! ## Mask and scalar registers -/

def Ctx.mreg (c : Ctx) (m : BitVec 3) : MReg := if m = 0 then { v := BitVec.allOnes 64 } else c.m.get {} m.toNat
def Ctx.setM (c : Ctx) (m : BitVec 3) (v : MReg) : Ctx := if m = 0 then c else { c with m := c.m.put m.toNat v }
def Ctx.xreg (c : Ctx) (x : BitVec 4) : XReg := c.x.get {} x.toNat
def Ctx.setX (c : Ctx) (x : BitVec 4) (v : XReg) : Ctx := { c with x := c.x.put x.toNat v }
def Ctx.greg (c : Ctx) (g : BitVec 3) : GReg := c.g.get {} g.toNat

/-- Read a lane-mask register to compute or select with it (R243). -/
def needM (m : BitVec 3) (opnd : Nat) : Exec (BitVec 64) := do
  let s ← get
  if (s.me.mreg m).bad then poisonTrap opnd else pure (s.me.mreg m).v

/-- Read an x register to compute with it. -/
def needX (x : BitVec 4) (opnd : Nat) : Exec Nat := do
  let s ← get
  if (s.me.xreg x).bad then poisonTrap opnd else pure (s.me.xreg x).v.toNat

def writeX (x : BitVec 4) (v : Nat) : Exec Unit := modify fun s => s.modMe (·.setX x { v := BitVec.ofNat 32 v })
def writeM (m : BitVec 3) (v : BitVec 64) : Exec Unit := modify fun s => s.modMe (·.setM m { v := v })

/-! ## The operands of a word -/

/-- The V-class sources of a word, each with its number (1 for SRC1): ranges are checked, the word waits until all can be used, with
what `more` asks for beside them, `check` is made, ports are popped (R240). -/
def sources {α : Type} (d : Option Opnd) (srcs : List (Nat × Opnd)) (check : Exec α) (more : List (Option Stop) := []) :
    Exec (α × List VV) := do
  let s ← get
  match d with
  | some o => checkMain o.lvl (s.me.index o) 0
  | none => pure ()
  srcs.forM fun p => checkMain p.2.lvl (s.me.index p.2) p.1
  settleStops ((srcs.map fun p => s.srcStop p.1 p.2) ++ (d.bind s.dstStop :: more))
  let a ← check
  let vs ← takeAll [] (srcs.map (·.2))
  pure (a, vs)

/-- The lane mask and the V-class sources of a word (R242). -/
def operandsAt (h : XpHdr) (d : Option Opnd) (srcs : List (Nat × Opnd)) : Exec (BitVec 64 × List VV) :=
  sources d srcs (needM h.lmask 5)

/-- The operands of a word whose sources are SRC1, SRC2 and so on. -/
def operands (h : XpHdr) (d : Option Opnd) (srcs : List Opnd) : Exec (BitVec 64 × List VV) :=
  operandsAt h d ((List.range srcs.length).map (· + 1) |>.zip srcs)

/-- The first active lane of a value that is poisoned. -/
def VV.badLane (x : VV) (act : BitVec 64) : Option Nat :=
  (List.range 64).find? fun i => act.getLsbD i && x.laneBad i

/-- The Poison trap of a computing form (R243), for the first operand that has a poisoned active lane. -/
def checkLanes (act : BitVec 64) (vs : List VV) : Exec Unit :=
  match firstSome (fun p => (VV.badLane p.2 act).map fun l => (p.1, l)) ((List.range vs.length).zip vs) with
  | some (k, l) => trap { code := 8, opnd := k + 1, lane := l, chunk := l / 2 }
  | none => pure ()

/-- A write of every active lane, lane `i` given by `f`. -/
def laneWrite (act : BitVec 64) (f : Nat → Nat) : VW :=
  { v := BitVec.ofNat 2048 (fields 32 64 fun i => if act.getLsbD i then f i else 0), mask := laneBits act }

/-- An element-wise computing form: lane `i` of the result from lane `i` of the sources (R242, R243). -/
def computeForm (h : XpHdr) (d : Opnd) (srcs : List Opnd) (f : List Nat → Nat) : Exec Next := do
  let (act, vs) ← operands h (some d) srcs
  checkLanes act vs
  putV d (laneWrite act fun i => f (vs.map (VV.lane · i)))
  pure none

/-- A form that moves lanes: `f` gives lane `i` of the result with its poison (R243). -/
def moveWrite (act : BitVec 64) (f : Nat → Nat × Bool) : VW :=
  { laneWrite act (fun i => (f i).1) with bad := BitVec.ofNat 64 (flags 64 fun i => act.getLsbD i && (f i).2) }

def moveForm (h : XpHdr) (d : Opnd) (srcs : List Opnd) (f : List VV → Nat → Nat × Bool) : Exec Next := do
  let (act, vs) ← operands h (some d) srcs
  putV d (moveWrite act (f vs))
  pure none

/-- A form that writes a lane mask: bit `i` is 1 where lane `i` is active and the test holds (R246, R250). -/
def testForm (h : XpHdr) (d : BitVec 3) (srcs : List Opnd) (f : List Nat → Bool) : Exec Next := do
  let (act, vs) ← operands h none srcs
  checkLanes act vs
  writeM d (BitVec.ofNat 64 (flags 64 fun i => act.getLsbD i && f (vs.map (VV.lane · i))))
  pure none

/-- A reduction into an x register (R259): `f` has the active lanes in ascending order, with their numbers. -/
def reduceForm (h : XpHdr) (d : BitVec 4) (a : Opnd) (f : BitVec 64 → (Nat → Nat) → Nat) : Exec Next := do
  let (act, vs) ← operands h none [a]
  checkLanes act vs
  writeX d (f act fun i => (vs.headD {}).lane i)
  pure none

end Sys2Proof.Machine
end

