-- ==== Sys2Proof/Machine/XpInt.lean ====
section
/-! DEFINITION. Integer element forms, compares, selects and dot products of the XP (R245 to R248). -/

namespace Sys2Proof.Machine
open Sys2Proof

/-- Apply `f` to each element of `w` bits of the lanes given (R245). -/
def byElem (w : Nat) (f : List Nat → Nat) (ls : List Nat) : Nat :=
  fields w (32 / w) fun e => f (ls.map fun l => bits l (w * e + w - 1) (w * e))

/-- Functions of one, two and three sources. -/
def on1 (f : Nat → Nat) : List Nat → Nat
  | [a] => f a
  | _ => 0
def on2 (f : Nat → Nat → Nat) : List Nat → Nat
  | [a, b] => f a b
  | _ => 0
def on3 (f : Nat → Nat → Nat → Nat) : List Nat → Nat
  | [a, b, c] => f a b c
  | _ => 0
def test2 (f : Nat → Nat → Bool) : List Nat → Bool
  | [a, b] => f a b
  | _ => false

/-- Functions of elements read as signed values, kept modulo 2^w. -/
def signed2 (w : Nat) (f : Int → Int → Int) (a b : Nat) : Nat := wrap w (f (sgn w a) (sgn w b))
/-- Functions of elements read as natural values, kept modulo 2^w. -/
def natural2 (w : Nat) (f : Int → Int → Int) (a b : Nat) : Nat := wrap w (f a b)

/-- An integer element form with two sources. -/
def intForm2 (h : XpHdr) (d a b : Opnd) (w : Nat) (f : Nat → Nat → Nat) (s : State) : Out :=
  xpWord h (computeForm h d [a, b] (byElem w (on2 f))) s

/-- An integer element form with one source. -/
def intForm1 (h : XpHdr) (d a : Opnd) (w : Nat) (f : Nat → Nat) (s : State) : Out :=
  xpWord h (computeForm h d [a] (byElem w (on1 f))) s

/-- A shift count: natural(b) mod w. -/
def shiftCount (w b : Nat) : Nat := b % w

/-- `VADD` (R245): a + b. -/
def execVadd (h : XpHdr) (d a b : Opnd) (ty : Fmt) (s : State) : Out :=
  intForm2 h d a b ty.bits (fun a b => a + b) s
/-- `VSUB` (R245): a − b. -/
def execVsub (h : XpHdr) (d a b : Opnd) (ty : Fmt) (s : State) : Out :=
  intForm2 h d a b ty.bits (natural2 ty.bits (· - ·)) s
/-- `VMUL` (R245): the low bits of a × b. -/
def execVmul (h : XpHdr) (d a b : Opnd) (ty : Fmt) (s : State) : Out :=
  intForm2 h d a b ty.bits (fun a b => a * b) s
/-- `VMULH` (R245): the high bits of the signed product. -/
def execVmulh (h : XpHdr) (d a b : Opnd) (ty : Fmt) (s : State) : Out :=
  intForm2 h d a b ty.bits (signed2 ty.bits fun a b => a * b / 2 ^ ty.bits) s
/-- `VMULHN` (R245): the high bits of the natural product. -/
def execVmulhn (h : XpHdr) (d a b : Opnd) (ty : Fmt) (s : State) : Out :=
  intForm2 h d a b ty.bits (fun a b => a * b / 2 ^ ty.bits) s
/-- `VADDS` (R245): the signed sum, saturated. -/
def execVadds (h : XpHdr) (d a b : Opnd) (ty : Fmt) (s : State) : Out :=
  intForm2 h d a b ty.bits (signed2 ty.bits fun a b => satS ty.bits (a + b)) s
/-- `VSUBS` (R245): the signed difference, saturated. -/
def execVsubs (h : XpHdr) (d a b : Opnd) (ty : Fmt) (s : State) : Out :=
  intForm2 h d a b ty.bits (signed2 ty.bits fun a b => satS ty.bits (a - b)) s
/-- `VADDSN` (R245): the natural sum, saturated. -/
def execVaddsn (h : XpHdr) (d a b : Opnd) (ty : Fmt) (s : State) : Out :=
  intForm2 h d a b ty.bits (natural2 ty.bits fun a b => satN ty.bits (a + b)) s
/-- `VSUBSN` (R245): the natural difference, saturated. -/
def execVsubsn (h : XpHdr) (d a b : Opnd) (ty : Fmt) (s : State) : Out :=
  intForm2 h d a b ty.bits (natural2 ty.bits fun a b => satN ty.bits (a - b)) s
/-- `VMAD` (R245): a × b + c, exact and then wrapped. -/
def execVmad (h : XpHdr) (d a b c : Opnd) (ty : Fmt) (s : State) : Out :=
  xpWord h (computeForm h d [a, b, c] (byElem ty.bits (on3 fun a b c => a * b + c))) s
/-- `VABS` (R245): the magnitude of the signed value. -/
def execVabs (h : XpHdr) (d a : Opnd) (ty : Fmt) (s : State) : Out :=
  intForm1 h d a ty.bits (fun a => (sgn ty.bits a).natAbs) s
/-- `VAND` (R245): a and b. -/
def execVand (h : XpHdr) (d a b : Opnd) (ty : Fmt) (s : State) : Out :=
  intForm2 h d a b ty.bits (fun a b => a &&& b) s
/-- `VOR` (R245): a or b. -/
def execVor (h : XpHdr) (d a b : Opnd) (ty : Fmt) (s : State) : Out :=
  intForm2 h d a b ty.bits (fun a b => a ||| b) s
/-- `VXOR` (R245): a xor b. -/
def execVxor (h : XpHdr) (d a b : Opnd) (ty : Fmt) (s : State) : Out :=
  intForm2 h d a b ty.bits (fun a b => a ^^^ b) s
/-- `VANDN` (R245): a and not b. -/
def execVandn (h : XpHdr) (d a b : Opnd) (ty : Fmt) (s : State) : Out :=
  intForm2 h d a b ty.bits (fun a b => a &&& (2 ^ ty.bits - 1 - b)) s
/-- `VSHL` (R245): a << (b mod w). -/
def execVshl (h : XpHdr) (d a b : Opnd) (ty : Fmt) (s : State) : Out :=
  intForm2 h d a b ty.bits (fun a b => a * 2 ^ shiftCount ty.bits b) s
/-- `VSHR` (R245): a >> (b mod w), logical. -/
def execVshr (h : XpHdr) (d a b : Opnd) (ty : Fmt) (s : State) : Out :=
  intForm2 h d a b ty.bits (fun a b => a / 2 ^ shiftCount ty.bits b) s
/-- `VSAR` (R245): signed a >> (b mod w). -/
def execVsar (h : XpHdr) (d a b : Opnd) (ty : Fmt) (s : State) : Out :=
  intForm2 h d a b ty.bits (fun a b => wrap ty.bits (sgn ty.bits a / 2 ^ shiftCount ty.bits b)) s
/-- `VCLZ` (R245): leading zero bits, w for zero. -/
def execVclz (h : XpHdr) (d a : Opnd) (ty : Fmt) (s : State) : Out :=
  intForm1 h d a ty.bits (fun a => clzNat ty.bits a) s
/-- `VPOPC` (R245): one bits. -/
def execVpopc (h : XpHdr) (d a : Opnd) (ty : Fmt) (s : State) : Out :=
  intForm1 h d a ty.bits (fun a => popcNat ty.bits a) s
/-- `VMIN` (R245): the signed minimum. -/
def execVmin (h : XpHdr) (d a b : Opnd) (ty : Fmt) (s : State) : Out :=
  intForm2 h d a b ty.bits (signed2 ty.bits min) s
/-- `VMAX` (R245): the signed maximum. -/
def execVmax (h : XpHdr) (d a b : Opnd) (ty : Fmt) (s : State) : Out :=
  intForm2 h d a b ty.bits (signed2 ty.bits max) s
/-- `VMINN` (R245): the natural minimum. -/
def execVminn (h : XpHdr) (d a b : Opnd) (ty : Fmt) (s : State) : Out :=
  intForm2 h d a b ty.bits (fun a b => Nat.min a b) s
/-- `VMAXN` (R245): the natural maximum. -/
def execVmaxn (h : XpHdr) (d a b : Opnd) (ty : Fmt) (s : State) : Out :=
  intForm2 h d a b ty.bits (fun a b => Nat.max a b) s

/-- `VCMP` (R246): lanes as I32. -/
def execVcmp (h : XpHdr) (d : BitVec 3) (a b : Opnd) (cc : Cond) (s : State) : Out :=
  xpWord h (testForm h d [a, b] (test2 fun a b => condHolds cc (sgn 32 a) (sgn 32 b))) s
/-- `VCMPN` (R246): lanes as N32. -/
def execVcmpn (h : XpHdr) (d : BitVec 3) (a b : Opnd) (cc : Cond) (s : State) : Out :=
  xpWord h (testForm h d [a, b] (test2 fun a b => condHolds cc a b)) s

/-- Lane `i` of source `k` with its poison. -/
def srcLane (vs : List VV) (k i : Nat) : Nat × Bool := let x := vs.getD k {}; (x.lane i, x.laneBad i)

/-- `VSEL` (R247): a poisoned selector traps with OPND 3. -/
def execVsel (h : XpHdr) (d a b : Opnd) (c : BitVec 3) (s : State) : Out :=
  xpWord h (do
    let (act, vs) ← operands h (some d) [a, b]
    let k ← needM c 3
    putV d (moveWrite act fun i => srcLane vs (if k.getLsbD i then 0 else 1) i)
    pure none) s

/-- The sum of R248: the lane of c and the four products of bytes, exact. -/
def dot4 (rd : Nat → Nat → Int) (a b c : Nat) : Int :=
  (List.range 4).foldl (fun t j => t + rd 8 (bits a (8 * j + 7) (8 * j)) * rd 8 (bits b (8 * j + 7) (8 * j))) (rd 32 c)

def natRead (_ v : Nat) : Int := v

def dotForm (h : XpHdr) (d a b c : Opnd) (rd : Nat → Nat → Int) (r : Int → Int) (s : State) : Out :=
  xpWord h (computeForm h d [a, b, c] (on3 fun a b c => wrap 32 (r (dot4 rd a b c)))) s

/-- `VDOT4` (R248). -/
def execVdot4 (h : XpHdr) (d a b c : Opnd) (s : State) : Out := dotForm h d a b c sgn id s
/-- `VDOT4N` (R248). -/
def execVdot4n (h : XpHdr) (d a b c : Opnd) (s : State) : Out := dotForm h d a b c natRead id s
/-- `VDOT4S` (R248). -/
def execVdot4s (h : XpHdr) (d a b c : Opnd) (s : State) : Out := dotForm h d a b c sgn (satS 32) s
/-- `VDOT4SN` (R248). -/
def execVdot4sn (h : XpHdr) (d a b c : Opnd) (s : State) : Out := dotForm h d a b c natRead (satN 32) s

end Sys2Proof.Machine
end

