-- ==== Sys2Proof/Machine/XpFloat.lean ====
section
/-! DEFINITION. FP32 forms of the XP (R249 to R253). -/

namespace Sys2Proof.Machine
open Sys2Proof

/-- The value of an FP32 lane. -/
def f32 (a : Nat) : Num := floatVal f32F a
/-- The FP32 code of a value. -/
def toF32 (r : Rnd) (x : Num) : Nat := floatCode f32F r x

/-! ## Arithmetic (Table 10-4) -/

def fadd (r : Rnd) (a b : Nat) : Nat := toF32 r (Num.add (r = .dn) (f32 a) (f32 b))
def fsub (r : Rnd) (a b : Nat) : Nat := toF32 r (Num.add (r = .dn) (f32 a) (f32 b).neg)
def fmul (r : Rnd) (a b : Nat) : Nat := toF32 r ((f32 a).mul (f32 b))
def fma (r : Rnd) (a b c : Nat) : Nat := toF32 r (Num.add (r = .dn) ((f32 a).mul (f32 b)) (f32 c))
def fdiv (r : Rnd) (a b : Nat) : Nat := divCode f32F r (f32 a) (f32 b)
def fsqrt (a : Nat) : Nat := sqrtCode f32F .ne (f32 a)
def fmin (a b : Nat) : Nat := toF32 .ne ((f32 a).min (f32 b))
def fmax (a b : Nat) : Nat := toF32 .ne ((f32 a).max (f32 b))

/-- The exponent insertion of R252; beyond ±600 every n gives what ±600 gives. -/
def fscale (a b : Nat) : Nat :=
  let n := max (-600) (min 600 (sgn 32 b))
  match f32 a with
  | .fin s m e => toF32 .ne (.fin s m (e + n))
  | x => toF32 .ne x

/-- Rounding to an integral value (R253). -/
def frint (r : Rnd) (a : Nat) : Nat :=
  match f32 a with
  | .fin s m e =>
    let (p, q) := powRatio e
    toF32 r (.fin s (roundNat r s (m * p) q) 0)
  | x => toF32 r x

/-! ## The fraction exponential (R251) -/

/-- ln 2 in units of 2^-P, from the series of 1 / (k 2^k). -/
def ln2Fix (p : Nat) : Nat := (List.range p).foldl (fun a k => a + 2 ^ p / ((k + 1) * 2 ^ (k + 1))) 0

/-- The sum of the exponential series at x, in units of 2^-P; `t` is the term of index `n`. -/
def expFix (p : Nat) (x : Int) : Nat → Nat → Int → Int → Int
  | 0, _, _, acc => acc
  | k + 1, n, t, acc =>
    let u := t * x / ((n + 1 : Nat) * (2 ^ p : Nat))
    expFix p x k (n + 1) u (acc + t)

/-- 2^a in units of 2^-P, for a = ±m × 2^e with |a| ≤ 0.5: off by less than 16 P units. -/
def pow2Fix (p : Nat) (s : Bool) (m : Nat) (e : Int) : Int :=
  let (u, v) := powRatio e
  let x : Int := (ln2Fix p * m * u / v : Nat)
  expFix p (if s then -x else x) p 0 (2 ^ p : Nat) 0

/-- RoundNE(2^a): the precision grows until both ends of the interval round alike. -/
def pow2Code (s : Bool) (m : Nat) (e : Int) : Nat → Nat → Nat
  | 0, p => toF32 .ne (.fin false (pow2Fix p s m e).toNat (-(p : Int)))
  | k + 1, p =>
    let v := pow2Fix p s m e
    let lo := toF32 .ne (.fin false (v - 16 * p).toNat (-(p : Int)))
    let hi := toF32 .ne (.fin false (v + 16 * p).toNat (-(p : Int)))
    if lo = hi then lo else pow2Code s m e k (2 * p)

/-- The fraction exponential of an FP32 code. Below 2^-27 the result rounds to 1. -/
def fexp (a : Nat) : Nat :=
  match f32 a with
  | .fin s m e =>
    let (u, v) := powRatio e
    if v < 2 * m * u then f32F.nanCode
    else if m * u * 2 ^ 27 < v then 0x3F800000
    else pow2Code s m e 5 96
  | _ => f32F.nanCode

/-! ## Meanings -/

def fForm2 (h : XpHdr) (d a b : Opnd) (f : Nat → Nat → Nat) (s : State) : Out :=
  xpWord h (computeForm h d [a, b] (on2 f)) s
def fForm1 (h : XpHdr) (d a : Opnd) (f : Nat → Nat) (s : State) : Out :=
  xpWord h (computeForm h d [a] (on1 f)) s
def fForm3 (h : XpHdr) (d a b c : Opnd) (f : Nat → Nat → Nat → Nat) (s : State) : Out :=
  xpWord h (computeForm h d [a, b, c] (on3 f)) s

/-- `VFADD` (R249). -/
def execVfadd (h : XpHdr) (d a b : Opnd) (s : State) : Out := fForm2 h d a b (fadd .ne) s
/-- `VFADDZR` (R249). -/
def execVfaddzr (h : XpHdr) (d a b : Opnd) (s : State) : Out := fForm2 h d a b (fadd .tz) s
/-- `VFADDFL` (R249). -/
def execVfaddfl (h : XpHdr) (d a b : Opnd) (s : State) : Out := fForm2 h d a b (fadd .dn) s
/-- `VFADDCL` (R249). -/
def execVfaddcl (h : XpHdr) (d a b : Opnd) (s : State) : Out := fForm2 h d a b (fadd .up) s
/-- `VFSUB` (R249). -/
def execVfsub (h : XpHdr) (d a b : Opnd) (s : State) : Out := fForm2 h d a b (fsub .ne) s
/-- `VFSUBZR` (R249). -/
def execVfsubzr (h : XpHdr) (d a b : Opnd) (s : State) : Out := fForm2 h d a b (fsub .tz) s
/-- `VFSUBFL` (R249). -/
def execVfsubfl (h : XpHdr) (d a b : Opnd) (s : State) : Out := fForm2 h d a b (fsub .dn) s
/-- `VFSUBCL` (R249). -/
def execVfsubcl (h : XpHdr) (d a b : Opnd) (s : State) : Out := fForm2 h d a b (fsub .up) s
/-- `VFMUL` (R249). -/
def execVfmul (h : XpHdr) (d a b : Opnd) (s : State) : Out := fForm2 h d a b (fmul .ne) s
/-- `VFMULZR` (R249). -/
def execVfmulzr (h : XpHdr) (d a b : Opnd) (s : State) : Out := fForm2 h d a b (fmul .tz) s
/-- `VFMULFL` (R249). -/
def execVfmulfl (h : XpHdr) (d a b : Opnd) (s : State) : Out := fForm2 h d a b (fmul .dn) s
/-- `VFMULCL` (R249). -/
def execVfmulcl (h : XpHdr) (d a b : Opnd) (s : State) : Out := fForm2 h d a b (fmul .up) s
/-- `VFMA` (R249): one rounding. -/
def execVfma (h : XpHdr) (d a b c : Opnd) (s : State) : Out := fForm3 h d a b c (fma .ne) s
/-- `VFMAZR` (R249): one rounding. -/
def execVfmazr (h : XpHdr) (d a b c : Opnd) (s : State) : Out := fForm3 h d a b c (fma .tz) s
/-- `VFMAFL` (R249): one rounding. -/
def execVfmafl (h : XpHdr) (d a b c : Opnd) (s : State) : Out := fForm3 h d a b c (fma .dn) s
/-- `VFMACL` (R249): one rounding. -/
def execVfmacl (h : XpHdr) (d a b c : Opnd) (s : State) : Out := fForm3 h d a b c (fma .up) s
/-- `VFDIV` (R249, R252). -/
def execVfdiv (h : XpHdr) (d a b : Opnd) (s : State) : Out := fForm2 h d a b (fdiv .ne) s
/-- `VFDIVZR` (R249, R252). -/
def execVfdivzr (h : XpHdr) (d a b : Opnd) (s : State) : Out := fForm2 h d a b (fdiv .tz) s
/-- `VFMIN` (R249, R252). -/
def execVfmin (h : XpHdr) (d a b : Opnd) (s : State) : Out := fForm2 h d a b (fmin) s
/-- `VFMAX` (R249, R252). -/
def execVfmax (h : XpHdr) (d a b : Opnd) (s : State) : Out := fForm2 h d a b (fmax) s
/-- `VFSCALE` (R249, R252). -/
def execVfscale (h : XpHdr) (d a b : Opnd) (s : State) : Out := fForm2 h d a b (fscale) s
/-- `VFSQRT` (R249). -/
def execVfsqrt (h : XpHdr) (d a : Opnd) (s : State) : Out := fForm1 h d a fsqrt s
/-- `VFEXP` (R251). -/
def execVfexp (h : XpHdr) (d a : Opnd) (s : State) : Out := fForm1 h d a fexp s
/-- `VFRINT` (R253). -/
def execVfrint (h : XpHdr) (d a : Opnd) (s : State) : Out := fForm1 h d a (frint .ne) s
/-- `VFRINTFL` (R253). -/
def execVfrintfl (h : XpHdr) (d a : Opnd) (s : State) : Out := fForm1 h d a (frint .dn) s

/-- A move of lanes that changes the sign bit only (R249, R243). -/
def signForm (h : XpHdr) (d a : Opnd) (f : Nat → Nat) (s : State) : Out :=
  xpWord h (moveForm h d [a] fun vs i => let x := srcLane vs 0 i; (f x.1, x.2)) s

/-- `VFABS` (R249). -/
def execVfabs (h : XpHdr) (d a : Opnd) (s : State) : Out := signForm h d a (· % 2 ^ 31) s
/-- `VFNEG` (R249). -/
def execVfneg (h : XpHdr) (d a : Opnd) (s : State) : Out := signForm h d a (· ^^^ 2 ^ 31) s

/-- `VFCMP` (R250). -/
def execVfcmp (h : XpHdr) (d : BitVec 3) (a b : Opnd) (cc : Cond) (s : State) : Out :=
  xpWord h (testForm h d [a, b] (test2 fun a b => numHolds cc (f32 a) (f32 b))) s

end Sys2Proof.Machine
end

