-- ==== Sys2Proof/Machine/Matrix.lean ====
section
/-! DEFINITION. The matrix array, the scout array and the Cairn unit: what they hold and compute (R53, R54, 11). -/

namespace Sys2Proof.Machine
open Sys2Proof

/-! ## Shapes (Tables 11-1, 11-2) -/

/-- Columns of the array for a weight format. -/
def arrayCols (f : Fmt) : Nat := if f.bits = 4 then 256 else if f.bits = 8 then 128 else 64
/-- Vectors of an element of a format. -/
def vecsOf (f : Fmt) : Nat := match f with
  | .f4 => 4
  | f => if f.bits = 4 then 8 else if f.bits = 8 then 4 else 2
/-- Elements of a whole bank in an orientation. -/
def fillElems (f : Fmt) (rowMajor : Bool) : Nat := if rowMajor then 32 else arrayCols f / vecsOf f

/-- The activation formats (R275). -/
def isActFmt (f : Fmt) : Bool := decide (1 ≤ f.code) && decide (f.code ≤ 9)

/-- Value `k` of vector `r` of an element (R276). -/
def elemCode (f : Fmt) (v : BitVec 2048) (r k : Nat) : Nat :=
  let i := f.bits * (64 * r + k)
  bits v.toNat (i + f.bits - 1) i
/-- Block scale `b` of vector `r` of an FP4 element. -/
def elemScale (v : BitVec 2048) (r b : Nat) : Nat :=
  let i := 1024 + 96 * r + 12 * b
  bits v.toNat (i + 11) i

/-- The exact value of a code with its block scale (R45). -/
def codeVal (f : Fmt) (c scale : Nat) : Num := match f with
  | .f4 => blockVal scale c
  | f => fmtVal f c

/-- The bits of an element that vector `r` uses, as ranges of low bit and width. -/
def elemRanges (f : Fmt) (r : Nat) : List (Nat × Nat) :=
  (64 * f.bits * r, 64 * f.bits) :: (match f with
    | .f4 => [(1024 + 96 * r, 96)]
    | _ => [])

/-- The first poisoned chunk of a range of bits. -/
def chunkBad (bad : BitVec 32) (r : Nat × Nat) : Option Nat :=
  (List.range 32).find? fun j => bad.getLsbD j && decide (r.1 < 64 * j + 64) && decide (64 * j < r.1 + r.2)

/-- The first poisoned vector of an element, with its first poisoned chunk (R299). -/
def elemBad (f : Fmt) (bad : BitVec 32) : Option (Nat × Nat) :=
  firstSome (fun r => (firstSome (chunkBad bad) (elemRanges f r)).map fun j => (r, j)) (List.range (vecsOf f))

/-! ## Banks (R277, R278, R280) -/

def Mx.bank (m : Mx) (b : Bool) : Bank := if b then m.bankB else m.bankA
def Mx.setBank (m : Mx) (b : Bool) (k : Bank) : Mx := if b then { m with bankB := k } else { m with bankA := k }

/-- The code of a cell. -/
def Bank.cell (b : Bank) (f : Fmt) (k c : Nat) : Nat :=
  bits (b.rows.get 0 k).toNat (f.bits * c + f.bits - 1) (f.bits * c)
def Bank.scale (b : Bank) (c n : Nat) : Nat := bits (b.scales.get 0 c).toNat (12 * n + 11) (12 * n)
/-- Whether a cell, or for FP4 its block scale, is poisoned. -/
def Bank.cellBad (b : Bank) (f : Fmt) (k c : Nat) : Bool :=
  bits (b.bad.get 0 k).toNat ((f.bits / 4) * c + f.bits / 4 - 1) ((f.bits / 4) * c) != 0
    || (match f with
        | .f4 => (b.scaleBad.get 0 c).getLsbD (k / 8)
        | _ => false)

/-- The block scales of a bank, numbered through its columns, that touch 8-byte word `j` of them. -/
def scalesIn (j : Nat) : List Nat := (List.range 7).filterMap fun i =>
  let n := 64 * j / 12 + i
  if 12 * n < 64 * j + 64 ∧ n < 2048 then some n else none

/-- Whether 8-byte word `j` of the block scales holds a poisoned one. -/
def Bank.scaleWordBad (b : Bank) (j : Nat) : Bool := (scalesIn j).any fun n => (b.scaleBad.get 0 (n / 8)).getLsbD (n % 8)

/-- Replace `n` bits from bit `i` of a number. -/
def spliceBits (v i n x : Nat) : Nat := setBits v (i + n - 1) i x

/-- Write one cell with its poison. -/
def Bank.setCell (b : Bank) (f : Fmt) (k c code : Nat) (bad : Bool) : Bank :=
  let w := f.bits
  { b with
    rows := b.rows.set 0 k (BitVec.ofNat 1024 (spliceBits (b.rows.get 0 k).toNat (w * c) w code))
    bad := b.bad.set 0 k (BitVec.ofNat 256 (spliceBits (b.bad.get 0 k).toNat (w / 4 * c) (w / 4)
      (if bad then 2 ^ (w / 4) - 1 else 0))) }

/-- Write the eight block scales of a column. -/
def Bank.setScales (b : Bank) (c : Nat) (v bad : Nat) : Bank :=
  { b with scales := b.scales.set 0 c (BitVec.ofNat 96 v), scaleBad := b.scaleBad.set 0 c (BitVec.ofNat 8 bad) }

/-- Whether a chunk of a range of bits is poisoned. -/
def rangeBad (bad : BitVec 32) (i n : Nat) : Bool := (chunkBad bad (i, n)).isSome

/-- Write vector `r` of an element as column `c` (R278). -/
def Bank.loadColumn (b : Bank) (f : Fmt) (c r : Nat) (v : BitVec 2048) (bad : BitVec 32) : Bank :=
  let b := (List.range 64).foldl (fun b k =>
    b.setCell f k c (elemCode f v r k) (rangeBad bad (f.bits * (64 * r + k)) f.bits)) b
  match f with
  | .f4 => b.setScales c (fields 12 8 (elemScale v r)) (flags 8 fun n => rangeBad bad (1024 + 96 * r + 12 * n) 12)
  | _ => b

/-- Write a weight element into a bank (R278). -/
def Bank.load (b : Bank) (f : Fmt) (rowMajor : Bool) (e : Nat) (v : BitVec 2048) (bad : BitVec 32) : Bank :=
  if rowMajor then
    (List.range 2).foldl (fun b h => (List.range (arrayCols f)).foldl (fun b c =>
      let i := 1024 * h + f.bits * c
      b.setCell f (2 * e + h) c (bits v.toNat (i + f.bits - 1) i) (rangeBad bad i f.bits)) b) b
  else
    (List.range (vecsOf f)).foldl (fun b r => b.loadColumn f (vecsOf f * e + r) r v bad) b

/-- The code for 1 of a weight format (R280). -/
def oneCode (f : Fmt) : Nat := fmtCode f .ne (.fin false 1 0)

/-- A bank filled with a constant matrix whose cells `ones` hold 1 (R280). -/
def Bank.fill (b : Bank) (f : Fmt) (ones : List (Nat × Nat)) : Bank :=
  let b : Bank := { b with rows := [], bad := [], scales := [], scaleBad := [] }
  let b := ones.foldl (fun b p => b.setCell f p.1 p.2 (oneCode f) false) b
  match f with
  | .f4 => (List.range 256).foldl (fun b c => b.setScales c (fields 12 8 fun _ => 0x780) 0) b
  | _ => b

/-! ## Passes (R53, R54) -/

def isInt (f : Fmt) : Bool := (floatFmt f).isNone

/-- The exact sum of the products of one activation row and one column. -/
def passSum (af wf : Fmt) (v : BitVec 2048) (r : Nat) (b : Bank) (c : Nat) : Num :=
  (List.range 64).foldl (fun t k =>
    t.add false ((codeVal af (elemCode af v r k) (elemScale v r (k / 8))).mul
      (codeVal wf (b.cell wf k c) (b.scale c (k / 8))))) (.fin false 0 0)

/-- FloatPass (R53), on the codes of the accumulator. -/
def floatPass (sum : Num) (band : BitVec 16) (sc : BitVec 32) (old : Nat) : Nat :=
  let p := toF32 .ne (sum.mul ((floatVal bf16F band.toNat).mul (f32 sc.toNat)))
  fadd .ne old (if p = 2 ^ 31 then 0 else p)

/-- The integer value of an exact sum of integer products. -/
def numInt : Num → Int
  | .fin s m e => signedMag s (m * 2 ^ e.toNat)
  | _ => 0

/-- The integer pass (R54). -/
def intPass (sum : Num) (old : Nat) : Nat := wrap 32 ((old : Int) + numInt sum)

def Mx.accAt (m : Mx) (r c : Nat) : Nat := (m.acc.get 0 (256 * r + c)).toNat
def Mx.accBadAt (m : Mx) (r c : Nat) : Bool := m.accBad.get false (128 * r + c / 2)
def Mx.setAcc (m : Mx) (r c v : Nat) : Mx := { m with acc := m.acc.set 0 (256 * r + c) (BitVec.ofNat 32 v) }
def Mx.setAccBad (m : Mx) (r c : Nat) (b : Bool) : Mx := { m with accBad := m.accBad.set false (128 * r + c / 2) b }

/-- The first poisoned cell of a column, as its K-row. -/
def Bank.badRow (b : Bank) (f : Fmt) (c : Nat) : Option Nat := (List.range 64).find? fun k => b.cellBad f k c

/-- What a multiplication does to one column of one row (R298, R300): the two columns of a chunk share its poison. -/
def Mx.passAt (m : Mx) (b : Bank) (other : Bool) (af wf : Fmt) (band : BitVec 16) (sc : BitVec 32) (row r c : Nat)
    (ovw : Bool) (v : BitVec 2048) (op : BitVec 128) (pc : Nat) : Mx :=
  let old := if ovw then 0 else m.accAt row c
  let sum := passSum af wf v r b c
  let new := if isInt af && isInt wf then intPass sum old else floatPass sum band sc old
  let hit := b.badRow wf c
  let keep := (!ovw || c % 2 == 1) && m.accBadAt row c
  let m := (m.setAcc row c new).setAccBad row c (keep || hit.isSome)
  match hit with
  | some k => { m with pend := some (m.pend.getD { op := op, pc := pc, other := other, krow := k, col := c }) }
  | none => m

/-- The columns of the groups that issue. -/
def keptCols (wf : Fmt) (keep : List Bool) : List Nat :=
  (List.range (arrayCols wf)).filter fun c => keep.getD (c / 64) false

/-! ## Array operations (R282) -/

/-- The clear of a readout (R301). -/
def Mx.clearRead (m : Mx) (row cg : Nat) (clr : Bool) : Mx :=
  if clr then (List.range 64).foldl (fun m i => (m.setAcc row (64 * cg + i) 0).setAccBad row (64 * cg + i) false) m else m

/-- What an array operation does to its context's matrix state. Readouts are the queue's (`State.runArray`). -/
def Mx.arrayStep (m : Mx) : ArrOp → Mx
  | .load _ b f rm e v bad => m.setBank b ((m.bank b).load f rm e v bad)
  | .fill _ b f ones => m.setBank b ((m.bank b).fill f ones)
  | .swap _ => m
  | .mul _ b other af wf _ band sc base ovw keep v op pc =>
    (List.range (vecsOf af)).foldl (fun m r =>
      (keptCols wf keep).foldl (fun m c => m.passAt (m.bank b) other af wf band sc (base + r) r c ovw v op pc) m) m
  | .read _ row cg clr _ => m.clearRead row cg clr
  | .readSp _ row cg clr _ => m.clearRead row cg clr
  | .clear _ row n => (List.range n).foldl (fun m i => (List.range 256).foldl (fun m c =>
      (m.setAcc (row + i) c 0).setAccBad (row + i) c false) m) m

/-- The 64 words that a readout reads, with their poison (R301). -/
def Mx.readout (m : Mx) (row cg : Nat) : VV :=
  { v := BitVec.ofNat 2048 (fields 32 64 fun i => m.accAt row (64 * cg + i))
    bad := BitVec.ofNat 32 (flags 32 fun j => m.accBadAt row (64 * cg + 2 * j)) }

def arrCtx : ArrOp → Nat
  | .load x _ _ _ _ _ _ => x
  | .fill x _ _ _ => x
  | .swap x => x
  | .mul x _ _ _ _ _ _ _ _ _ _ _ _ _ => x
  | .read x _ _ _ _ => x
  | .readSp x _ _ _ _ => x
  | .clear x _ _ => x

def scoutCtx : ScoutOp → Nat
  | .query x _ _ _ => x
  | .key x _ _ _ => x
  | .score x _ _ _ _ _ _ _ _ _ => x

/-- Give the data of a readout to its accesses (R301): the `i`-th covers the bytes that its address says. -/
def fillReqs (v : VV) (first n base : Nat) (q : Req) : Req :=
  if first ≤ q.id ∧ q.id < first + n then
    let o := 8 * (q.pa - base)
    { q with ready := true, data := BitVec.ofNat 64 (bits v.v.toNat (o + 8 * q.n - 1) o),
             dbad := v.bad.getLsbD (o / 64) || v.bad.getLsbD ((o + 8 * q.n - 1) / 64) }
  else q

/-- The accesses of a readout to scratchpad at a 4-aligned offset: their number. -/
def readSpCount (o : Nat) : Nat := if o % 8 = 0 then 32 else 33

/-- The array runs the operation at the head of its queue (R282). -/
def State.runArray (s : State) (k : Nat) : State :=
  match (s.core k).arrayQ with
  | [] => s
  | op :: q =>
    let x := arrCtx op
    let m := (s.ctx k x).mx
    let s := s.modCore k fun c => { c with arrayQ := q }
    let s := s.modCtx k x fun c => { c with mx := m.arrayStep op }
    match op with
    | .read _ row cg _ dst =>
      let r := m.readout row cg
      let (id, s) := s.newId
      { s with delivs := s.delivs ++ [(id, .vec k x dst r.v r.bad)] }
    | .readSp _ row cg _ first =>
      match s.reqs.find? fun r => r.id == first with
      | some r0 => { s with reqs := s.reqs.map (fillReqs (m.readout row cg) first (readSpCount r0.pa) r0.pa) }
      | none => s
    | _ => s

/-! ## The scout (R287, R288) -/

/-- The exact value of dimension `d` of vector `n` of a bank of elements: 64 dimensions in a segment. -/
def scoutVal (b : SMap EBuf) (n d : Nat) : Num :=
  let e : EBuf := b.get {} (16 * (d / 64) + n / 4)
  codeVal .f4 (elemCode .f4 e.v (n % 4) (d % 64)) (elemScale e.v (n % 4) (d % 64 / 8))

/-- Whether a vector of a bank is poisoned in its first segments. -/
def scoutBad (b : SMap EBuf) (n segs : Nat) : Bool :=
  (List.range segs).any fun g => (firstSome (chunkBad (b.get {} (16 * g + n / 4)).bad) (elemRanges .f4 (n % 4))).isSome

/-- The score of one query and one key, exact; a zero is +0 (R58). -/
def score (q b : SMap EBuf) (i j segs : Nat) : Num :=
  let t := (List.range (64 * segs)).foldl (fun t d => t.add false ((scoutVal q i d).mul (scoutVal b j d))) (.fin false 0 0)
  if t.isZero then .fin false 0 0 else t

/-- M of a tile (R288), with its poison. -/
def tileMax (q b : SMap EBuf) (nq nk segs : Nat) : Nat × Bool :=
  let ss := (List.range nq).flatMap fun i => (List.range nk).map fun j => score q b i j segs
  let m := ss.foldl (fun m x => if m.isNan || x.isNan then .nan else if m.lt x then x else m) (.inf true)
  (toF32 .ne m, (List.range nq).any (scoutBad q · segs) || (List.range nk).any (scoutBad b · segs))

/-- Write M into its lane of the register named, with its poison; the register can be read again (R303). -/
def VReg.putScore (r : VReg) (lane m : Nat) (bad : Bool) : VReg :=
  let w : VW := moveWrite (BitVec.ofNat 64 (2 ^ lane)) fun _ => (m, bad)
  let n := w.merge { v := r.v, bad := r.bad }
  { r with v := n.v, bad := n.bad, busy := false }

def Ctx.modVReg (c : Ctx) (l : Level) (i : Nat) (f : VReg → VReg) : Ctx :=
  match l with
  | .main => { c with v := c.v.put i (f (c.v.get {} i)) }
  | .file => { c with o := c.o.put i (f (c.o.get {} i)) }
  | .latch => { c with lt := c.lt.put i (f (c.lt.get {} i)) }
  | .port => c

/-- The scout runs the operation at the head of its queue. -/
def State.runScout (s : State) (k : Nat) : State :=
  match (s.core k).scoutQ with
  | [] => s
  | op :: q =>
    (s.modCore k fun c => { c with scoutQ := q }).modCtx k (scoutCtx op) fun c =>
      match op with
      | .query _ e v bad => { c with mx := { c.mx with qry := c.mx.qry.set {} e ⟨v, bad⟩ } }
      | .key _ e v bad => { c with mx := { c.mx with key := c.mx.key.set {} e ⟨v, bad⟩ } }
      | .score _ e nq nk segs lane lvl i v bad =>
        let key := c.mx.key.set {} e ⟨v, bad⟩
        let m := tileMax c.mx.qry key nq nk segs
        ({ c with mx := { c.mx with key := key } } : Ctx).modVReg lvl i fun r => r.putScore lane m.1 m.2

/-! ## The Cairn rule (R289) -/

/-- The tile mask, from the running maximum on, lane by lane. -/
def cairnFrom (v : BitVec 2048) (theta : Num) (act keep : BitVec 64) : List Nat → Num → Nat
  | [], _ => 0
  | j :: js, rmax =>
    if act.getLsbD j then
      let m := f32 (laneOf v j)
      let rmax := if m.isNan then rmax else rmax.max m
      let t := m.add false theta
      let g := m.isNan || t.isNan || !t.lt rmax || keep.getLsbD j
      (if g then 2 ^ j else 0) + cairnFrom v theta act keep js rmax
    else cairnFrom v theta act keep js rmax

def cairnMask (v : BitVec 2048) (theta : Nat) (act keep : BitVec 64) : Nat :=
  cairnFrom v (f32 theta) act keep (List.range 64) (.inf true)

/-! ## Delivery (R171, R272) -/

/-- Whether a value on its way can be delivered: a load once its accesses have performed. -/
def State.canDeliver (s : State) : Deliv → Bool
  | .load k x i => !(s.reqs.any fun q => decide (q.tid = ⟨k, x, .xp⟩) && match q.dst with
      | .vec j _ _ _ => j == i
      | _ => false)
  | _ => true

def delivAt : Deliv → Nat × Nat
  | .load k x _ => (k, x)
  | .vec k x _ _ _ => (k, x)
  | .mask k x _ _ _ => (k, x)

/-- A long-latency value reaches its register, which becomes full. -/
def State.deliver (s : State) (d : Deliv) : State :=
  match d with
  | .load k x i => s.modCtx k x fun c => { c with v := c.v.put i { c.v.get {} i with full := true } }
  | .vec k x i v bad => s.modCtx k x fun c => { c with v := c.v.put i { c.v.get {} i with v := v, bad := bad, full := true } }
  | .mask k x i v bad => s.modCtx k x fun c => { c with g := c.g.put i { v := v, bad := bad, full := true } }

end Sys2Proof.Machine
end

