-- ==== Sys2Proof/Machine/ApMem.lean ====
section
/-! DEFINITION. Loads, stores, atomics and fences of the AP (R212 to R222, R464): a word that issues puts its access in
flight; inside an elided region it acts on the region at once (R223 to R225). -/

namespace Sys2Proof.Machine
open Sys2Proof

/-! ## Extension and read-modify-write -/

/-- Extend the bytes loaded, as Table 09-5 says. -/
def extend (ty : AccTy) (v : Nat) : BitVec 64 :=
  match ty with
  | .q8 => BitVec.ofNat 64 v
  | .i8 => BitVec.ofInt 64 (sgn 8 v)
  | .n8 => BitVec.ofNat 64 (v % 2 ^ 8)
  | .i16 => BitVec.ofInt 64 (sgn 16 v)
  | .n16 => BitVec.ofNat 64 (v % 2 ^ 16)
  | .i32 => BitVec.ofInt 64 (sgn 32 v)
  | .n32 => BitVec.ofNat 64 (v % 2 ^ 32)

/-- What an access writes, if it writes: the new value of `n` bytes that hold `v` (R218 to R220). -/
def rmw (op : ReqOp) (n : Nat) (v b : Nat) : Option Nat :=
  let w := 8 * n
  let b := b % 2 ^ w
  match op with
  | .read => none
  | .write => some b
  | .swap => some b
  | .cas c => if v = c.toNat % 2 ^ w then some b else none
  | .add => some ((v + b) % 2 ^ w)
  | .and => some (v &&& b)
  | .or => some (v ||| b)
  | .xor => some (v ^^^ b)
  | .min => some (if sgn w b < sgn w v then b else v)
  | .max => some (if sgn w v < sgn w b then b else v)
  | .minn => some (if b < v then b else v)
  | .maxn => some (if v < b then b else v)
  | .minp => if b < v then some b else none

/-- Whether a form's new value depends on the old one (R464). -/
def opUsesOld : ReqOp → Bool
  | .add | .and | .or | .xor | .min | .max | .minn | .maxn => true
  | .read | .write | .swap | .cas _ | .minp => false

/-- Whether a form compares with the old value before it writes (R464). -/
def opCompares : ReqOp → Bool
  | .cas _ | .minp => true
  | .read | .write | .swap | .add | .and | .or | .xor | .min | .max | .minn | .maxn => false

/-- The access kind that the second window check takes for a request (R69). -/
def opAccess : ReqOp → AccessKind
  | .read => .read
  | .write => .write
  | _ => .atomic

/-! ## Addresses -/

/-- The effective address (R199): poison in the address register traps (R202). -/
def effAddr (ra : BitVec 5) (off : BitVec 32) : Exec (Nat × Bool) := do
  let a ← needA ra 4
  pure ((a.v + off.signExtend 64).toNat, a.taint)

/-- The trap of a fault descriptor (Table 16-1). -/
def faultTrap (va : Nat) (f : BitVec 256) : TrapInfo :=
  { code := if bits f.toNat 67 64 = 1 then 6 else 7, opnd := 4, addr := va, fault := f }

/-- Translate an aligned access of the current AP word (R212, R213), and check that its home can be reached (R426). -/
def translateA (va n : Nat) (acc : AccessKind) : Exec Part := do
  let s ← get
  let t := s.cur.tid
  let r := s.rq t.core t.ctx 0
  match s.xlat r va n n acc with
  | (.error f, _) =>
    match s.walkFault r va acc with
    | some w => if w.refused then stop (.trapWith (fun s => s.refuseWalk r w) (faultTrap va f)) else trap (faultTrap va f)
    | none => trap (faultTrap va f)
  | (.ok p, s') => do
    match s'.linkCut t.core p.pa with
    | some d => trap { code := 12, detail := d, opnd := 4, addr := va }
    | none => set s'; pure p

/-- Where an access goes: its translated part. A local offset is RC (R82); it shall lie in the scratchpad (R81, R214). -/
def localPart (o n : Nat) : Exec Part := do
  let s ← get
  if o % n ≠ 0 ∨ 0x200000 < o + n then badAddress o
  else pure { pa := spad s.cur.tid.core o, ord := .rc, mt := 3 }

def place (loc : Bool) (va n : Nat) (acc : AccessKind) : Exec Part :=
  if loc then localPart va n
  else if va % n ≠ 0 then badAddress va
  else translateA va n acc

/-! ## Elided regions (R224) -/

/-- Track a line (R224): the region with the line, as a 33rd line aborts it. -/
def track (e : Elide) (l : Nat) : Elide := if e.lines.contains l then e else { e with lines := l :: e.lines }

/-- Abort the region as it stands in the state reached (R225). -/
def abortNow {α : Type} (cause : Nat) : Exec α := fun s => .error (.ended (s.abortMine 0 cause))

/-- A byte as the region sees it. -/
def Elide.byte (e : Elide) (s : State) (pa : Nat) : Byte := if e.writes.has pa then e.writes.get 0 pa else s.byte pa
def Elide.bytesAt (e : Elide) (s : State) (pa : Nat) : Nat → List Byte
  | 0 => []
  | n + 1 => e.byte s pa :: e.bytesAt s (pa + 1) n
def Elide.badAt (e : Elide) (s : State) (w : Nat) : Bool := if e.wbad.has w then e.wbad.get false w else s.badWord w
def Elide.put (e : Elide) (pa : Nat) : List Byte → Elide
  | [] => e
  | b :: bs => Elide.put { e with writes := e.writes.put pa b } (pa + 1) bs

/-- The value an access finds, whether it is poisoned, what it then writes and with what poison, and whether its predicate
is true (R218 to R220, R464). -/
structure Acted where
  old : Nat
  bad : Bool
  new : Option (Nat × Bool)
  wrote : Bool

def act (op : ReqOp) (n v : Nat) (vbad : Bool) (b : Nat) (bbad : Bool) : Acted :=
  if vbad && opCompares op then { old := v, bad := true, new := none, wrote := false } else
  match rmw op n v b with
  | some r => { old := v, bad := vbad, new := some (r, bbad || (vbad && opUsesOld op)), wrote := true }
  | none => { old := v, bad := vbad, new := none, wrote := false }

/-- Set what an access returns: RD extended, and PD where the form has one. -/
def returnA (ty : AccTy) (rd : BitVec 5) (pd : BitVec 3) (taint : Bool) (r : Acted) (op : ReqOp) (c : Ctx) : Ctx :=
  let c := if op = .write then c else c.setA rd { v := extend ty r.old, bad := r.bad, taint := taint }
  if opCompares op then c.setP pd { v := r.wrote, bad := r.bad } else c

/-- An access inside an elided region (R224). A read or an atomic that the windows refuse at the port has no effect but poisoned data
(R66); `loc` marks a local offset, which no window governs (R82). An atomic aborts the regions of other threads that track its line, though it write
nothing (R224). -/
def elidedAccess (e : Elide) (p : Part) (op : ReqOp) (n : Nat) (ty : AccTy) (rd : BitVec 5) (pd : BitVec 3) (b : AReg)
    (taint loc : Bool) : Exec Next := do
  let s ← get
  let t := s.cur.tid
  if p.ord ≠ .rc ∨ ¬ (inDram p.pa ∨ inSpad p.pa) then abortNow 7
  else if s.mustWait t p.pa n then hold
  else do
    let e := track e (p.pa / 64)
    if 32 < e.lines.length then do
      set (s.modMe fun c => { c with elide := some e })
      abortNow 3
    else if op ≠ .write ∧ ¬ loc ∧ s.windowOk (s.ctxTenant t.core t.ctx) p.pa (p.pa + n - 1) (opAccess op) = false then do
      let (bs, s) := (s.refuseAt (s.srcOf t) p.pa).openBytes n
      let r : Acted := { old := leNat bs, bad := true, new := none, wrote := false }
      set (s.modMe fun c => returnA ty rd pd taint r op { c with elide := some e })
      pure none
    else
      let v := leNat (e.bytesAt s p.pa n)
      let r := act op n v (e.badAt s (p.pa / 8)) b.v.toNat b.bad
      let e := match r.new with
        | some (x, xb) =>
          let e := e.put p.pa (leBytes n x)
          { e with
            wbad := e.wbad.put (p.pa / 8) (xb || (n != 8 && e.badAt s (p.pa / 8)))
            locs := if loc && !e.locs.contains (p.pa / 8) then p.pa / 8 :: e.locs else e.locs }
        | none => e
      set ((s.touch (some t) p.pa n (op != .read && op != .write)).modMe fun c => returnA ty rd pd taint r op { c with elide := some e })
      pure none

/-! ## Issuing an access -/

/-- The options of an access: acquire, LDC, local offset. -/
structure AccOpts where
  acq : Bool := false
  ldc : Bool := false
  loc : Bool := false

/-- Put an access in flight (R213, R353), or act on the elided region. -/
def issueAccess (op : ReqOp) (acc : AccessKind) (ty : AccTy) (n : Nat) (rd ra : BitVec 5) (pd : BitVec 3)
    (off : BitVec 32) (b : AReg) (o : AccOpts) : Exec Next := do
  let (va, tnt) ← effAddr ra off
  let s ← get
  if (op ≠ .write ∧ s.busyA rd) ∨ (opCompares op ∧ s.busyP pd) then hold
  else do
    let p ← place o.loc va n acc
    let s ← get
    match s.me.elide with
    | some e => do
      if !o.loc && decide (p.ord = .rc) && (inDram p.pa || inSpad p.pa) then
        let _ ← translateA va n .atomic
      elidedAccess e p op n ty rd pd b (tnt || o.ldc) o.loc
    | none =>
      let t := s.cur.tid
      let dst : ReqDst := if op = .write then .none else .areg rd ty (tnt || o.ldc) pd
      set (s.putReq { id := s.nextId, tid := t, op := op, pa := p.pa, n := n, ord := p.ord, mt := p.mt,
                      ten := s.ctxTenant t.core t.ctx, sys := t.ctx == 4, loc := o.loc, data := b.v, dbad := b.bad,
                      dst := dst, acq := o.acq, ldc := o.ldc, tainted := tnt })
      pure none

/-- A load (R213). -/
def loadBody (rd ra : BitVec 5) (off : BitVec 32) (ty : AccTy) (o : AccOpts) : Exec Next :=
  issueAccess .read .read ty ty.bytes rd ra 0 off {} o

/-- A store (R213): poisoned data are stored poisoned (R202). -/
def storeBody (ra rb : BitVec 5) (off : BitVec 32) (ty : AccTy) (o : AccOpts) : Exec Next := do
  let b ← readA rb
  issueAccess .write .write ty ty.bytes 0 ra 0 off b o

/-- A read-modify-write form that computes with RB (R218, R464). -/
def atomicBody (op : ReqOp) (rd ra rb : BitVec 5) (off : BitVec 32) (ty : AccTy) (pd : BitVec 3) : Exec Next := do
  let b ← needA rb 2
  issueAccess op .atomic ty ty.bytes rd ra pd off b {}

/-- Wait at issue until the accesses before a release have performed at a scope (R216, R222, R362). -/
def awaitRelease (sc : Scope) (all : Bool := false) : Exec Unit := do
  let s ← get
  if (s.before s.cur.tid sc all).isEmpty then pure () else hold

/-- Wait at issue until the thread's SO and RC loads, and the read parts of its atomics, have performed (R222). -/
def awaitLoads : Exec Unit := do
  let s ← get
  if (s.reqs.any fun q => decide (q.tid = s.cur.tid) && !q.done && decide (q.op ≠ .write) && decide (q.ord ≠ .un)) then hold
  else pure ()

/-! ## Meanings -/

/-- `LD` (R213). -/
def execLd (h : ApHdr) (rd ra : BitVec 5) (off : BitVec 32) (ty : AccTy) (s : State) : Out :=
  apWord h false (loadBody rd ra off ty {}) s
/-- `ST` (R213). -/
def execSt (h : ApHdr) (ra rb : BitVec 5) (off : BitVec 32) (ty : AccTy) (s : State) : Out :=
  apWord h false (storeBody ra rb off ty {}) s
/-- `LDC` (R215). -/
def execLdc (h : ApHdr) (rd ra : BitVec 5) (off : BitVec 32) (ty : AccTy) (s : State) : Out :=
  apWord h false (loadBody rd ra off ty { ldc := true }) s
/-- `LDACQ` (R216). It acquires alike at every scope (log entry 100). -/
def execLdacq (h : ApHdr) (rd ra : BitVec 5) (off : BitVec 32) (ty : AccTy) (_sc : Scope) (s : State) : Out :=
  apWord h true (loadBody rd ra off ty { acq := true }) s
/-- `STREL` (R216). -/
def execStrel (h : ApHdr) (ra rb : BitVec 5) (off : BitVec 32) (ty : AccTy) (sc : Scope) (s : State) : Out :=
  apWord h true (do awaitRelease sc; storeBody ra rb off ty {}) s
/-- `LDS` (R214). -/
def execLds (h : ApHdr) (rd ra : BitVec 5) (off : BitVec 32) (ty : AccTy) (s : State) : Out :=
  apWord h false (loadBody rd ra off ty { loc := true }) s
/-- `STS` (R214). -/
def execSts (h : ApHdr) (ra rb : BitVec 5) (off : BitVec 32) (ty : AccTy) (s : State) : Out :=
  apWord h false (storeBody ra rb off ty { loc := true }) s

/-- `ASWAP` (R218): RB moves, with its poison (R464). -/
def execAswap (h : ApHdr) (rd ra rb : BitVec 5) (off : BitVec 32) (ty : AccTy) (s : State) : Out :=
  apWord h false (do
    let b ← readA rb
    issueAccess .swap .atomic ty ty.bytes rd ra 0 off b {}) s
/-- `ACAS` (R219). -/
def execAcas (h : ApHdr) (rd ra rb : BitVec 5) (off : BitVec 32) (ty : AccTy) (pd : BitVec 3) (s : State) : Out :=
  apWord h false (do
    let c ← needA rd 0
    atomicBody (.cas c.v) rd ra rb off ty pd) s
/-- `AADD` (R218). -/
def execAadd (h : ApHdr) (rd ra rb : BitVec 5) (off : BitVec 32) (ty : AccTy) (s : State) : Out :=
  apWord h false (atomicBody .add rd ra rb off ty 0) s
/-- `AAND` (R218). -/
def execAand (h : ApHdr) (rd ra rb : BitVec 5) (off : BitVec 32) (ty : AccTy) (s : State) : Out :=
  apWord h false (atomicBody .and rd ra rb off ty 0) s
/-- `AOR` (R218). -/
def execAor (h : ApHdr) (rd ra rb : BitVec 5) (off : BitVec 32) (ty : AccTy) (s : State) : Out :=
  apWord h false (atomicBody .or rd ra rb off ty 0) s
/-- `AXOR` (R218). -/
def execAxor (h : ApHdr) (rd ra rb : BitVec 5) (off : BitVec 32) (ty : AccTy) (s : State) : Out :=
  apWord h false (atomicBody .xor rd ra rb off ty 0) s
/-- `AMIN` (R218). -/
def execAmin (h : ApHdr) (rd ra rb : BitVec 5) (off : BitVec 32) (ty : AccTy) (s : State) : Out :=
  apWord h false (atomicBody .min rd ra rb off ty 0) s
/-- `AMAX` (R218). -/
def execAmax (h : ApHdr) (rd ra rb : BitVec 5) (off : BitVec 32) (ty : AccTy) (s : State) : Out :=
  apWord h false (atomicBody .max rd ra rb off ty 0) s
/-- `AMINN` (R218). -/
def execAminn (h : ApHdr) (rd ra rb : BitVec 5) (off : BitVec 32) (ty : AccTy) (s : State) : Out :=
  apWord h false (atomicBody .minn rd ra rb off ty 0) s
/-- `AMAXN` (R218). -/
def execAmaxn (h : ApHdr) (rd ra rb : BitVec 5) (off : BitVec 32) (ty : AccTy) (s : State) : Out :=
  apWord h false (atomicBody .maxn rd ra rb off ty 0) s
/-- `AMINP` (R220). -/
def execAminp (h : ApHdr) (rd ra rb : BitVec 5) (off : BitVec 32) (pd : BitVec 3) (s : State) : Out :=
  apWord h false (atomicBody .minp rd ra rb off .q8 pd) s

/-- `FENCE.ACQ` (R222). It waits alike at every scope (log entry 100). -/
def execFenceAcq (h : ApHdr) (_sc : Scope) (s : State) : Out := apWord h true (do awaitLoads; pure none) s
/-- `FENCE.REL` (R222). -/
def execFenceRel (h : ApHdr) (sc : Scope) (s : State) : Out := apWord h true (do awaitRelease sc; pure none) s
/-- `FENCE.SC` (R222, R363). -/
def execFenceSc (h : ApHdr) (sc : Scope) (s : State) : Out := apWord h true (do awaitRelease sc true; pure none) s

/-- `IFENCE` (R189): in this model the writes of an observed copy are in IMEM and templates already (log entry 13). -/
def execIfence (h : ApHdr) (s : State) : Out := apWord h true (pure none) s

/-! ## Lock elision -/

/-- The body of SLB (R223). A lock word that the windows refuse at the port is read as poisoned (R66). A fallback that is not a multiple of 4 is taken
unchecked, which is the model's choice (log entry 131). -/
def slbBody (rd ra : BitVec 5) (off fboff : BitVec 32) : Exec Next := do
  let s ← get
  if s.me.elide.isSome then stop (.abort 0 9)
  else if s.reqs.any fun q => decide (q.tid = s.cur.tid) && decide (q.dst ≠ .none) then hold
  else do
    let (va, _) ← effAddr ra off
    if va % 8 ≠ 0 then badAddress va
    else do
      let p ← translateA va 8 .read
      let s ← get
      let t := s.cur.tid
      let fb := fallbackOf s.cur.pc fboff
      let gone := fun (cause : Nat) => do
        writeA rd { v := BitVec.ofNat 64 cause, taint := false }
        pure (some fb)
      if p.ord ≠ .rc ∨ ¬ (inDram p.pa ∨ inSpad p.pa) then gone 7
      else do
        let _ ← translateA va 8 .atomic
        let s ← get
        if s.mustWait t p.pa 8 then hold
        else if !s.windowOk (s.ctxTenant t.core t.ctx) p.pa (p.pa + 7) .read then
          stop (.trapWith (fun s => s.refuseAt (s.srcOf t) p.pa) { code := 8, opnd := 4 })
        else if s.badIn p.pa 8 then poisonTrap 4
        else
          let s := s.look (some t) p.pa 8
          set s
          if s.nat p.pa 8 ≠ 0 then gone 6
          else do
            let c := s.me
            let e : Elide := { rd := rd, fallback := fb, a := c.a, p := c.p, loops := c.apLoops, lines := [p.pa / 64],
                               writes := [], wbad := [], gen := s.nextId }
            set (s.modMe fun c => ({ c with elide := some e } : Ctx).setA rd { v := 0 })
            pure none
where
  /-- The offset `pc + signed(FBOFF)`. -/
  fallbackOf (pc : Nat) (off : BitVec 32) : Nat := (BitVec.ofNat 64 pc + off.signExtend 64).toNat

/-- Whether a region's bytes in an 8-byte word come through at its port as it commits: the windows let them, or they were written by
local offset (R66, R82). -/
def Elide.lets (e : Elide) (s : State) (t : Tid) (w : Nat) : Bool :=
  e.locs.contains w || s.windowOk (s.ctxTenant t.core t.ctx) (8 * w) (8 * w + 7) .write

/-- Write a region's bytes and poison to memory (R226). Words that the windows refuse are dropped, and each is logged (R66; log entry
112). -/
def commitBytes (t : Tid) (s : State) (e : Elide) : State :=
  let ok := e.lets s t
  let s := e.writes.foldl (fun s p => if ok (p.1 / 8) then (s.touch (some t) p.1 1 true).setByte p.1 p.2 else s) s
  let s : State := { s with bad := e.wbad.foldl (fun m p => if ok p.1 then m.set false p.1 p.2 else m) s.bad }
  ((distinct (e.writes.map fun p => p.1 / 8)).filter fun w => !ok w).foldl (fun s w => s.refuseAt (s.srcOf t) (8 * w)) s

/-- The body of SLC (R226): the commit is a release at DEVICE scope. -/
def slcBody : Exec Next := do
  let s ← get
  match s.me.elide with
  | none => pure none
  | some e => do
    awaitRelease .device
    set ((commitBytes s.cur.tid s e).modMe fun c => { c with elide := none })
    pure none

/-- `SLB` (R223). -/
def execSlb (h : ApHdr) (rd ra : BitVec 5) (off fboff : BitVec 32) (s : State) : Out :=
  apWord h false (slbBody rd ra off fboff) s
/-- `SLC` (R226). -/
def execSlc (h : ApHdr) (s : State) : Out := apWord h false slcBody s
/-- `SLX` (R227): no effect outside a region. -/
def execSlx (h : ApHdr) (xcode : BitVec 8) (s : State) : Out :=
  apWord h false (if s.me.elide.isSome then stop (.abort xcode.toNat 1) else pure none) s

end Sys2Proof.Machine
end

