-- ==== Sys2Proof/Machine/Ring.lean ====
section
/-! DEFINITION. Ring-slot counters, the chains that wait on them and post them, and how a chain stops (R338, R390 to R393). -/

namespace Sys2Proof.Machine
open Sys2Proof

def State.launch (s : State) (ten : Nat) : Launch := s.dev.launch.get {} ten
def State.modLaunch (s : State) (ten : Nat) (f : Launch → Launch) : State :=
  { s with dev := { s.dev with launch := s.dev.launch.put ten (f (s.launch ten)) } }
def State.card (s : State) (id : Nat) : Option Card := s.dev.cards.find? fun c => c.id == id


/-! ## The chain of a channel -/

def Ctx.chan (c : Ctx) (n : Nat) : Chan := c.chans.get {} n
def Ctx.setChan (c : Ctx) (n : Nat) (v : Chan) : Ctx := { c with chans := c.chans.put n v }

def State.chainOf (s : State) (k x n : Nat) : Option Chain := ((s.ctx k x).chan n).chain
def State.setChain (s : State) (k x n : Nat) (h : Chain) : State :=
  s.modCtx k x fun c => c.setChan n { c.chan n with chain := some h }

/-! ## Ring-slot counters (R390, R393) -/

def State.ctr (s : State) (ten n : Nat) : Ctr := (s.launch ten).ctrs.get {} n
def Ctr.en (r : Ctr) : Bool := r.ccfg.getLsbD 27
def Ctr.trg (r : Ctr) : Bool := r.ccfg.getLsbD 26
def Ctr.aud (r : Ctr) : Bool := r.ccfg.getLsbD 25
def Ctr.pair (r : Ctr) : Nat := bits r.ccfg.toNat 23 16
def Ctr.cap (r : Ctr) : Nat := bits r.ccfg.toNat 15 0
def Ctr.trgl (r : Ctr) : Nat := bits r.ccfg.toNat 31 28

/-- PAR: the number of one bits of [63:47] and [31:0] is even; an error of storage inverts it. -/
def Ctr.par (r : Ctr) : Bool :=
  let ones := ((List.range 16).filter fun i => bit r.seq i).length + ((List.range 32).filter fun i => bit r.count i).length
  (ones % 2 == 1) != r.parBad
/-- The word of CTR (Table 15-11). -/
def Ctr.word (r : Ctr) : Nat := r.count % 2 ^ 32 + r.par.toNat * 2 ^ 47 + r.seq % 2 ^ 16 * 2 ^ 48

/-- The tenant of a chain: of its node's card for a transform node, else of its context (R381). -/
def State.chainTenant (s : State) (k x : Nat) (h : Chain) : Nat :=
  match h.node with
  | some r => match s.dev.runs.find? fun q => q.id == r with
    | some q => ((s.card q.card).map (·.ten)).getD (s.ctxTenant k x)
    | none => (s.coreTenant k).getD 0
  | none => s.ctxTenant k x

/-- The chains of a context. -/
def Ctx.chains (c : Ctx) : List Chain := c.chans.filterMap (·.2.chain)

/-- The contexts that are parked, in a swap or set aside. -/
def State.awayCtxs (s : State) : List ParkedCtx :=
  s.dev.parked.flatMap (·.2.ctxs) ++ s.dev.steps.flatMap fun t => (t.aside.getD []).map (·.2)

/-- The chains of a tenant, those of parked contexts among them. -/
def State.chainsOf (s : State) (ten : Nat) : List Chain :=
  (s.cores.flatMap fun k => k.2.ctxs.flatMap fun x => x.2.chains.filter fun h => s.chainTenant k.1 x.1 h == ten)
    ++ s.awayCtxs.flatMap fun p => if p.held.bind.map (·.tenant) = some ten then p.held.chains else []

/-! ## Fields of a chain entry (Table 15-13) -/

def ChainEntry.f (e : ChainEntry) (hi lo : Nat) : Nat := bits e.raw.toNat hi lo
def ChainEntry.kind (e : ChainEntry) : Nat := e.f 7 0
def ChainEntry.wen (e : ChainEntry) : Bool := bit e.raw.toNat 9
def ChainEntry.pen (e : ChainEntry) : Bool := bit e.raw.toNat 10
def ChainEntry.last (e : ChainEntry) : Bool := bit e.raw.toNat 11
def ChainEntry.wctr (e : ChainEntry) : Nat := e.f 23 16
def ChainEntry.pctr (e : ChainEntry) : Nat := e.f 31 24
def ChainEntry.wcnt (e : ChainEntry) : Nat := e.f 47 32
def ChainEntry.pcnt (e : ChainEntry) : Nat := e.f 63 48
def ChainEntry.next (e : ChainEntry) : Nat := e.f 127 64
def ChainEntry.cmd (e : ChainEntry) : BitVec 512 := BitVec.ofNat 512 (e.f 1023 512)

/-! ## Slots -/

/-- The slots of a counter that an entry has consumed whose command still waits to issue (R392). -/
def Chain.tookNow (h : Chain) (n : Nat) : Nat := match h.entry with
  | some e => if e.took && e.pen && e.wctr == n then e.wcnt else 0
  | none => 0

/-- Slots consumed from a counter by entries whose posts are still pending (H of R393). -/
def State.heldSlots (s : State) (ten n : Nat) : Nat :=
  ((s.chainsOf ten).map fun h => h.tookNow n + ((h.posts.filter fun p => p.wctr == n).map (·.took)).sum).sum

/-- Whether the slots of an audited ring fall short (R393). -/
def State.shortfall (s : State) (ten n : Nat) : Bool :=
  let r := s.ctr ten n
  r.aud && decide (r.count + (s.ctr ten r.pair).count + s.heldSlots ten n
    + (if r.pair = n then 0 else s.heldSlots ten r.pair) < r.cap)

/-- Note since when each audited ring of a tenant has fallen short. -/
def State.auditNote (s : State) (ten : Nat) : State :=
  s.modLaunch ten fun l => { l with ctrs := l.ctrs.map fun p =>
    (p.1, { p.2 with short := if s.shortfall ten p.1 then some (p.2.short.getD s.gtc) else none }) }

def State.modCtr (s : State) (ten n : Nat) (f : Ctr → Ctr) : State :=
  (s.modLaunch ten fun l => { l with ctrs := l.ctrs.put n (f (l.ctrs.get {} n)) }).auditNote ten

/-- A counter with a new count: SEQ counts the change and PAR is computed again (R390). -/
def Ctr.update (r : Ctr) (v : Nat) : Ctr := { r with count := v % 2 ^ 32, seq := (r.seq + 1) % 2 ^ 16, parBad := false }

/-- A post (R390 to R393): whether it is made. A post to a counter whose parity fails is dropped and logged. -/
def State.post (s : State) (ten n v : Nat) : State :=
  let r := s.ctr ten n
  if r.parBad then s.logError (some ten) { cls := 7, d0 := n, d1 := r.pair }
  else s.modCtr ten n fun r => r.update (r.count + v)

/-! ## Stopping a chain (R338, R392) -/

/-- Take a chain out of every list of waiters (R392). -/
def Ctr.unwait (r : Ctr) (k x n : Nat) : Ctr := { r with waiters := r.waiters.filter fun w => w != (k, x, n) }
def Launch.unwait (l : Launch) (k x n : Nat) : Launch := { l with ctrs := l.ctrs.map fun r => (r.1, r.2.unwait k x n) }
def State.unwait (s : State) (k x n : Nat) : State :=
  { s with dev := { s.dev with launch := s.dev.launch.map fun l => (l.1, l.2.unwait k x n) } }

/-- Let go of an entry that has been fetched: it is the first not started. -/
def Chain.quitEntry (c : Chain) : Chain := { c with entry := none, next := (c.entry.map (·.va)).orElse fun _ => c.next }
/-- Let go of an entry that has been fetched and is not in progress: one that has consumed its slots is (R338, R392). -/
def Chain.keepTook (c : Chain) : Chain := if c.entry.any (·.took) then c else c.quitEntry

/-- Stop a chain from starting further entries: an entry fetched and not started is the first not started (R338). -/
def Chain.stop (c : Chain) : Chain := { c.keepTook with running := false }

/-- Stop a chain that fails (R392): what it has fetched is not issued. The posts of the entries before still come; `posts` gives
those that do (log entry 23). -/
def State.failChain (s : State) (k x n : Nat) (h : Chain) (posts : List ChainPost) : State :=
  ((s.unwait k x n).setChain k x n { h.quitEntry with running := false, failed := true, posts := posts }).auditNote (s.chainTenant k x h)

end Sys2Proof.Machine
end

