-- ==== Sys2Proof/Machine/CopyIssue.lean ====
section
/-! DEFINITION. Command blocks, their checks, their issue and their completion (05). -/

namespace Sys2Proof.Machine
open Sys2Proof

/-! ## The command block (Tables 05-1, 05-2, 05-3) -/

abbrev Blk := BitVec 512

def Blk.f (b : Blk) (hi lo : Nat) : Nat := bits b.toNat hi lo
def Blk.kind (b : Blk) : Nat := Blk.f b 7 0
def Blk.sfmtCode (b : Blk) : Nat := Blk.f b 11 8
def Blk.dfmtCode (b : Blk) : Nat := Blk.f b 15 12
def Blk.sfmt (b : Blk) : Fmt := (Fmt.ofCode? (Blk.sfmtCode b)).getD .n8
def Blk.dfmt (b : Blk) : Fmt := (Fmt.ofCode? (Blk.dfmtCode b)).getD .n8
def Blk.tag (b : Blk) : Nat := Blk.f b 21 16
def Blk.xpose (b : Blk) : Bool := b.getLsbD 24
def Blk.crcd (b : Blk) : Bool := b.getLsbD 25
def Blk.crcs (b : Blk) : Bool := b.getLsbD 26
def Blk.timed (b : Blk) : Bool := b.getLsbD 27
def Blk.srcl (b : Blk) : Bool := b.getLsbD 28
def Blk.dstl (b : Blk) : Bool := b.getLsbD 29
def Blk.dspace (b : Blk) : Nat := Blk.f b 31 30
def Blk.chan (b : Blk) : Nat := Blk.f b 33 32
def Blk.scope (b : Blk) : Nat := Blk.f b 36 34
def Blk.dsz (b : Blk) : Nat := Blk.f b 41 37
def Blk.src (b : Blk) : Nat := Blk.f b 127 64
def Blk.dst (b : Blk) : Nat := Blk.f b 191 128
def Blk.count (b : Blk) (i : Nat) : Nat := Blk.f b (192 + 16 * i + 15) (192 + 16 * i)
/-- SSTR and DSTR of dimensions 1 to 3, as their 32 bits. -/
def Blk.sstrN (b : Blk) (i : Nat) : Nat := Blk.f b (256 + 32 * (i - 1) + 31) (256 + 32 * (i - 1))
def Blk.dstrN (b : Blk) (i : Nat) : Nat := Blk.f b (352 + 32 * (i - 1) + 31) (352 + 32 * (i - 1))
def Blk.sstr (b : Blk) (i : Nat) : Int := sgn 32 (Blk.sstrN b i)
def Blk.dstr (b : Blk) (i : Nat) : Int := sgn 32 (Blk.dstrN b i)
def Blk.aux (b : Blk) (hi lo : Nat) : Nat := Blk.f b (448 + hi) (448 + lo)
def Blk.bound (b : Blk) (i : Nat) : Nat := if i = 0 then Blk.aux b 47 32 else Blk.aux b 63 48
/-- The tile scale (Table 05-3). -/
def Blk.scale (b : Blk) : Nat := if Blk.kind b = 1 ∨ Blk.kind b = 5 then Blk.aux b 31 0 else Blk.aux b 63 32
/-- The index list and weight list offsets. -/
def Blk.idxAt (b : Blk) : Nat := Blk.aux b 20 0
def Blk.wgtAt (b : Blk) : Nat := Blk.aux b 52 32
/-- CSR's row-pointer address and CAP. -/
def Blk.rowPtr (b : Blk) : Nat := Blk.f b 415 352
def Blk.cap (b : Blk) : Nat := Blk.f b 447 416

/-- The block with SRC and DST replaced (R316). -/
def Blk.withAddrs (b : Blk) (src dst : BitVec 64) : Blk :=
  BitVec.ofNat 512 (setBits (setBits b.toNat 127 64 src.toNat) 191 128 dst.toNat)

/-! ## Extents -/

/-- The least and the greatest value of `base + Σ i × stride` over counts, the strides in half bytes. -/
def extent (base : Int) : List (Nat × Int) → Int × Int
  | [] => (base, base)
  | (c, d) :: ds =>
    let (lo, hi) := extent base ds
    let e : Int := (c - 1 : Nat) * d
    (lo + min 0 e, hi + max 0 e)

/-- The dimensions of the source and of the destination of a COPY, as counts and half-byte strides (R112). -/
def Blk.srcDims (b : Blk) : List (Nat × Int) :=
  [(Nat.min (Blk.count b 0) (Blk.bound b 0), (Blk.sfmt b).bits / 4), (Nat.min (Blk.count b 1) (Blk.bound b 1), 2 * Blk.sstr b 1),
   (Blk.count b 2, 2 * Blk.sstr b 2), (Blk.count b 3, if Blk.sfmtCode b = 5 then 0 else 2 * Blk.sstr b 3)]
def Blk.dstDims (b : Blk) : List (Nat × Int) :=
  let e : Int := (Blk.dfmt b).bits / 4
  let d1 := 2 * Blk.dstr b 1
  let (a0, a1) := if Blk.xpose b then (d1, e) else (e, d1)
  [(Blk.count b 0, a0), (Blk.count b 1, a1), (Blk.count b 2, 2 * Blk.dstr b 2),
   (Blk.count b 3, if Blk.dfmtCode b = 5 then 0 else 2 * Blk.dstr b 3)]

/-- Whether an array of elements of `w` bits breaks reason 5: an element misaligned for its size, or a local one outside the
scratchpad, one at an offset of more than 21 bits among them (log entry 118). An array of no elements breaks none. -/
def badArray (loc : Bool) (base : Nat) (w : Nat) (dims : List (Nat × Int)) : Bool :=
  let e : Int := w / 4
  let base2 : Int := 2 * base
  let mis := w ≠ 4 ∧ (base2 % e ≠ 0 ∨ dims.any fun d => decide (1 < d.1 ∧ d.2 % e ≠ 0))
  if dims.any fun d => d.1 == 0 then false else
  let (lo, hi) := extent base2 dims
  decide mis || (loc && (decide (lo < 0) || decide (0x400000 < hi + e)))

def badLocal (o n al : Nat) : Bool := o % al != 0 || decide (0x200000 < o + n)

/-- Scale-plane bytes of the blocks of an FP4 side (R46, R113). -/
def Blk.planeLen (b : Blk) : Nat := (Blk.count b 0 / 8 * Blk.count b 1 * Blk.count b 2 + 7) / 8 * 12

/-- The residues modulo 1024 at which the rows of a PUBLISH start (R114). -/
def addResidue (stride : Int) (i : Nat) (acc : List Nat) : List Nat → List Nat
  | [] => acc
  | r :: rs =>
    let v : Nat := (((r : Int) + (i : Int) * stride) % 1024).toNat
    addResidue stride i (if acc.contains v then acc else v :: acc) rs

def addResidues (rs : List Nat) (count : Nat) (stride : Int) : List Nat :=
  (List.range (Nat.min count 1024)).foldl (fun acc i => addResidue stride i acc rs) []

/-! ## Checks (R111, Table 05-4) -/

/-- Kinds, for the table of unused fields. -/
def Blk.isCopy (b : Blk) : Bool := Blk.kind b == 1 || Blk.kind b == 5
def Blk.isRows (b : Blk) : Bool := Blk.kind b == 2 || Blk.kind b == 3
def Blk.isCodec (b : Blk) : Bool := Blk.kind b == 7 || Blk.kind b == 8

/-- Reason 2: reserved bits, fields the kind does not use, and address spaces it refuses (R110, R122, R123; log
entries 63 and 98). -/
def Blk.unusedBad (b : Blk) : Bool :=
  let k := Blk.kind b
  let f := Blk.f b
  let loc := decide (k = 9 ∨ k = 10)
  f 63 42 != 0 || f 23 22 != 0 || Blk.dspace b == 3
    || (!(Blk.isCodec b) && Blk.dsz b != 0)
    || (!(Blk.isCopy b) && (Blk.xpose b || (k != 4 && Blk.count b 2 != 1) || Blk.count b 3 != 1))
    || (k == 3 && (Blk.src b != 0 || Blk.srcl b || Blk.sstrN b 1 != 0))
    || ((Blk.isRows b || k == 4) && (Blk.sstrN b 2 != 0 || Blk.sstrN b 3 != 0 || Blk.dstrN b 2 != 0 || Blk.dstrN b 3 != 0))
    || (k == 6 && (Blk.sstrN b 2 != 0 || Blk.sstrN b 3 != 0))
    || ((Blk.isCodec b || loc) && (f 351 256 != 0 || f 447 352 != 0 || Blk.count b 1 != 0))
    || (k == 10 && (Blk.count b 0 != 0 || Blk.sfmtCode b != 0))
    || (k == 9 && Blk.dfmtCode b != 0)
    || (Blk.isRows b && Blk.aux b 31 21 != 0)
    || (k == 4 && (Blk.aux b 31 21 != 0 || Blk.aux b 63 53 != 0))
    || (k == 7 && Blk.aux b 63 21 != 0)
    || (k == 8 && (Blk.aux b 63 44 != 0 || Blk.aux b 31 21 != 0))
    || (k == 9 && (Blk.aux b 63 44 != 0 || Blk.aux b 31 0 != 0))
    || (k == 10 && Blk.aux b 31 0 != 0)
    || (k == 7 && (!Blk.dstl b || Blk.dspace b != 0))
    || (k == 8 && (!Blk.srcl b || Blk.dspace b != 0))
    || (loc && (!Blk.srcl b || !Blk.dstl b || Blk.dspace b != 0))
    || (!(Blk.isCopy b) && Blk.dspace b != 0)

/-- Reason 3 (R112, R113, R115, R117, R122): formats; FP4 in a CSR is the model's (log entry 98). -/
def Blk.fmtBad (b : Blk) : Bool :=
  let k := Blk.kind b
  let s := Fmt.ofCode? (Blk.sfmtCode b)
  let d := Fmt.ofCode? (Blk.dfmtCode b)
  let four := (Blk.sfmt b).bits == 4 || (Blk.dfmt b).bits == 4
  let fp4 := Blk.sfmtCode b == 5 || Blk.dfmtCode b == 5
  s.isNone || d.isNone || (Blk.isCopy b && Blk.xpose b && four)
    || ((Blk.isRows b || k == 4 || k == 6) && fp4)

/-- Reason 5: misaligned or out of the scratchpad. The arrays of a local CSR are taken to hold as many entries as there can be (log entry
117). -/
def Blk.placeBad (b : Blk) : Bool :=
  let k := Blk.kind b
  let es := (Blk.sfmt b).bits
  let ed := (Blk.dfmt b).bits
  let c := Blk.count b
  let spread := fun (i : Nat) (w : Nat) (n : Nat) (d : Int) => [(c i, ((w / 4 : Nat) : Int)), (n, 2 * d)]
  if Blk.isCopy b then
    badArray (Blk.srcl b) (Blk.src b) es (Blk.srcDims b)
      || (Blk.dspace b == 0 && badArray (Blk.dstl b) (Blk.dst b) ed (Blk.dstDims b))
      || (Blk.sfmtCode b == 5 && badLocal (Blk.sstrN b 3) (Blk.planeLen b) 4)
      || (Blk.dfmtCode b == 5 && badLocal (Blk.dstrN b 3) (Blk.planeLen b) 4)
  else if Blk.isRows b || k == 4 then
    let rows := if k = 4 then c 2 else c 1
    badArray (Blk.dstl b) (Blk.dst b) ed (spread 0 ed rows (Blk.dstr b 1))
      || badLocal (Blk.idxAt b) (4 * (if k = 4 then c 1 * c 2 else c 1)) 4
      || (k == 4 && badLocal (Blk.wgtAt b) (4 * (c 1 * c 2)) 4)
  else if k = 6 then
    badArray (Blk.srcl b) (Blk.src b) es (spread 0 es (c 1) (Blk.sstr b 1))
      || badArray (Blk.dstl b) (Blk.dst b) ed [(Nat.min (Blk.cap b) (c 0 * c 1), ((ed / 4 : Nat) : Int))]
      || badArray (Blk.dstl b) (Blk.aux b 63 0) 32 [(Nat.min (Blk.cap b) (c 0 * c 1), 8)]
      || badArray (Blk.dstl b) (Blk.rowPtr b) 32 [(c 1 + 1, 8)]
  else if k = 7 then
    badLocal (Blk.dst b) (4096 * c 0) (Nat.max 1 (ed / 8)) || badLocal (Blk.idxAt b) 512 512
      || (Blk.srcl b && badLocal (Blk.src b) (256 * Blk.dsz b * c 0) 1)
  else if k = 8 then
    badLocal (Blk.src b) (4096 * c 0) (Nat.max 1 (es / 8)) || badLocal (Blk.idxAt b) 512 512
      || (Blk.dstl b && badLocal (Blk.dst b) (256 * Blk.dsz b * c 0) 1)
  else if k = 9 then badLocal (Blk.src b) (4096 * c 0) (Nat.max 1 (es / 8)) || badLocal (Blk.dst b) (4 * alphabet (Blk.sfmt b)) 4
  else badLocal (Blk.src b) (4 * alphabet (Blk.dfmt b)) 4 || badLocal (Blk.dst b) 512 512

/-- Reason 6: IMEM and template-store destinations (R118); that DST has no bits above its space is the model's (log entry 98). -/
def Blk.imemBad (b : Blk) : Bool :=
  Blk.dspace b != 0 &&
    (Blk.dstl b || Blk.xpose b || Blk.sfmtCode b != 12 || Blk.dfmtCode b != 12
      || decide (Blk.bound b 0 < Blk.count b 0) || decide (Blk.bound b 1 < Blk.count b 1) || Blk.scale b != 0x3F800000
      || Blk.count b 2 != 1 || Blk.count b 3 != 1 || Blk.dstr b 1 != 4 * Blk.count b 0
      || (if Blk.dspace b = 1 then
            decide (2 ^ 18 ≤ Blk.dst b) || Blk.dst b % 4 != 0
              || decide (0x40000 < Blk.dst b + 4 * Blk.count b 0 * Blk.count b 1)
          else
            let n := 4 * Blk.count b 0 * Blk.count b 1
            decide (128 ≤ Blk.dst b) || n % 16 != 0 || n == 0 || decide (62 < Blk.dst b % 64 + n / 16)))

/-- Reason 7: shapes (R113, R114); a PUBLISH of no rows has it too (log entry 119). -/
def Blk.shapeBad (b : Blk) : Bool :=
  let k := Blk.kind b
  let c := Blk.count b
  let four := (Blk.sfmt b).bits == 4 || (Blk.dfmt b).bits == 4
  let fp4 := Blk.sfmtCode b == 5 || Blk.dfmtCode b == 5
  let rowBytes := c 0 * (Blk.dfmt b).bits / 8
  (Blk.isCopy b && four && c 0 % 2 != 0)
    || (Blk.isCopy b && fp4 && (c 0 % 8 != 0 || c 3 != 1 || (Blk.bound b 0 % 8 != 0 && decide (Blk.bound b 0 < c 0))))
    || (k == 5 && (Blk.dspace b != 0 || Blk.xpose b || decide (1024 < rowBytes)
        || (addResidues (addResidues (addResidues [Blk.dst b % 1024] (c 1) (Blk.dstr b 1)) (c 2) (Blk.dstr b 2)) (c 3)
              (if Blk.dfmtCode b = 5 then 0 else Blk.dstr b 3)).any fun r => decide (1024 < r + rowBytes)))

/-- Bytes that hold a row of COUNT0 source elements. -/
def Blk.rowIn (b : Blk) : Nat := (Blk.count b 0 * (Blk.sfmt b).bits + 7) / 8

/-- Reason 5 for the rows of a GATHER or POOL, by the indices that its list holds at issue (Table 05-4; log entry 82): a row that
starts misaligned for its elements, or a local one outside the scratchpad. Null and poisoned entries name no row. -/
def State.rowsBad (s : State) (k : Nat) (b : Blk) : Bool :=
  let n := if Blk.kind b = 2 then Blk.count b 1 else if Blk.kind b = 4 then Blk.count b 1 * Blk.count b 2 else 0
  Blk.count b 0 != 0 && (List.range n).any fun j =>
    let o := spad k (Blk.idxAt b + 4 * j)
    let i := s.nat o 4
    let a := wrap 64 (Blk.src b + i * Blk.sstr b 1)
    i != 0xFFFFFFFF && !s.badIn o 4
      && (a % Nat.max 1 ((Blk.sfmt b).bits / 8) != 0 || (Blk.srcl b && decide (0x200000 < a + Blk.rowIn b)))

/-- The bytes beside its block that the check of a command reads: an index list, or a code table; none for the other kinds. -/
def Blk.checked (b : Blk) : Nat :=
  match Blk.kind b with
  | 2 => 4 * Blk.count b 1
  | 4 => 4 * (Blk.count b 1 * Blk.count b 2)
  | 7 | 8 => 512
  | _ => 0

/-- The check of a command at issue: reason and codec status, or its code table (R111, R122). -/
def State.checkBlk (s : State) (k x : Nat) (b : Blk) : Except (Nat × Nat) (Option CodecTable) :=
  let kd := Blk.kind b
  let ten := s.ctxTenant k x
  if kd = 0 ∨ 10 < kd ∨ ((kd = 9 ∨ kd = 10) ∧ s.hostMode (if ten = 16 then (s.coreTenant k).getD 0 else ten) 4) then .error (1, 0)
  else if Blk.unusedBad b then .error (2, 0)
  else if Blk.fmtBad b then .error (3, 0)
  else if Blk.scope b = 7 then .error (4, 0)
  else if Blk.placeBad b || s.rowsBad k b then .error (5, 0)
  else if Blk.imemBad b then .error (6, 0)
  else if Blk.shapeBad b then .error (7, 0)
  else if kd = 9 ∨ kd = 10 then
    if codecFmt (if kd = 9 then Blk.sfmt b else Blk.dfmt b) then .ok none else .error (8, 3)
  else if kd = 7 ∨ kd = 8 then
    match codecRequest s k (Blk.sfmt b) (Blk.dsz b) (Blk.idxAt b) (kd = 8) with
    | .error st => .error (8, st)
    | .ok t =>
      match tableOf (s.bytes (spad k (Blk.idxAt b)) 512) with
      | some u => if u.fmt = Blk.sfmt b ∧ u.fmt = Blk.dfmt b then .ok (some t) else .error (8, 3)
      | none => .error (8, 1)
  else .ok none

/-! ## Outstanding commands (R105 to R108) -/

def Core.cmd (c : Core) (id : Nat) : Option Cmd := c.cmds.find? fun k => k.id == id
def State.modCmd (s : State) (k id : Nat) (f : Cmd → Cmd) : State :=
  s.modCore k fun c => { c with cmds := c.cmds.map fun q => if q.id == id then f q else q }

/-- Commands of a channel that are outstanding. -/
def Core.outstanding (c : Core) (x n : Nat) : List Cmd := c.cmds.filter fun q => q.ctx == x && q.chan == n
/-- Entries of the Almanac in use (R128). -/
def Core.almanac (c : Core) : Nat := (c.cmds.filter fun q => q.time.isSome).length

/-- Whether a command can issue: channel, tag, Almanac and, for a codec kind, table slots (R96, R107, R128, R315). -/
def State.cmdRoom (s : State) (k x : Nat) (b : Blk) : Bool :=
  let co := s.core k
  let c := s.ctx k x
  decide ((co.outstanding x (Blk.chan b)).length < 32) && decide (c.counts.get 0 (Blk.tag b) < 255)
    && (!Blk.timed b || decide (co.almanac < 256)) && (!Blk.isCodec b || decide (co.tablesHeld < 16))

/-- The watermark after identifier `x` completes: it moves over a completed prefix (R106). -/
def Chan.complete (c : Chan) (x : Nat) : Chan :=
  let rec go (fuel mark : Nat) (ahead : List Nat) : Nat × List Nat :=
    match fuel with
    | 0 => (mark, ahead)
    | k + 1 =>
      let n := (mark + 1) % 2 ^ 32
      if ahead.contains n then go k n (ahead.filter (· != n)) else (mark, ahead)
  let ahead := x :: c.ahead
  let (m, a) := go ahead.length c.mark ahead
  { c with mark := m, ahead := a }

/-- The 64-byte status entry (Table 05-6). -/
def statusEntry (q : Cmd) : Nat :=
  let r := q.res
  q.xid % 2 ^ 32 + Blk.kind q.blk * 2 ^ 32 + r.status * 2 ^ 40 + r.pois.toNat * 2 ^ 43 + r.codec * 2 ^ 44 + q.chan * 2 ^ 48
    + r.ph2.toNat * 2 ^ 50 + r.reason * 2 ^ 56 + r.dcrc % 2 ^ 32 * 2 ^ 64 + r.scrc % 2 ^ 32 * 2 ^ 96
    + r.count % 2 ^ 32 * 2 ^ 128 + r.ares % 2 ^ 32 * 2 ^ 160 + r.fault.toNat * 2 ^ 256

/-- A post whose command ends with a status. -/
def ChainPost.ended (p : ChainPost) (id st : Nat) : ChainPost :=
  if p.cmd = some id then { p with cmd := none, status := some st } else p

/-- The end of a chain's command (R392): its entry's post may be made; or, where its status is not 0, the chain stops, and of the
posts only those of the entries before are still made. -/
def State.entryEnded (s : State) (k : Nat) (q : Cmd) : State :=
  match s.chainOf k q.ctx q.chan with
  | some h =>
    if !(h.posts.any fun p => p.cmd == some q.id) then s
    else if q.res.status = 0 then s.setChain k q.ctx q.chan { h with posts := h.posts.map (·.ended q.id 0) }
    else s.failChain k q.ctx q.chan h (h.posts.takeWhile fun p => p.cmd != some q.id)
  | none => s

/-- Completion of a command (R105, R106, R126): its status entry, its tag, its watermark, its chain entry's post. -/
def State.completeCmd (s : State) (k : Nat) (q : Cmd) : State :=
  let c := s.ctx k q.ctx
  let s := if c.copyStat.getLsbD 0 then
      s.store none (spad k (bits c.copyStat.toNat 20 12 * 4096 + 64 * q.tag)) (leBytes 64 (statusEntry q)) false
    else s
  let s := s.modCore k fun co => { co with cmds := co.cmds.filter fun r => r.id != q.id }
  let s := s.modCtx k q.ctx fun c =>
    let n := c.counts.get 0 q.tag - 1
    { c with
      counts := c.counts.set 0 q.tag n
      tags := if n = 0 then c.tags ||| ((1 : BitVec 64) <<< q.tag) else c.tags }.setChan q.chan ((c.chan q.chan).complete q.xid)
  s.entryEnded k q

/-- Issue a command block whose check has been made (R105, R111): the identifier it takes, and the command's number. A
rejected one completes at once. What the check has read is noted (R224). -/
def State.issueChecked (s : State) (k x : Nat) (b : Blk) (time : Nat) (ofChain : Bool)
    (chk : Except (Nat × Nat) (Option CodecTable)) : Nat × Nat × State :=
  let n := Blk.chan b
  let t := Blk.tag b
  let xid := ((s.ctx k x).chan n).nextId
  let (id, s) := (s.look none (spad k (Blk.idxAt b)) (Blk.checked b)).newId
  let s := s.modCtx k x fun c =>
    { c with
      tags := c.tags &&& ~~~((1 : BitVec 64) <<< t)
      counts := c.counts.set 0 t (c.counts.get 0 t + 1) }.setChan n { c.chan n with nextId := (xid + 1) % 2 ^ 32 }
  let q : Cmd := {
    id := id, ctx := x, ten := s.ctxTenant k x, chan := n, tag := t, xid := xid, blk := b, ofChain := ofChain }
  match chk with
  | .error (r, st) => (xid, id, s.completeCmd k { q with res := { status := 1, reason := r, codec := st } })
  | .ok tb =>
    (xid, id, s.modCore k fun c => { c with cmds := c.cmds ++ [{ q with table := tb, time := if Blk.timed b then some time else none }] })

/-- Issue a command block. -/
def State.issueCmd (s : State) (k x : Nat) (b : Blk) (time : Nat) (ofChain : Bool) : Nat × Nat × State :=
  s.issueChecked k x b time ofChain (s.checkBlk k x b)

end Sys2Proof.Machine
end

