-- ==== Sys2Proof/Machine/ApEngine.lean ====
section
/-! DEFINITION. Copy issue and completion forms of the AP (R315 to R321). -/

namespace Sys2Proof.Machine
open Sys2Proof

/-- Wait after issue, with a change to what the wait keeps. -/
def waitWith {α : Type} (f : Stall → Stall) : Exec α := fun s =>
  .error (.wait ((s.noteStall true).modHalf s.cur.tid fun h => { h with stall := h.stall.map f }))

/-- The wait record of the current word, once it has issued. -/
def State.myStall (s : State) : Option Stall :=
  match (s.half s.cur.tid).stall with
  | some w => if w.issued then some w else none
  | none => none

/-- Wait until the thread's own stores to what the check of a command reads have performed (R108, R111). -/
def awaitChecked (k : Nat) (b : Blk) : Exec Unit :=
  if Blk.checked b = 0 then pure () else awaitOwn (spad k (Blk.idxAt b)) (Blk.checked b)

/-- The block and the time word of a copy form: read now, or as it read them before it waited (R315). -/
def copyBlk (o : Nat) : Exec (Blk × BitVec 64) := do
  let s ← get
  let k := s.cur.tid.core
  match s.myStall.bind (·.blk) with
  | some b => pure b
  | none => do
    awaitOwn (spad k o) 72
    let b : Blk := BitVec.ofNat 512 (s.nat (spad k o) 64)
    let n := if Blk.timed b then 72 else 64
    if Blk.timed b && decide (0x200000 < o + 72) then badAddress o
    else if s.badIn (spad k o) n then poisonTrap 4
    else do
      set (s.look (some s.cur.tid) (spad k o) n)
      pure (b, BitVec.ofNat 64 (if Blk.timed b then s.nat (spad k (o + 64)) 8 else 0))

/-- Wait after issue, with the block and the time word that have been read. -/
def waitIssue {α : Type} (b : Blk × BitVec 64) : Exec α := waitWith fun w => { w with blk := some b }

/-- The body of CPY and CPYI for the block at local offset `o`, with the addresses that replace the block's (R315, R316): it waits for
room, and then for the release of a command that is not rejected (R108). -/
def copyIssueBody (rd : BitVec 5) (o : Nat) (addrs : Option (BitVec 64 × BitVec 64)) : Exec Next := do
  if o % 64 ≠ 0 ∨ 0x200000 < o + 64 then badAddress o
  else do
    let read ← copyBlk o
    let s ← get
    let k := s.cur.tid.core
    let x := s.cur.tid.ctx
    let b := match addrs with
      | some (src, dst) => Blk.withAddrs read.1 src dst
      | none => read.1
    awaitChecked k b
    if s.cmdRoom k x b then pure () else waitIssue read
    match s.checkBlk k x b with
    | .error _ => pure ()
    | .ok _ => if (s.before s.cur.tid ((Scope.ofCode? (Blk.scope b)).getD .system) false).isEmpty then pure () else waitIssue read
    let (xid, _, s) := s.issueCmd k x b read.2.toNat false
    set s
    writeA rd { v := BitVec.ofNat 64 xid }
    pure none

/-- `CPY` (R315). -/
def execCpy (h : ApHdr) (rd ra : BitVec 5) (off : BitVec 32) (s : State) : Out :=
  apWord h true (do
    let (o, _) ← effAddr ra off
    copyIssueBody rd o none) s

/-- `CPYI` (R316). -/
def execCpyi (h : ApHdr) (rd ra rb : BitVec 5) (off : BitVec 32) (s : State) : Out :=
  apWord h true (do
    let a ← needA ra 1
    let b ← needA rb 2
    copyIssueBody rd (off.toNat % 2 ^ 21) (some (a.v, b.v))) s

/-- `WMRD` (R318). -/
def execWmrd (h : ApHdr) (rd : BitVec 5) (nxt : Bool) (chan : BitVec 2) (s : State) : Out :=
  apWord h true (do
    let s ← get
    let c := s.me.chan chan.toNat
    writeA rd { v := BitVec.ofNat 64 (if nxt then c.nextId else c.mark) }
    pure none) s

/-- Whether identifier `a` is below `b` in serial-number arithmetic (R106). -/
def serialBelow (a b : Nat) : Bool := a != b && decide ((b + 2 ^ 32 - a) % 2 ^ 32 < 2 ^ 31)

/-- The body of CPQ (R319): it waits for the commands issued before it first issued. -/
def cpqBody (rd : BitVec 5) (n : Nat) : Exec Next := do
  let s ← get
  let c := s.me.chan n
  let m := (s.myStall.bind (·.mark)).getD c.nextId
  if ((s.core s.cur.tid.core).outstanding s.cur.tid.ctx n).any fun q => serialBelow q.xid m then
    waitWith fun w => { w with mark := some m }
  else do
    writeA rd { v := BitVec.ofNat 64 c.mark }
    pure none

/-- `CPQ` (R319). -/
def execCpq (h : ApHdr) (rd : BitVec 5) (chan : BitVec 2) (s : State) : Out := apWord h true (cpqBody rd chan.toNat) s

/-- `TWAIT` (R320). -/
def execTwait (h : ApHdr) (rd : BitVec 5) (o : Op2) (all : Bool) (s : State) : Out :=
  apWord h true (do
    let k ← needOp2 o
    let s ← get
    let r := s.me.tags &&& k.v
    if k.v ≠ 0 ∧ (if all then r ≠ k.v else r = 0) then waitHere
    else do
      writeA rd { v := r }
      pure none) s

/-- `TFFR` (R321). -/
def execTffr (h : ApHdr) (rd : BitVec 5) (o : Op2) (clr : Bool) (s : State) : Out :=
  apWord h true (do
    let k ← needOp2 o
    let s ← get
    let c := s.me.tags &&& k.v
    if c = 0 then writeA rd { v := 64 }
    else do
      let n := ctzNat 64 c.toNat
      writeA rd { v := BitVec.ofNat 64 n }
      if clr then modify fun s => s.modMe fun x => { x with tags := x.tags &&& ~~~((1 : BitVec 64) <<< n) } else pure ()
    pure none) s

end Sys2Proof.Machine
end

