-- ==== Sys2Proof/Machine/ApSync.lean ====
section
/-! DEFINITION. WAIT, barriers, work lists, chains and job posts (R322 to R339). -/

namespace Sys2Proof.Machine
open Sys2Proof

/-! ## Barriers (R327 to R332) -/

def State.bar (s : State) (k n : Nat) : Bar := (s.core k).bars.get {} n
def State.setBar (s : State) (k n : Nat) (b : Bar) : State := s.modCore k fun c => { c with bars := c.bars.set {} n b }

/-- One arrival: the count, and the phase when the count reaches the expected one (R327). -/
def Bar.arrive (b : Bar) : Bar := if b.a + 1 = b.e then { b with a := 0, p := !b.p } else { b with a := b.a + 1 }

def barrierMisuse {α : Type} : Exec α := trap { code := 11 }

/-- A barrier of the current core that is initialised (R329, R331); one whose state is poisoned traps (R16, R422). -/
def needBar (n : Nat) : Exec Bar := do
  let s ← get
  let b := s.bar s.cur.tid.core n
  if 2048 ≤ n then barrierMisuse
  else if b.bad then poisonTrap 15
  else if b.e = 0 then barrierMisuse else pure b

/-- `BINIT` (R328). It writes the whole of a barrier, and so clears its poison (log entry 83). -/
def execBinit (h : ApHdr) (ra : BitVec 5) (o : Op2) (s : State) : Out :=
  apWord h true (do
    let a ← needA ra 1
    let e ← needOp2 o
    let s ← get
    let k := s.cur.tid.core
    let n := a.v.toNat
    if 2048 ≤ n ∨ e.v.toNat % 65536 = 0 ∨ ((s.bar k n).a ≠ 0 ∧ (s.bar k n).bad = false) then barrierMisuse
    else do
      set (s.setBar k n { e := e.v.toNat % 65536 })
      pure none) s

/-- `BARR` (R329). -/
def execBarr (h : ApHdr) (rd ra : BitVec 5) (sc : Scope) (s : State) : Out :=
  apWord h true (do
    let a ← needA ra 1
    let b ← needBar a.v.toNat
    awaitRelease sc
    modify fun s => s.setBar s.cur.tid.core a.v.toNat b.arrive
    writeA rd { v := if b.p then 1 else 0 }
    pure none) s

/-- The smallest scope that contains two cores (Table 01-2). -/
def scopeOver (j k : Nat) : Nat :=
  if j = k then 0 else if j / 8 = k / 8 then 2 else if j / 32 = k / 32 then 3 else if j / 128 = k / 128 then 4 else 5

/-- `BARRX` (R330): the message goes once the release is satisfied; a crossing of a bridge that is down traps (R426). -/
def execBarrx (h : ApHdr) (ra rb : BitVec 5) (sc : Scope) (s : State) : Out :=
  apWord h true (do
    let a ← needA ra 1
    let b ← needA rb 2
    let s ← get
    let k := s.cur.tid.core
    let dst := a.v.toNat % 256
    if 2048 ≤ b.v.toNat ∨ s.coreTenant dst ≠ s.coreTenant k ∨ (s.coreTenant k).isNone ∨ sc.code < scopeOver k dst then
      barrierMisuse
    else if !s.dev.bridge.up && k / 128 != dst / 128 then trap { code := 12, detail := 0 }
    else do
      awaitRelease sc
      let (id, s) := s.newId
      let m : BarMsg := { id := id, src := s.cur.tid, core := dst, bar := b.v.toNat }
      set ({ s with barMsgs := s.barMsgs ++ [m] } : State)
      pure none) s

/-- `BWAIT` (R331). It acquires alike at every scope (log entry 100). -/
def execBwait (h : ApHdr) (ra : BitVec 5) (o : Op2) (_sc : Scope) (s : State) : Out :=
  apWord h true (do
    let a ← needA ra 1
    let p ← needOp2 o
    let b ← needBar a.v.toNat
    if b.p = p.v.getLsbD 0 then waitHere else do
      modify fun s => s.seeSr s.cur.tid
      pure none) s

/-! ## WAIT (R322 to R326) -/

/-- Entry `i` of a condition block, as 128 bits (Table 13-4). -/
def condEntry (b : BitVec 512) (i : Nat) : Nat := bits b.toNat (128 * i + 127) (128 * i)
def condKind (e : Nat) : Nat := bits e 7 0
def condArg (e : Nat) : Nat := bits e 63 32
def condVal (e : Nat) : Nat := bits e 127 64

/-- Whether a nonzero bit stands in a field that the entry's kind does not name (R322, R323). -/
def condReserved (e : Nat) : Bool :=
  let k := condKind e
  let argBits := match k with
    | 1 => 6 | 2 => 11 | 3 => 2 | 4 => 21 | 5 => 3 | _ => 4
  decide (2 ^ argBits ≤ condArg e) || bits e 31 16 != 0
    || (k != 2 && k != 4 && bits e 15 13 != 0) || (k != 4 && bits e 12 8 != 0)
    || (match k with
        | 2 => decide (2 ≤ condVal e)
        | 3 => decide (2 ^ 32 ≤ condVal e)
        | 4 => false
        | _ => condVal e != 0)

/-- The trap of an entry at issue, if it has one (R323). -/
def State.condTrap (s : State) (t : Tid) (e : Nat) : Option TrapInfo :=
  let k := condKind e
  let a := condArg e
  if k = 0 ∨ 7 < k ∨ condReserved e then some { code := 1 }
  else if k = 4 ∧ 6 ≤ bits e 11 8 then some { code := 1 }
  else if (k = 2 ∨ k = 4) ∧ bits e 15 13 = 7 then some { code := 1 }
  else if (k = 6 ∨ k = 7) ∧ (s.ctx t.core t.ctx).streamCount t.ctx ≤ a then some { code := 1 }
  else if k = 5 ∧ 5 ≤ a then some { code := 1 }
  else if k = 4 ∧ a % 8 ≠ 0 then some { code := 5, opnd := 4, addr := a }
  else if k = 2 ∧ (s.bar t.core a).bad then some { code := 8, opnd := 4 }
  else if k = 2 ∧ (s.bar t.core a).e = 0 then some { code := 11 }
  else if k = 5 then s.chanTrap t a
  else none

/-- Whether a port has an element available (R164). -/
def State.available (s : State) (t : Tid) (n : Nat) : Bool :=
  let p := s.port t.core t.ctx n
  p.act && (if Conf.sink p.cfg then decide (p.lines.length < Conf.ring p.cfg)
    else p.ended || match p.lines with
      | l :: _ => l.full
      | [] => false)

/-- The comparison of kind 4. -/
def condCompare (e v : Nat) : Bool :=
  let c := (Cond.ofCode? (bits e 11 8)).getD .eq
  if bit e 12 then condHolds c (sgn 64 v) (sgn 64 (condVal e)) else condHolds c v (condVal e)

/-- Whether a condition holds now (Table 13-5); none where its word, or its barrier, is poisoned (R324, R422). -/
def State.condNow (s : State) (t : Tid) (e : Nat) : Option Bool :=
  let a := condArg e
  let c := s.ctx t.core t.ctx
  match condKind e with
  | 1 => some (c.tags.getLsbD a)
  | 2 => if (s.bar t.core a).bad then none else some ((s.bar t.core a).p != bit (condVal e) 0)
  | 3 => let m := (c.chan a).mark
         some (decide ((m + 2 ^ 32 - condVal e) % 2 ^ 32 < 2 ^ 31))
  | 4 => if s.badIn (spad t.core a) 8 then none else some (condCompare e (s.nat (spad t.core a) 8))
  | 5 => some (decide (0 < s.tokens t a))
  | 6 => some (s.available t a)
  | _ => some (s.drained t.core t.ctx a)

/-- SAT, or none where a word compared is poisoned. -/
def State.satBits (s : State) (t : Tid) : List Nat → Option Nat
  | [] => some 0
  | e :: es =>
    match s.condNow t e, s.satBits t es with
    | some h, some v => some (h.toNat + 2 * v)
    | _, _ => none

/-- Wait for own accesses that overlap the words of kind-4 entries (R353). -/
def awaitCondWords (k : Nat) : List Nat → Exec Unit
  | [] => pure ()
  | e :: es => do
    if condKind e = 4 then awaitOwn (spad k (condArg e)) 8 else pure ()
    awaitCondWords k es

/-- The words of kind-4 entries are read, as LDACQ reads (R224, R324). -/
def State.lookConds (s : State) (t : Tid) (es : List Nat) : State :=
  es.foldl (fun s e => if condKind e = 4 then s.look (some t) (spad t.core (condArg e)) 8 else s) s

/-- The first trap of a list of entries. -/
def checkConds (t : Tid) (es : List Nat) : Exec Unit := do
  let s ← get
  match firstSome (s.condTrap t) es with
  | some i => trap i
  | none => pure ()

/-- The entries that a WAIT reads. -/
def WaitSet.entries (c : WaitSet) : List Nat := (List.range c.n).map (condEntry c.blk)
/-- Whether the conditions that hold satisfy a WAIT (R323). -/
def WaitSet.met (c : WaitSet) (h : Nat) : Bool := if c.all then h == 2 ^ c.n - 1 else h != 0
/-- Whether a result word shows a barrier phase, which is an acquire, with TO or without (R324). -/
def WaitSet.acquires (c : WaitSet) (r : Nat) : Bool :=
  (List.range c.n).any fun i => bit r i && condKind (condEntry c.blk i) == 2

/-- The result word with which a WAIT ends now, `late` where its limit is over: none where it goes on, no word where one that it compares is
poisoned. The conditions come before the limit (R323). -/
def State.waitEnd (s : State) (t : Tid) (c : WaitSet) (late : Bool) : Option (Option Nat) :=
  match s.satBits t c.entries with
  | none => some none
  | some h => if c.met h then some (some h) else if late then some (some (h + 256)) else none

/-- What a WAIT waits for: as it has read it, or its block is read and checked now (R322, R323). -/
def waitSet (t : Tid) (o n : Nat) (all : Bool) (w : Option Stall) : Exec WaitSet :=
  match w.bind (·.conds) with
  | some c => pure c
  | none => do
    awaitOwn (spad t.core o) 64
    let s ← get
    set (s.look (some t) (spad t.core o) (16 * n))
    if s.badIn (spad t.core o) (16 * n) then poisonTrap 4
    else do
      let c : WaitSet := { all := all, n := n, blk := BitVec.ofNat 512 (s.nat (spad t.core o) 64) }
      checkConds t c.entries
      awaitCondWords t.core c.entries
      pure c

/-- The body of WAIT (R322 to R325): the block is read once, and conditions are tested in its turns; that the limit is over without
them shows at the end of a cycle (`State.pass`). -/
def waitBody (o limit : Nat) (all : Bool) (n : Nat) (write : Nat → Exec Unit) : Exec Next := do
  if o % 64 ≠ 0 ∨ 0x200000 < o + 64 then badAddress o
  else do
    let s ← get
    let t := s.cur.tid
    let w := s.myStall
    let c ← waitSet t o n all w
    modify fun s => s.lookConds t c.entries
    match (w.bind (·.latched)).orElse fun _ => s.waitEnd t c false with
    | some none => poisonTrap 4
    | some (some r) => do
      if c.acquires r then modify fun s => s.seeSr t
      write r
    | none => waitWith fun w => { w with deadline := some (w.deadline.getD (s.gtc + limit)), conds := some c }
    pure none

/-- `WAIT` (R323). -/
def execWait (h : ApHdr) (rd ra rb : BitVec 5) (off : BitVec 32) (all : Bool) (ncm1 : BitVec 2) (s : State) : Out :=
  apWord h true (do
    let (o, _) ← effAddr ra off
    let l ← needA rb 2
    waitBody o l.v.toNat all (ncm1.toNat + 1) fun r => writeA rd { v := BitVec.ofNat 64 r }) s

/-! ## Work lists (R333 to R337) -/

def WorkList.nch (w : WorkList) : Nat := bits w.cfg.toNat 63 48
def WorkList.nbm (w : WorkList) : Nat := bits w.cfg.toNat 47 32
def WorkList.bmoff (w : WorkList) : Nat := bits w.cfg.toNat 20 0
def WorkList.onChip (w : WorkList) : Nat := w.front.length + w.back.length
def WorkList.count (w : WorkList) : Nat := w.onChip + 512 * w.spN
def WorkList.capacity (w : WorkList) : Nat := 4096 + 512 * w.nch

/-- Append an entry with its poison: to the oldest part while nothing is behind it and half the chip is free, else behind (R333). -/
def WorkList.append (w : WorkList) (v : BitVec 32) (bad : Bool) : WorkList :=
  if w.spN = 0 ∧ w.back = [] ∧ w.front.length < 2048 then { w with front := w.front ++ [(v, bad)] }
  else { w with back := w.back ++ [(v, bad)] }

/-- The trap of the next form after a spill or refill fault (R337), which clears the fault. -/
def checkWorkList : Exec Unit := do
  let s ← get
  if s.me.wl.flt then
    let f := s.me.wl.desc
    stop (.trapWith (fun s => s.modMe fun c => { c with wl := { c.wl with flt := false } })
      { faultTrap (bits f.toNat 63 0) f with opnd := 15 })
  else pure ()

/-- `WLCFG` (R333). -/
def execWlcfg (h : ApHdr) (ra rb : BitVec 5) (s : State) : Out :=
  apWord h true (do
    let a ← needA ra 1
    let b ← needA rb 2
    checkWorkList
    let s ← get
    let w : WorkList := { base := a.v, cfg := b.v }
    if s.me.wl.count ≠ 0 ∨ bits b.v.toNat 31 21 ≠ 0 ∨ a.v.toNat % 2048 ≠ 0 ∨ (w.nch = 0 ∧ a.v ≠ 0) ∨ (w.nch ≠ 0 ∧ a.v = 0)
        ∨ w.bmoff % 8 ≠ 0 ∨ 0x200000 < w.bmoff + 8 * w.nbm then illegal
    else do
      set (s.modMe fun c => { c with wl := w })
      pure none) s

/-- Append, or hold while the chip is full and a spill must come first. -/
def appendWork (v : BitVec 32) (bad : Bool) : Exec Unit := do
  let s ← get
  if 4096 ≤ s.me.wl.onChip then hold
  else set (s.modMe fun c => { c with wl := c.wl.append v bad })

/-- `WLPUSH` (R334): its entry is moved, and carries the operand's poison (R16). -/
def execWlpush (h : ApHdr) (o : Op2) (s : State) : Out :=
  apWord h true (do
    let v ← readOp2 o
    checkWorkList
    let s ← get
    if s.me.wl.capacity ≤ s.me.wl.count then trap { code := 15 }
    else do
      appendWork (v.v.truncate 32) v.bad
      pure none) s

/-- The body of WLINS (R334): the bit is read, or tested and set, by an atomic of its scratchpad (R221, R224). A poisoned
bitmap byte traps, as every AP read of poison does (R202). -/
def wlinsBody (o : Op2) (pd : BitVec 3) : Exec Next := do
  let a ← needOp2 o
  checkWorkList
  let s ← get
  let w := s.me.wl
  let v := a.v.toNat % 2 ^ 32
  if 64 * w.nbm ≤ v then illegal
  else do
    let pa := spad s.cur.tid.core (w.bmoff + v / 8)
    awaitOwn pa 1
    let atomic := fun (s : State) => s.touch (some s.cur.tid) pa 1 true
    if s.badIn pa 1 then stop (.trapWith atomic { code := 8, opnd := 4 })
    else
      let old := (s.byte pa).getLsbD (v % 8)
      if w.capacity ≤ w.count ∧ old = false then stop (.trapWith atomic { code := 15 })
      else if old then do
        set (atomic s)
        writeP pd { v := false }
      else do
        appendWork (BitVec.ofNat 32 v) false
        modify fun s => s.store (some s.cur.tid) pa [s.byte pa ||| ((1 : BitVec 8) <<< (v % 8))] false
        writeP pd { v := true }
    pure none

/-- `WLINS` (R334). -/
def execWlins (h : ApHdr) (o : Op2) (pd : BitVec 3) (s : State) : Out := apWord h true (wlinsBody o pd) s

/-- `WLCLR` (R335). -/
def execWlclr (h : ApHdr) (s : State) : Out :=
  apWord h true (do
    modify fun s => s.modMe fun c => { c with wl := { base := c.wl.base, cfg := c.wl.cfg } }
    pure none) s

/-- `WLCNT` (R335). -/
def execWlcnt (h : ApHdr) (rd : BitVec 5) (s : State) : Out :=
  apWord h true (do
    let s ← get
    writeA rd { v := BitVec.ofNat 64 (s.me.wl.count + s.me.wl.flt.toNat * 2 ^ 63) }
    pure none) s

/-! ## Chains and job cards (R338, R339) -/

/-- `CHLINK` (R338). -/
def execChlink (h : ApHdr) (ra : BitVec 5) (chan : BitVec 2) (s : State) : Out :=
  apWord h true (do
    let a ← needA ra 1
    let s ← get
    if a.v.toNat % 64 ≠ 0 then misaligned a.v.toNat
    else if (s.me.chan chan.toNat).chain.isSome then illegal
    else do
      set (s.modMe fun c => c.setChan chan.toNat { c.chan chan.toNat with chain := some { next := some a.v.toNat } })
      pure none) s

/-- `CHKICK` (R338). -/
def execChkick (h : ApHdr) (sc : Scope) (chan : BitVec 2) (s : State) : Out :=
  apWord h true (do
    let s ← get
    match (s.me.chan chan.toNat).chain with
    | none => illegal
    | some ch => do
      awaitRelease sc
      set (s.modMe fun c => c.setChan chan.toNat { c.chan chan.toNat with chain := some { ch with running := true, failed := false } })
      pure none) s

/-- Whether the entries that a chain has started are over: their commands have issued and completed, and no post is still to be made
(R392). -/
def State.chainOver (s : State) (k x n : Nat) (c : Chain) : Bool :=
  !(((s.core k).outstanding x n).any (·.ofChain)) && c.posts.isEmpty && c.entry.isNone

/-- Stop the chain of a channel (R338). -/
def State.stopChain (s : State) (k x n : Nat) : State :=
  (s.unwait k x n).modCtx k x fun c => c.setChan n { c.chan n with chain := (c.chan n).chain.map Chain.stop }

/-- `CHQ` (R338). -/
def execChq (h : ApHdr) (rd : BitVec 5) (chan : BitVec 2) (s : State) : Out :=
  apWord h true (do
    let s ← get
    let k := s.cur.tid.core
    let x := s.cur.tid.ctx
    match (s.me.chan chan.toNat).chain with
    | none => writeA rd { v := 0 }
    | some _ => do
      let s := s.stopChain k x chan.toNat
      set s
      match (s.me.chan chan.toNat).chain with
      | some ch => do
        if s.chainOver k x chan.toNat ch then pure () else waitHere
        writeA rd { v := BitVec.ofNat 64 (ch.next.getD 0) }
      | none => pure ()
      modify fun s => s.modMe fun c => c.setChan chan.toNat { c.chan chan.toNat with chain := none }
    pure none) s

/-- The body of JPOST (R339). -/
def jpostBody (rd ra rb : BitVec 5) (off : BitVec 32) (sc : Scope) : Exec Next := do
  let b ← readA rb
  let (va, _) ← effAddr ra off
  let s ← get
  if s.busyA rd then hold
  else if va % 8 ≠ 0 then badAddress va
  else do
    awaitRelease sc
    let p ← translateA va 8 .atomic
    let s' ← get
    if p.mt ≠ 0 ∨ ¬ inDram p.pa then
      trap (faultTrap va (s'.typeDesc (s.rq s.cur.tid.core s.cur.tid.ctx 0) va 8 .atomic p.pa))
    else issueAccess .swap .atomic .q8 8 rd ra 0 off b {}

/-- `JPOST` (R339). -/
def execJpost (h : ApHdr) (rd ra rb : BitVec 5) (off : BitVec 32) (sc : Scope) (s : State) : Out :=
  apWord h true (jpostBody rd ra rb off sc) s

end Sys2Proof.Machine
end

