-- ==== Sys2Proof/Machine/Sched.lean ====
section
/-! DEFINITION. The end of a tile step: unbinding, slot tables, abandoning, halting (R343, R387, R402, R409). -/

namespace Sys2Proof.Machine
open Sys2Proof

/-! ## Slot tables (R387) -/

/-- The user contexts of a core that are bound, in ascending order. -/
def Core.boundCtxs (c : Core) : List Nat := (List.range 4).filter fun x => (c.ctx x).bind.isSome

/-- SLOTS for the bound contexts: slot s names c_(s mod m); with none, context 0. -/
def slotsOf (cs : List Nat) : Nat :=
  (List.range 16).foldl (fun a i => a + cs.getD (i % cs.length) 0 % 4 * 4 ^ i) 0

def rewriteSlot (v : BitVec 64) (cs : List Nat) : BitVec 64 :=
  if v.getLsbD 32 then v else BitVec.ofNat 64 (slotsOf cs)

/-- Keep the slot tables that still hold in a cycle in which one of them is written. -/
def Core.keepSlots (c : Core) (cc : Nat) : Core :=
  if c.slotWas.any (·.1 == cc) then c else { c with slotWas := some (cc, c.slotAp, c.slotXp) }

/-- Summit's rewriting of a core's slot tables at a bind and an unbind. -/
def State.rewriteSlots (s : State) (k : Nat) : State :=
  s.modCore k fun c => { c with slotAp := rewriteSlot c.slotAp c.boundCtxs, slotXp := rewriteSlot c.slotXp c.boundCtxs }

/-! ## Unbinding -/

/-- COOP clears when every bound context of the tenant has halted (R410). -/
def State.settleCoop (s : State) (ten : Nat) : State :=
  let busy := s.cores.any fun k => k.2.ctxs.any fun x => match x.2.bind with
    | some b => b.tenant == ten && !x.2.halted
    | none => false
  if busy then s else
    { s with dev := { s.dev with control := s.dev.control.put ten { s.dev.control.get {} ten with coop := false } } }

/-- A port whose codec request, if it had one, is over: its table is released (R96). -/
def Port.releaseTable (p : Port) : Port := { p with table := none }

/-- Take a context from its tile step. -/
def State.unbind (s : State) (k x : Nat) : State :=
  let ten := s.ctxTenant k x
  ((s.modCtx k x fun c => { c with
    bind := none
    ap := { c.ap with active := false, stall := none }
    xp := { c.xp with active := false, stall := none }
    ports := c.ports.map fun p => (p.1, p.2.releaseTable)
    trapped := false, pend := false, halted := false, yielding := false, atYield := false
    ending := false, redirect := none, elide := none }).rewriteSlots k).settleCoop ten

/-- Whether some context is bound to a tile step. -/
def State.stepBound (s : State) (id : Nat) : Bool :=
  s.cores.any fun k => k.2.ctxs.any fun x => match x.2.bind with
    | some b => b.step == id
    | none => false

/-- Count the end of a tile step in its node's run. -/
def State.countStep (s : State) (b : Bind) : State :=
  { s with dev := { s.dev with runs := s.dev.runs.map fun r => if r.id = b.run then { r with left := r.left - 1 } else r } }

/-- Tokens on their way to a context whose part of the step ends are dropped (log entry 76). -/
def State.dropTokens (s : State) (k x : Nat) : State :=
  { s with toks := s.toks.filter fun t => !(t.dst.core == k && t.dst.ctx == x) }

/-- The end of a context's tile step by AP DONE: the step is over when its last member is (R343). -/
def State.endStep (s : State) (k x : Nat) : State :=
  match (s.ctx k x).bind with
  | none => s
  | some b =>
    let s := (s.unbind k x).dropTokens k x
    if s.stepBound b.step then s else s.countStep b

/-- Note how a card will end, and dispatch nothing more of it (R378, R402). The first failure stands. A step set aside was bound
already, and goes on (log entry 86). -/
def State.failCard (s : State) (id st reason nidx ioff : Nat) : State :=
  { s with dev := { s.dev with
    cards := s.dev.cards.map fun c => if c.id = id ∧ c.fail = none then { c with fail := some (st, reason, nidx, ioff) } else c
    steps := s.dev.steps.filter fun t => t.card != id || t.aside.isSome
    runs := s.dev.runs.filter fun r => r.card != id || r.chain.isSome } }

/-- The instance offset of a card that an instance number has. -/
def State.ioff (s : State) (id inst : Nat) : Nat := inst - ((s.card id).map (·.inst)).getD inst

/-- Drop the pushes of words of a context that have issued and will not complete (R176). -/
def State.dropHeld (s : State) (k x : Nat) : State :=
  { s with toks := s.toks.filter fun t => !(t.held && t.src.core == k && t.src.ctx == x) }

/-- Abandon the tile step of a context (R402, R403): its halves stop, streams and chains end as AP DONE ends them, its card
ends with STATE 4. The context is unbound when its sinks have drained and its chains are over (log entry 84). -/
def State.abandon (s : State) (k x reason : Nat) : State :=
  match (s.ctx k x).bind with
  | none => s
  | some b =>
    let s := (List.range 16).foldl (fun s n => if (s.port k x n).act then s.sendEnd k x n else s) s
    let s := (List.range 4).foldl (fun s n => s.stopChain k x n) s
    let s := (s.dropHeld k x).modCtx k x fun c => { c with
      trapped := false, pend := false, ending := true, redirect := none, elide := none
      ap := { c.ap with active := false, stall := none }
      xp := { c.xp with active := false, stall := none } }
    s.failCard b.card 4 reason b.node (s.ioff b.card b.inst)

/-! ## Halting (R344, R409, R410) -/

/-- Whether Summit asks a context to halt at its next YIELD: a yield request, or a cooperative request of its tenant. -/
def State.yieldAsked (s : State) (k x : Nat) : Bool :=
  let c := s.ctx k x
  match c.bind with
  | some b => c.yielding || (s.dev.control.get {} b.tenant).coop
  | none => false

/-- Halt a context: both halves stop at the boundary where they stand. -/
def Ctx.halt (c : Ctx) (gtc : Nat) : Ctx :=
  if c.halted then c else
  let c := match c.elide with
    | some e => c.abort e 0 8
    | none => c
  { c with halted := true, ap := c.ap.pause gtc, xp := c.xp.pause gtc }

/-- Let a halted context go on; one that waits to be set aside stays halted (R411). -/
def Ctx.unhalt (c : Ctx) (gtc : Nat) : Ctx :=
  if c.atYield then c else { c with halted := false, ap := c.ap.unpause gtc, xp := c.xp.unpause gtc }

/-- Change the contexts of a core that are bound for a tenant. -/
def State.eachOf (s : State) (k ten : Nat) (f : Ctx → Ctx) : State :=
  (List.range 4).foldl (fun s x => match (s.ctx k x).bind with
    | some b => if b.tenant = ten then s.modCtx k x f else s
    | none => s) s

/-- Halt the contexts of a tenant on a core: COOP clears where none of the tenant's runs any more (R410). -/
def State.haltCore (s : State) (k ten : Nat) : State := (s.eachOf k ten fun c => c.halt s.gtc).settleCoop ten
def State.unhaltCore (s : State) (k ten : Nat) : State := s.eachOf k ten fun c => c.unhalt s.gtc

end Sys2Proof.Machine
end

