-- ==== Sys2Proof/WellFormed.lean ====
section
/-! DEFINITION. Well-formedness of instructions: the checks of R191 (and R167, R241, R293) on field values. -/

namespace Sys2Proof

/-- Type set S of Table 10-3. -/
def Fmt.isS : Fmt → Bool
  | .i8 | .i16 | .i32 => true
  | _ => false

/-- Type set N of Table 10-3. -/
def Fmt.isN : Fmt → Bool
  | .n8 | .n16 | .n32 => true
  | _ => false

/-- Type set A of Table 10-3: sets S and N. -/
def Fmt.isInt (f : Fmt) : Bool := f.isS || f.isN

/-- Any integer format of Table 02-1, the 4-bit ones included. -/
def Fmt.isInteger : Fmt → Bool
  | .i4 | .n4 => true
  | f => f.isInt

/-- A signed integer format. -/
def Fmt.isSigned : Fmt → Bool
  | .i4 => true
  | f => f.isS

/-- The weight formats of Table 11-1, codes 1h to 9h; the same formats are the activation formats (R275). -/
def Fmt.isWeight : Fmt → Bool
  | .f32 | .i16 | .n16 | .i32 | .n32 => false
  | _ => true

/-- An index within the level's limit (R167). -/
def Opnd.idxOk (o : Opnd) : Bool :=
  match o.lvl with
  | .main => true
  | .file => decide (o.idx.toNat ≤ 7)
  | .latch => decide (o.idx.toNat ≤ 1)
  | .port => decide (o.idx.toNat ≤ 15)

/-- A class V source field (R167): the rotate bit only at the main level. -/
def Opnd.wfSrc (o : Opnd) : Bool := o.idxOk && (!o.rot || o.lvl == .main)

/-- A class V destination field (R167): bit [10] only at a stream port. -/
def Opnd.wfDst (o : Opnd) : Bool := o.wfSrc && (!o.trap || o.lvl == .port)

/-- The pairs of formats of a conversion (R254). `nearest` is true for VCVT itself. -/
def cvtPairOk (dst src : Fmt) (nearest : Bool) : Bool :=
  dst != src &&
    (if dst.isInteger && src.isInteger then nearest && decide (src.bits ≤ dst.bits) else true)

/-- The pairs of formats of a narrowing (R256). -/
def narPairOk (dst src : Fmt) : Bool :=
  dst.isInteger && src.isInteger && decide (dst.bits < src.bits)

/-- PART lies below the number of parts of the narrow side (R255). -/
def partOk (dst src : Fmt) (part : BitVec 3) : Bool :=
  decide (part.toNat < (max dst.bits src.bits) / (min dst.bits src.bits))

/-- TYPE of a multiplication: 0 when the source is a port, else an activation format (R298, R275). -/
def actTypeOk (a : Opnd) (ty : Fmt) : Bool :=
  if a.lvl == .port then ty == .f32 else ty.isWeight

/-- The options of a weight load carry no further check of R191. -/
def MwldOpts.wf (_ : MwldOpts) : Bool := true

/-- The assigned special-register numbers (Table 07-2). -/
def srAssigned (n : Nat) : Bool :=
  [0x00, 0x01, 0x02, 0x03, 0x04, 0x05, 0x08, 0x09, 0x0A, 0x10, 0x11, 0x12, 0x13, 0x18, 0x20, 0x21, 0x22, 0x23, 0x24, 0x25,
   0x26, 0x28, 0x2C, 0x2D, 0x2E, 0x2F, 0x30, 0x31, 0x32].contains n

/-- The checks of R191 on the fields of one operation word that its typed form does not already carry. -/
def Instr.wf : Instr → Bool
  | .nop _ => true
  | .add _ _ _ _ => true
  | .sub _ _ _ _ => true
  | .mul _ _ _ _ => true
  | .mulh _ _ _ _ => true
  | .mulhn _ _ _ _ => true
  | .div _ _ _ _ => true
  | .divn _ _ _ _ => true
  | .rem _ _ _ _ => true
  | .remn _ _ _ _ => true
  | .adds _ _ _ _ => true
  | .subs _ _ _ _ => true
  | .addsn _ _ _ _ => true
  | .subsn _ _ _ _ => true
  | .and _ _ _ _ => true
  | .or _ _ _ _ => true
  | .xor _ _ _ _ => true
  | .andn _ _ _ _ => true
  | .orn _ _ _ _ => true
  | .shl _ _ _ _ => true
  | .shr _ _ _ _ => true
  | .sar _ _ _ _ => true
  | .rol _ _ _ _ => true
  | .ror _ _ _ _ => true
  | .min _ _ _ _ => true
  | .max _ _ _ _ => true
  | .minn _ _ _ _ => true
  | .maxn _ _ _ _ => true
  | .abs _ _ _ => true
  | .clz _ _ _ => true
  | .ctz _ _ _ => true
  | .popc _ _ _ => true
  | .bswap _ _ _ => true
  | .exts _ _ _ pos lenm1 => decide (pos.toNat + lenm1.toNat + 1 ≤ 64)
  | .extn _ _ _ pos lenm1 => decide (pos.toNat + lenm1.toNat + 1 ≤ 64)
  | .ins _ _ _ pos lenm1 => decide (pos.toNat + lenm1.toNat + 1 ≤ 64)
  | .movi _ _ _ => true
  | .movhi _ _ _ => true
  | .sel _ _ _ _ _ => true
  | .pcmp _ _ _ _ _ => true
  | .pcmpn _ _ _ _ _ => true
  | .pand _ _ _ _ => true
  | .por _ _ _ _ => true
  | .pxor _ _ _ _ => true
  | .pnot _ _ _ => true
  | .pset _ _ _ => true
  | .ptst _ _ _ _ => true
  | .br _ _ => true
  | .jmpr _ _ _ => true
  | .call _ _ _ => true
  | .ret _ _ => true
  | .loop _ _ _ => true
  | .loopImmediate _ _ _ => true
  | .lbrk _ => true
  | .ld _ _ _ _ _ => true
  | .st _ _ _ _ _ => true
  | .ldc _ _ _ _ _ => true
  | .ldacq _ _ _ _ _ _ => true
  | .strel _ _ _ _ _ _ => true
  | .lds _ _ _ _ _ => true
  | .sts _ _ _ _ _ => true
  | .aswap _ _ _ _ _ ty => decide (ty = .q8 ∨ ty = .i32 ∨ ty = .n32)
  | .acas _ _ _ _ _ ty _ => decide (ty = .q8 ∨ ty = .i32 ∨ ty = .n32)
  | .aadd _ _ _ _ _ ty => decide (ty = .q8 ∨ ty = .i32 ∨ ty = .n32)
  | .aand _ _ _ _ _ ty => decide (ty = .q8 ∨ ty = .i32 ∨ ty = .n32)
  | .aor _ _ _ _ _ ty => decide (ty = .q8 ∨ ty = .i32 ∨ ty = .n32)
  | .axor _ _ _ _ _ ty => decide (ty = .q8 ∨ ty = .i32 ∨ ty = .n32)
  | .amin _ _ _ _ _ ty => decide (ty = .q8 ∨ ty = .i32)
  | .amax _ _ _ _ _ ty => decide (ty = .q8 ∨ ty = .i32)
  | .aminn _ _ _ _ _ ty => decide (ty = .q8 ∨ ty = .n32)
  | .amaxn _ _ _ _ _ ty => decide (ty = .q8 ∨ ty = .n32)
  | .aminp _ _ _ _ _ _ => true
  | .fenceAcq _ _ => true
  | .fenceRel _ _ => true
  | .fenceSc _ _ => true
  | .slb _ _ _ _ _ => true
  | .slc _ => true
  | .slx _ _ => true
  | .ifence _ => true
  | .scfg _ _ _ _ => true
  | .sgo _ _ => true
  | .srewStart _ _ => true
  | .srewMark _ _ => true
  | .smark _ _ => true
  | .sfork _ _ _ _ => true
  | .send _ _ => true
  | .ssave _ _ _ _ => true
  | .ssaveb _ _ _ _ => true
  | .srstr _ _ _ _ => true
  | .sqry _ _ _ => true
  | .smask _ _ _ _ => true
  | .grd _ _ _ => true
  | .cpy _ _ _ _ => true
  | .cpyi _ _ _ _ off => decide (off.toNat < 2 ^ 21)
  | .wmrd _ _ _ _ => true
  | .cpq _ _ _ => true
  | .twait _ _ _ _ => true
  | .tffr _ _ _ _ => true
  | .wait _ _ _ _ _ _ _ => true
  | .binit _ _ _ => true
  | .barr _ _ _ _ => true
  | .barrx _ _ _ _ => true
  | .bwait _ _ _ _ => true
  | .wlcfg _ _ _ => true
  | .wlpush _ _ => true
  | .wlins _ _ _ => true
  | .wlclr _ => true
  | .wlcnt _ _ => true
  | .chlink _ _ _ => true
  | .chkick _ _ _ => true
  | .chq _ _ _ => true
  | .jpost _ _ _ _ _ sc => decide (sc = .device ∨ sc = .system)
  | .fork _ _ _ => true
  | .forkEntry _ => true
  | .rdv _ => true
  | .yield _ => true
  | .trap _ _ => true
  | .eret _ _ => true
  | .rdsr _ _ srn => srAssigned srn.toNat
  | .wrsr _ _ srn => srAssigned srn.toNat
  | .gtcrd _ _ => true
  | .apDone _ => true
  | .templateStoreLiteral tgt _ => decide (tgt.toNat < 62)
  | .vadd _ d a b ty => d.wfDst && a.wfSrc && b.wfSrc && ty.isInt
  | .vsub _ d a b ty => d.wfDst && a.wfSrc && b.wfSrc && ty.isInt
  | .vmul _ d a b ty => d.wfDst && a.wfSrc && b.wfSrc && ty.isInt
  | .vmulh _ d a b ty => d.wfDst && a.wfSrc && b.wfSrc && ty.isS
  | .vmulhn _ d a b ty => d.wfDst && a.wfSrc && b.wfSrc && ty.isN
  | .vadds _ d a b ty => d.wfDst && a.wfSrc && b.wfSrc && ty.isS
  | .vsubs _ d a b ty => d.wfDst && a.wfSrc && b.wfSrc && ty.isS
  | .vaddsn _ d a b ty => d.wfDst && a.wfSrc && b.wfSrc && ty.isN
  | .vsubsn _ d a b ty => d.wfDst && a.wfSrc && b.wfSrc && ty.isN
  | .vmad _ d a b c ty => d.wfDst && a.wfSrc && b.wfSrc && c.wfSrc && ty.isInt
  | .vabs _ d a ty => d.wfDst && a.wfSrc && ty.isS
  | .vand _ d a b ty => d.wfDst && a.wfSrc && b.wfSrc && ty.isInt
  | .vor _ d a b ty => d.wfDst && a.wfSrc && b.wfSrc && ty.isInt
  | .vxor _ d a b ty => d.wfDst && a.wfSrc && b.wfSrc && ty.isInt
  | .vandn _ d a b ty => d.wfDst && a.wfSrc && b.wfSrc && ty.isInt
  | .vshl _ d a b ty => d.wfDst && a.wfSrc && b.wfSrc && ty.isInt
  | .vshr _ d a b ty => d.wfDst && a.wfSrc && b.wfSrc && ty.isInt
  | .vsar _ d a b ty => d.wfDst && a.wfSrc && b.wfSrc && ty.isInt
  | .vclz _ d a ty => d.wfDst && a.wfSrc && ty.isInt
  | .vpopc _ d a ty => d.wfDst && a.wfSrc && ty.isInt
  | .vmin _ d a b ty => d.wfDst && a.wfSrc && b.wfSrc && ty.isS
  | .vmax _ d a b ty => d.wfDst && a.wfSrc && b.wfSrc && ty.isS
  | .vminn _ d a b ty => d.wfDst && a.wfSrc && b.wfSrc && ty.isN
  | .vmaxn _ d a b ty => d.wfDst && a.wfSrc && b.wfSrc && ty.isN
  | .vcmp _ _ a b _ => a.wfSrc && b.wfSrc
  | .vcmpn _ _ a b _ => a.wfSrc && b.wfSrc
  | .vsel _ d a b _ => d.wfDst && a.wfSrc && b.wfSrc
  | .vdot4 _ d a b c => d.wfDst && a.wfSrc && b.wfSrc && c.wfSrc
  | .vdot4n _ d a b c => d.wfDst && a.wfSrc && b.wfSrc && c.wfSrc
  | .vdot4s _ d a b c => d.wfDst && a.wfSrc && b.wfSrc && c.wfSrc
  | .vdot4sn _ d a b c => d.wfDst && a.wfSrc && b.wfSrc && c.wfSrc
  | .vfadd _ d a b => d.wfDst && a.wfSrc && b.wfSrc
  | .vfaddzr _ d a b => d.wfDst && a.wfSrc && b.wfSrc
  | .vfaddfl _ d a b => d.wfDst && a.wfSrc && b.wfSrc
  | .vfaddcl _ d a b => d.wfDst && a.wfSrc && b.wfSrc
  | .vfsub _ d a b => d.wfDst && a.wfSrc && b.wfSrc
  | .vfsubzr _ d a b => d.wfDst && a.wfSrc && b.wfSrc
  | .vfsubfl _ d a b => d.wfDst && a.wfSrc && b.wfSrc
  | .vfsubcl _ d a b => d.wfDst && a.wfSrc && b.wfSrc
  | .vfmul _ d a b => d.wfDst && a.wfSrc && b.wfSrc
  | .vfmulzr _ d a b => d.wfDst && a.wfSrc && b.wfSrc
  | .vfmulfl _ d a b => d.wfDst && a.wfSrc && b.wfSrc
  | .vfmulcl _ d a b => d.wfDst && a.wfSrc && b.wfSrc
  | .vfma _ d a b c => d.wfDst && a.wfSrc && b.wfSrc && c.wfSrc
  | .vfmazr _ d a b c => d.wfDst && a.wfSrc && b.wfSrc && c.wfSrc
  | .vfmafl _ d a b c => d.wfDst && a.wfSrc && b.wfSrc && c.wfSrc
  | .vfmacl _ d a b c => d.wfDst && a.wfSrc && b.wfSrc && c.wfSrc
  | .vfdiv _ d a b => d.wfDst && a.wfSrc && b.wfSrc
  | .vfdivzr _ d a b => d.wfDst && a.wfSrc && b.wfSrc
  | .vfsqrt _ d a => d.wfDst && a.wfSrc
  | .vfmin _ d a b => d.wfDst && a.wfSrc && b.wfSrc
  | .vfmax _ d a b => d.wfDst && a.wfSrc && b.wfSrc
  | .vfabs _ d a => d.wfDst && a.wfSrc
  | .vfneg _ d a => d.wfDst && a.wfSrc
  | .vfcmp _ _ a b _ => a.wfSrc && b.wfSrc
  | .vfexp _ d a => d.wfDst && a.wfSrc
  | .vfscale _ d a b => d.wfDst && a.wfSrc && b.wfSrc
  | .vfrint _ d a => d.wfDst && a.wfSrc
  | .vfrintfl _ d a => d.wfDst && a.wfSrc
  | .vcvt _ d a ty ty2 part => d.wfDst && a.wfSrc && cvtPairOk ty ty2 true && partOk ty ty2 part
  | .vcvtzr _ d a ty ty2 part => d.wfDst && a.wfSrc && cvtPairOk ty ty2 false && partOk ty ty2 part
  | .vcvtfl _ d a ty ty2 part => d.wfDst && a.wfSrc && cvtPairOk ty ty2 false && partOk ty ty2 part
  | .vcvtcl _ d a ty ty2 part => d.wfDst && a.wfSrc && cvtPairOk ty ty2 false && partOk ty ty2 part
  | .vnars _ d a ty ty2 part => d.wfDst && a.wfSrc && narPairOk ty ty2 && partOk ty ty2 part
  | .vnarw _ d a ty ty2 part => d.wfDst && a.wfSrc && narPairOk ty ty2 && partOk ty ty2 part
  | .vqblk _ d a => d.wfDst && a.wfSrc
  | .vdqblk _ d a => d.wfDst && a.wfSrc
  | .vredf _ _ a => a.wfSrc
  | .vredfmax _ _ a => a.wfSrc
  | .vredfmin _ _ a => a.wfSrc
  | .vred _ _ a ty => a.wfSrc && ty.isInt
  | .vreds _ _ a ty => a.wfSrc && ty.isInt
  | .vredmax _ _ a ty => a.wfSrc && ty.isInt
  | .vredmin _ _ a ty => a.wfSrc && ty.isInt
  | .vscan _ d a _ ty _ => d.wfDst && a.wfSrc && (ty == .i32 || ty == .n32)
  | .vbpfx _ d a _ => d.wfDst && a.wfSrc
  | .visect _ d a b c _ _ => d.wfDst && a.wfSrc && b.wfSrc && c.wfSrc
  | .vcmprs _ d a => d.wfDst && a.wfSrc
  | .vexpnd _ d a => d.wfDst && a.wfSrc
  | .vperm _ d a b => d.wfDst && a.wfSrc && b.wfSrc
  | .vbcast _ d a _ => d.wfDst && a.wfSrc
  | .vrotl _ d a _ => d.wfDst && a.wfSrc
  | .vslide _ d a b _ => d.wfDst && a.wfSrc && b.wfSrc
  | .vzip _ d a b _ => d.wfDst && a.wfSrc && b.wfSrc
  | .vunzip _ d a b _ => d.wfDst && a.wfSrc && b.wfSrc
  | .vmov _ d a => d.wfDst && a.wfSrc
  | .vsplat _ d _ => d.wfDst
  | .mand h _ _ _ => h.lmask == 0
  | .mor h _ _ _ => h.lmask == 0
  | .mxor h _ _ _ => h.lmask == 0
  | .mnot h _ _ => h.lmask == 0
  | .mpopc h _ _ => h.lmask == 0
  | .msetx h _ _ _ => h.lmask == 0
  | .mgetx h _ _ _ => h.lmask == 0
  | .xadd h _ _ _ => h.lmask == 0
  | .xsub h _ _ _ => h.lmask == 0
  | .xmul h _ _ _ => h.lmask == 0
  | .xand h _ _ _ => h.lmask == 0
  | .xior h _ _ _ => h.lmask == 0
  | .xxor h _ _ _ => h.lmask == 0
  | .xshl h _ _ _ => h.lmask == 0
  | .xshr h _ _ _ => h.lmask == 0
  | .xmovi h _ _ => h.lmask == 0
  | .xlane h _ a _ => h.lmask == 0 && a.wfSrc
  | .xloop h _ nr _ => h.lmask == 0 && decide (nr.toNat ≤ 8)
  | .xloopImmediate h nr _ _ => h.lmask == 0 && decide (nr.toNat ≤ 8)
  | .xbr h _ => h.lmask == 0
  | .xbrc h _ _ => h.lmask == 0
  | .xbend h _ => h.lmask == 0
  | .vld _ _ _ _ => true
  | .vldIndexed _ _ _ b ty _ => b.wfSrc && ty.isInt
  | .vst _ _ b _ => b.wfSrc
  | .vstIndexed _ _ b c ty _ => b.wfSrc && c.wfSrc && ty.isInt
  | .mwldF4 h a w => h.lmask == 0 && a.wfSrc && w.wf
  | .mwldE4m3 h a w => h.lmask == 0 && a.wfSrc && w.wf
  | .mwldE5m2 h a w => h.lmask == 0 && a.wfSrc && w.wf
  | .mwldBf16 h a w => h.lmask == 0 && a.wfSrc && w.wf
  | .mwldF16 h a w => h.lmask == 0 && a.wfSrc && w.wf
  | .mwldI8 h a w => h.lmask == 0 && a.wfSrc && w.wf
  | .mwldN8 h a w => h.lmask == 0 && a.wfSrc && w.wf
  | .mwldI4 h a w => h.lmask == 0 && a.wfSrc && w.wf
  | .mwldN4 h a w => h.lmask == 0 && a.wfSrc && w.wf
  | .mwid h ty => h.lmask == 0 && ty.isWeight
  | .mwperm h a ty => h.lmask == 0 && a.wfSrc && ty.isWeight
  | .mwones h ty => h.lmask == 0 && ty.isWeight
  | .mwsel h _ ty => h.lmask == 0 && ty.isWeight
  | .mwswp h => h.lmask == 0
  | .mmul h a ty _ => h.lmask == 0 && a.wfSrc && actTypeOk a ty
  | .mmulz h a ty _ => h.lmask == 0 && a.wfSrc && actTypeOk a ty
  | .mmulm h a ty _ _ _ _ _ => h.lmask == 0 && a.wfSrc && actTypeOk a ty
  | .mmulmz h a ty _ _ _ _ _ => h.lmask == 0 && a.wfSrc && actTypeOk a ty
  | .macrd h _ _ _ _ => h.lmask == 0
  | .macrdScratchpad h _ _ _ _ => h.lmask == 0
  | .macclr h row nrm1 => h.lmask == 0 && decide (row.toNat + nrm1.toNat ≤ 63)
  | .mscoutQuery h a _ => h.lmask == 0 && a.wfSrc
  | .mscoutKey h a _ => h.lmask == 0 && a.wfSrc
  | .mscoutScore h d a eidx _ _ _ nsegm1 => h.lmask == 0 && d.wfDst && a.wfSrc && d.lvl != .port && decide (eidx.toNat < 16 * (nsegm1.toNat + 1))
  | .mcairn _ _ a _ _ => a.wfSrc
  | .gand h _ _ _ => h.lmask == 0
  | .gor h _ _ _ => h.lmask == 0
  | .gandn h _ _ _ => h.lmask == 0
  | .gset h _ _ => h.lmask == 0
  | .gget h _ _ => h.lmask == 0
  | .xpRdv h => h.lmask == 0
  | .xpWait h _ _ _ _ _ _ => h.lmask == 0
  | .wlpopv _ _ _ => true
  | .xpIfence h => h.lmask == 0
  | .xpRdsr h _ _ srn => h.lmask == 0 && srAssigned srn.toNat
  | .xpWrsr h _ srn => h.lmask == 0 && srAssigned srn.toNat
  | .xpYield h => h.lmask == 0
  | .xpTrap h _ => h.lmask == 0
  | .xpDone h => h.lmask == 0
  | .xpNop h => h.lmask == 0
  | .xpFenceAcq h _ => h.lmask == 0
  | .xpFenceRel h _ => h.lmask == 0
  | .xpFenceSc h _ => h.lmask == 0
  | .stallRelease _ => true
  | .waitTimeout _ => true
  | .watchdog _ => true
  | .loadDataArrival _ => true
  | .longLatencyDelivery _ => true
  | .tokenArrival _ => true
  | .memoryRequestArrival _ _ => true
  | .atomicPerform _ _ => true
  | .pageTableWalk _ _ _ _ => true
  | .copy _ _ => true
  | .copyToImem _ _ => true
  | .copyToTemplateStore _ _ => true
  | .publish _ _ => true
  | .gather _ _ => true
  | .rread _ _ => true
  | .rreadReply _ _ _ => true
  | .pool _ _ => true
  | .csr _ _ => true
  | .decode _ _ => true
  | .encode _ _ => true
  | .hist _ _ => true
  | .build _ _ => true
  | .copyCompletion _ _ => true
  | .almanacRelease _ _ => true
  | .codecDecodeBlock _ => true
  | .codecEncodeBlock _ => true
  | .chainEntryFetch _ _ _ => true
  | .chainSlotConsume _ _ _ => true
  | .chainPost _ _ _ => true
  | .ringAuditEvent _ _ _ => true
  | .triggerLaunch _ _ => true
  | .streamElementGenerate _ _ _ => true
  | .streamLineFull _ _ _ _ => true
  | .streamDrain _ _ _ => true
  | .maskLatch _ _ _ => true
  | .peerElementArrival _ => true
  | .endMarkerArrival _ => true
  | .workListSpill _ _ => true
  | .workListRefill _ _ => true
  | .arrayOperation _ => true
  | .scoutOperation _ => true
  | .deferredPoisonTrap _ _ => true
  | .barrierArrivalMessage _ => true
  | .handlerDispatch _ => true
  | .correctableErrorFreeze _ => true
  | .freezeEnd _ => true
  | .msixWrite _ => true
  | .tailSwapReport _ _ => true
  | .stepBind _ _ => true
  | .gangRelease _ => true
  | .transformNodeStart _ => true
  | .nodeCompletion _ => true
  | .cardCompletion _ => true
  | .stepAgeing _ => true
  | .yieldRequest _ _ => true
  | .setAside _ => true
  | .qtailWrite _ _ _ => true
  | .ctrWrite _ _ _ => true
  | .ccfgWrite _ _ _ => true
  | .lpost _ _ => true
  | .forcedHalt _ => true
  | .haltRelease _ => true
  | .cooperativeRequest _ => true
  | .swapOut _ => true
  | .swapIn _ => true
  | .swapExchange _ => true
  | .tlbiWholeTenant _ => true
  | .tlbiRange _ _ => true
  | .tlbInvalidationComplete _ => true
  | .parkqRead _ => true
  | .parkResume _ _ _ => true
  | .parkDeliver _ _ _ => true
  | .cecountRead _ => true
  | .lostRead _ => true
  | .cctlResume _ _ => true
  | .cctlParkResume _ _ _ => true
  | .cctlParkDeliver _ _ _ => true
  | .cpartMove _ _ => true
  | .cpartMoveComplete _ => true
  | .retrain  => true
  | .portModeOff _ => true
  | .portModeNymay _ => true
  | .portModeIngress _ => true
  | .portCounterRead _ _ => true
  | .registerWrite _ _ _ _ => true
  | .vfFlr _ => true
  | .pf0Flr  => true
  | .hostPostedWrite _ _ _ => true
  | .hostRead _ _ _ _ => true
  | .hostAtomicop _ _ _ _ _ => true
  | .spdmRequest _ => true
  | .deviceReset  => true
  | .firmwareImageVerify  => true
  | .thermalWarning _ => true
  | .thermalTrip _ => true
  | .bridgeRetrainEvent  => true
  | .bridgeLinkDown  => true
  | .bridgeTrainingComplete  => true
  | .nymayLinkDown _ => true
  | .nymayRequestArrival _ _ _ _ _ => true
  | .gvspLeader _ _ _ _ _ => true
  | .gvspPayload _ _ _ _ => true
  | .gvspTrailer _ _ _ => true
  | .gvspPacketRefused _ => true
  | .frameTimeout _ => true
  | .hostIngressFrame _ _ => true
  | .timeSyncMessage  => true
  | .cxlMemRequest _ _ _ _ => true
  | .nymayLinkRetrain _ => true
  | .ethernetLinkUp _ => true

end Sys2Proof
end

