-- ==== Sys2Proof/Machine/ApSystem.lean ====
section
/-! DEFINITION. The halves, the tile step, special registers (R340 to R348). -/

namespace Sys2Proof.Machine
open Sys2Proof

/-- The other half of a context. -/
def otherHalf (t : Tid) : Tid := { t with half := if t.half = .ap then .xp else .ap }

/-! ## FORK and RDV (R24, R25, R340, R341) -/

/-- Start the XP at an entry point. -/
def forkTo (entry : Nat) : Exec Next := do
  let s ← get
  if s.me.xp.active then illegal
  else if entry % 4 ≠ 0 then misaligned entry
  else do
    awaitRelease .context
    set (s.modMe fun c => { c with xp := { c.xp with pc := entry, active := true, stall := none, rdv := .none, srSeen := [] } })
    pure none

/-- `FORK` (R340). -/
def execFork (h : ApHdr) (ra : BitVec 5) (off : BitVec 32) (s : State) : Out :=
  apWord h true (do
    let a ← needA ra 1
    forkTo (a.v + off.signExtend 64).toNat) s

/-- `FORK entry` (R340). -/
def execForkEntry (h : ApHdr) (s : State) : Out :=
  apWord h true (do
    let s ← get
    match s.me.bind with
    | some b => if s.cur.tid.ctx = 4 then illegal else forkTo b.xentry
    | none => illegal) s

def setRdv (t : Tid) (r : Rdv) : Exec Unit := modify fun s => s.modHalf t fun h => { h with rdv := r }

/-- The body of RDV for either half (R25). -/
def rdvBody : Exec Next := do
  let s ← get
  let t := s.cur.tid
  let o := otherHalf t
  if (s.half t).rdv = .met then setRdv t .none
  else if (s.half t).rdv = .arrived then waitHere
  else do
    awaitRelease .context
    if (s.half o).rdv = .arrived then setRdv o .met
    else do
      setRdv t .arrived
      waitHere
  modify fun s => s.seeSr t
  pure none

/-- `RDV` (R341). -/
def execRdv (h : ApHdr) (s : State) : Out := apWord h true rdvBody s

/-! ## YIELD, TRAP, ERET (R344 to R346) -/

/-- The body of YIELD: the context halts at this boundary where a pre-emption asks for it (R344, R410). -/
def yieldBody : Exec Next := fun s =>
  let k := s.cur.tid.core
  let x := s.cur.tid.ctx
  if s.yieldAsked k x then
    let s' := (s.retire s.nextId none).modCtx k x fun c => { c.halt s.gtc with atYield := c.yielding }
    .error (.ended (s'.settleCoop (s'.ctxTenant k x)))
  else .ok (none, s)

/-- `YIELD` (R344). -/
def execYield (h : ApHdr) (s : State) : Out := apWord h true yieldBody s

/-- `TRAP` (R345). -/
def execTrap (h : ApHdr) (code : BitVec 16) (s : State) : Out :=
  apWord h true (stop (.soft { code := 14, swcode := code.toNat })) s

/-- SR_TRAPPEND [3:0] of a core: user contexts trapped and not yet resumed, that the system context serves (Table 16-4). -/
def Core.trapPend (c : Core) : Nat :=
  (List.range 4).foldl (fun a x => if (c.ctx x).pend then a + 2 ^ x else a) 0

/-- The ports that await service, in order (R405): those in the queue that are still parked. -/
def Core.parkList (c : Core) : List (Nat × Nat) :=
  c.parkQ.filter fun p => ((c.ctx p.1).port p.2).act && ((c.ctx p.1).port p.2).park

/-- Return the system context's AP to idle. -/
def idleSystem : Exec Unit := modify fun s =>
  (s.modCore s.cur.tid.core fun c => { c with handling := none }).modMe fun c => { c with ap := { c.ap with active := false } }

/-- `ERET` (R346, R402). It reads what the handler has written to the record (R353), and orders no memory (R350). An ERET in the
cycle of a RESUME of the same context is ignored (R448; log entry 85). -/
def execEret (h : ApHdr) (tctx : BitVec 2) (s : State) : Out :=
  apWord h true (do
    let s ← get
    let k := s.cur.tid.core
    let x := tctx.toNat
    if s.cur.tid.ctx ≠ 4 then illegal
    else if (s.core k).trapPend = 0 then idleSystem
    else if !(s.ctx k x).trapped then
      if (s.ctx k x).resumed = some s.cc then idleSystem else illegal
    else do
      let base := spad k (bits (s.ctx k x).trapCause.toNat 44 32 * 256)
      awaitOwn (base + 8) 8
      awaitOwn (base + 72) 1
      match s.returnFromTrap k x (fun s c => s.abandon k x c) with
      | none => illegal
      | some s => do
        set s
        idleSystem
    pure none) s

/-! ## Special registers (R179, Table 07-2) -/

/-- Coordinates as 16-bit fields. -/
def coordWord (cs : List Nat) : Nat := catWords (cs.take 4)

/-- The rank of a core in a gang of a shape (Table 01-3). -/
def rankOf (shape k : Nat) : Nat :=
  match shape with
  | 2 => k % 8 | 3 => k % 32 | 4 => k % 128 | 5 => k | _ => 0

/-- The numbers that only the system context may name (Table 07-2). -/
def srSystem (n : Nat) : Bool :=
  [0x22, 0x23, 0x24, 0x25, 0x26, 0x2C, 0x2D, 0x2E, 0x2F, 0x30, 0x31, 0x32].contains n
/-- Registers with an RW or WO field. -/
def srWritable (n : Nat) : Bool := [0x18, 0x21, 0x23, 0x25, 0x30, 0x31, 0x32].contains n

/-- Main vectors allocated (Table 07-2; the system context: log entry 4). -/
def Ctx.mainAlloc (c : Ctx) (x : Nat) : Nat := if x = 4 then 8 else match c.bind with
  | some b => b.nmain
  | none => 0

/-- SR_TRAPCAUSE: for the system context while a handler runs, the trap being handled (R400). -/
def State.trapCauseOf (s : State) (k x : Nat) : Nat :=
  match if x = 4 then (s.core k).handling else none with
  | some y => (s.ctx k y).trapCause.toNat
  | none => (s.ctx k x).trapCause.toNat

/-- SR_TENANT (Table 07-2). -/
def State.tenantWord (s : State) (k x : Nat) : Nat :=
  if x = 4 then
    let p := s.dev.cparts.get {} (k / 8)
    p.ten + p.valid.toNat * 16
  else s.ctxTenant k x + 16

/-- What a special register holds. -/
def State.srNow (s : State) (t : Tid) (n : Nat) : Nat :=
  let k := t.core
  let x := t.ctx
  let co := s.core k
  let c := s.ctx k x
  let b : Bind := c.bind.getD {}
  match n with
  | 0x00 => Config.archRev.toNat
  | 0x01 => k
  | 0x02 => x
  | 0x03 => s.tenantWord k x
  | 0x04 => b.shape
  | 0x05 => rankOf b.shape k
  | 0x08 => coordWord b.coord
  | 0x09 => coordWord ((b.coord.drop 4).take 2)
  | 0x0A => b.inst
  | 0x10 => c.mainAlloc x
  | 0x11 => c.streamCount x
  | 0x12 => (List.range 5).foldl (fun a i => a + s.tokens t i * 16 ^ i) 0
  | 0x13 => (List.range 16).foldl (fun a i => if (c.port i).eflag then a + 2 ^ i else a) 0
  | 0x18 => c.copyStat.toNat
  | 0x20 => s.trapCauseOf k x
  | 0x21 => c.trapArea.toNat
  | 0x22 => co.trapPend + (if co.parkList.isEmpty then 0 else 16)
  | 0x23 => co.trapEntry.toNat
  | 0x24 => match co.parkList with
    | [] => 0
    | (px, pn) :: _ => 2 ^ 15 + px * 2 ^ 9 + pn
  | 0x26 => co.ceCount.toNat
  | 0x28 => s.gtc
  | 0x2C => bits co.parkDesc.toNat 63 0
  | 0x2D => bits co.parkDesc.toNat 127 64
  | 0x2E => bits co.parkDesc.toNat 191 128
  | 0x2F => bits co.parkDesc.toNat 255 192
  | 0x30 => co.slotAp.toNat
  | 0x31 => co.slotXp.toNat
  | 0x32 => co.watchdog.toNat
  | _ => 0

/-- The value a read of a special register returns: what the half still sees of one that the other half has written (R347). -/
def State.srValue (s : State) (t : Tid) (n : Nat) : Nat :=
  if (s.half t).srSeen.has n then ((s.half t).srSeen.get 0 n).toNat else s.srNow t n

/-- Before a half writes a special register: the other half goes on seeing what it sees (R347; log entry 99). -/
def State.hideSr (s : State) (t : Tid) (n : Nat) : State :=
  if [0x21, 0x23, 0x30, 0x31, 0x32].contains n then
    let v := BitVec.ofNat 64 (s.srValue (otherHalf t) n)
    (s.modHalf (otherHalf t) fun h => { h with srSeen := h.srSeen.put n v }).modHalf t fun h => { h with srSeen := h.srSeen.erase n }
  else s

/-- A read of SR_PARKQ takes the port from the queue and latches its descriptor (R405). -/
def State.takePark (s : State) (k : Nat) : State :=
  match (s.core k).parkList with
  | [] => s
  | (px, pn) :: q => s.modCore k fun c => { c with parkQ := q, parkDesc := ((c.ctx px).port pn).fault }

/-- What a read of a special register changes (RC fields). -/
def State.srReadEffect (s : State) (k n : Nat) : State :=
  match n with
  | 0x24 => s.takePark k
  | 0x26 => s.modCore k fun c => { c with ceCount := 0 }
  | _ => s

/-- Resume a parked port: PARK clears, and the engine translates again (R77, R405). -/
def State.parkResume (s : State) (k x n : Nat) : State :=
  let s := if (s.port k x n).act && (s.port k x n).park then s.modPort k x n fun p => { p with park := false, fault := 0 } else s
  s.modCore k fun c => { c with parkQ := c.parkQ.filter (· != (x, n)) }

/-- Deliver the fault of a parked port: FLT (R162, R405). -/
def State.parkDeliver (s : State) (k x n : Nat) : State :=
  let s := if (s.port k x n).act && (s.port k x n).park then s.modPort k x n fun p => p.fail p.fltPos p.fault else s
  s.modCore k fun c => { c with parkQ := c.parkQ.filter (· != (x, n)) }

def State.parkAct (s : State) (k : Nat) (v : Nat) : State :=
  let x := bits v 11 9
  let n := bits v 3 0
  match bits v 17 16 with
  | 1 => s.parkResume k x n
  | 2 => s.parkDeliver k x n
  | _ => s

/-- A write of a special register: its RW and WO fields take the value (R347). -/
def State.srWrite (s : State) (k x n v : Nat) : State :=
  match n with
  | 0x18 => s.modCtx k x fun c => { c with copyStat := BitVec.ofNat 64 (bits v 20 12 * 2 ^ 12 + bits v 0 0) }
  | 0x21 => s.modCtx k x fun c => { c with trapArea := BitVec.ofNat 64 (bits v 20 8 * 2 ^ 8) }
  | 0x23 => s.modCore k fun c => { c with trapEntry := BitVec.ofNat 64 (bits v 17 2 * 4) }
  | 0x25 => s.parkAct k v
  | 0x30 => s.modCore k fun c => { c.keepSlots (s.coreCc k) with slotAp := BitVec.ofNat 64 (bits v 32 0) }
  | 0x31 => s.modCore k fun c => { c.keepSlots (s.coreCc k) with slotXp := BitVec.ofNat 64 (bits v 32 0) }
  | 0x32 => s.modCore k fun c => { c with watchdog := BitVec.ofNat 64 (bits v 31 0) }
  | _ => s

/-- The checks of R179. -/
def checkSr (n : Nat) (wr : Bool) : Exec Unit := do
  let s ← get
  if !srAssigned n || (srSystem n && s.cur.tid.ctx != 4) || (wr && !srWritable n) then illegal else pure ()

/-- Read a special register of the current half. -/
def readSr (n : Nat) : Exec Nat := do
  checkSr n false
  let s ← get
  set (s.srReadEffect s.cur.tid.core n)
  pure (s.srValue s.cur.tid n)

/-- Write a special register of the current context. -/
def writeSr (n : Nat) (v : BitVec 64) : Exec Unit := do
  checkSr n true
  modify fun s => (s.hideSr s.cur.tid n).srWrite s.cur.tid.core s.cur.tid.ctx n v.toNat

/-- `RDSR` (R347). -/
def execRdsr (h : ApHdr) (rd : BitVec 5) (srn : BitVec 8) (s : State) : Out :=
  apWord h false (do
    let v ← readSr srn.toNat
    writeA rd { v := BitVec.ofNat 64 v }
    pure none) s

/-- `WRSR` (R347). -/
def execWrsr (h : ApHdr) (ra : BitVec 5) (srn : BitVec 8) (s : State) : Out :=
  apWord h true (do
    checkSr srn.toNat true
    let a ← needA ra 1
    writeSr srn.toNat a.v
    pure none) s

/-- `GTCRD` (R348). -/
def execGtcrd (h : ApHdr) (rd : BitVec 5) (s : State) : Out :=
  apWord h false (do
    let s ← get
    writeA rd { v := BitVec.ofNat 64 s.gtc }
    pure none) s

/-! ## DONE (R343) -/

/-- End every active port as SEND does (R343 steps 2 and 3). -/
def State.endPorts (s : State) (k x : Nat) : State :=
  (List.range 16).foldl (fun s n => if (s.port k x n).act then s.sendEnd k x n else s) s

/-- Whether every sink has drained, and no element of a port is on its way. -/
def State.sinksDrained (s : State) (k x : Nat) : Bool :=
  (List.range 16).all fun n =>
    !(s.port k x n).act || !Conf.sink (s.port k x n).cfg || s.drained k x n

/-- Whether every chain of a context has stopped and is over. -/
def State.chainsOver (s : State) (k x : Nat) : Bool :=
  (List.range 4).all fun n => match ((s.ctx k x).chan n).chain with
    | some c => s.chainOver k x n c
    | none => true

/-- Whether every access of both halves has performed (R343 step 7). -/
def State.allPerformed (s : State) (k x : Nat) : Bool :=
  (s.before ⟨k, x, .ap⟩ .system true).isEmpty && (s.before ⟨k, x, .xp⟩ .system true).isEmpty

/-- A sink of a context has ended its drain with FLT: its card notes the node and the instance offset, where it holds none (R343; log entry
120). -/
def State.noteFlt (s : State) (k x : Nat) : State :=
  match (s.ctx k x).bind with
  | some b =>
    if (List.range 16).any fun n => (s.port k x n).act && Conf.sink (s.port k x n).cfg && (s.port k x n).flt then
      { s with dev := { s.dev with cards := s.dev.cards.map fun c =>
          if c.id = b.card ∧ c.note = none then { c with note := some (b.node, b.inst - c.inst) } else c } }
    else s
  | none => s

/-- The body of AP DONE (R343). -/
def doneBody : Exec Next := do
  let s ← get
  let k := s.cur.tid.core
  let x := s.cur.tid.ctx
  if x = 4 then illegal
  else if s.me.xp.active || s.me.mx.pend.isSome then waitHere
  else do
    let s := s.endPorts k x
    set s
    if s.sinksDrained k x then pure () else waitHere
    let s := (List.range 4).foldl (fun s n => s.stopChain k x n) s
    set s
    if s.chainsOver k x && !((s.core k).cmds.any fun q => q.ctx == x) && s.allPerformed k x then pure () else waitHere
    set ((s.noteFlt k x).endStep k x)
    pure none

/-- `DONE` (R343). -/
def execApDone (h : ApHdr) (s : State) : Out := apWord h true doneBody s

end Sys2Proof.Machine
end

