-- ==== Sys2Proof/Machine/Port.lean ====
section
/-! DEFINITION. The checking ports: requests of cores, engines and the host at their homes, window violations, errors of
storage, registered tail words, scrubbing (R66, R374, R422, R449). -/

namespace Sys2Proof.Machine
open Sys2Proof

/-! ## Reads and writes at a port -/

/-- A read of memory at its port (R66): the bytes, whether they are poisoned, the state. -/
def State.memRead (s : State) (r : Src) (pa n : Nat) (acc : AccessKind := .read) : List Byte × Bool × State :=
  if s.windowOk r.ten pa (pa + n - 1) acc then (s.bytes pa n, s.badIn pa n, s.look r.who pa n)
  else
    let (bs, s) := s.openBytes n
    (bs, true, s.refuseAt r pa)

/-- A write of memory at its port (R66): whether it is performed. -/
def State.memWrite (s : State) (r : Src) (pa : Nat) (bs : List Byte) (bad : Bool) (acc : AccessKind := .write) : Bool × State :=
  if bs.isEmpty then (true, s)
  else if s.windowOk r.ten pa (pa + bs.length - 1) acc then (true, s.store r.who pa bs bad)
  else (false, s.refuseAt r pa)

/-! ## Errors of storage (R420 to R422) -/

/-- The storage that holds an address, by number; Table 16-10 gives no codes (log entry 2). -/
def storageAt (pa : Nat) : BitVec 8 :=
  Config.storageKind (if inSpad pa then 1 else if inSram pa then 2 else 0)

/-- An uncorrectable error on the words of `n` bytes at `pa`: they are marked poisoned, and it is logged (R422). -/
def State.uncorrectable (s : State) (r : Src) (pa n : Nat) : State :=
  let s := { s with bad := (List.range (wordsOf pa n)).foldl (fun m i => m.set false (pa / 8 + i) true) s.bad }
  s.logError r.log { cls := 2, sub := (storageAt pa).toNat, core := r.core, ctx := r.ctx, sys := r.ten == 16, d0 := pa }

/-- A correctable error found by a core (R420, R421): it freezes for one more 24 cc, which all errors of one cycle share; the error
is counted and logged, with its storage and place. The core stops to advance with the first (R7). -/
def State.correctable (s : State) (k st loc : Nat) : State :=
  let s := s.modCore k fun c => { c with
    freezes := if c.freezes ≠ 0 ∧ c.ceAt = some s.cc then c.freezes else c.freezes + 1
    ceAt := some s.cc
    frozenAt := some (c.frozenAt.getD s.cc)
    ceCount := c.ceCount + 1 }
  s.logError (s.coreTenant k) { cls := 1, sub := (Config.storageKind st).toNat, core := k, d0 := loc }

/-- Whether a core is frozen, or stopped by a thermal trip (R420, R463). -/
def State.frozen (s : State) (k : Nat) : Bool := (s.core k).freezes != 0 || s.dev.tripped

/-- A register write: it comes over a link or from a core, and these stop at a thermal trip (R463). -/
def hostStep (f : State → State) (s : State) : Out := .next (if s.dev.tripped then s else f s)

/-- Whether an address lies in the scratchpad of a core that is frozen, where every access waits (R420). -/
def State.asleep (s : State) (pa : Nat) : Bool := inSpad pa && s.frozen (spadCore pa)

/-- Hold work at the port of a core (R325). -/
def State.holdAt (s : State) (k : Nat) (w : PortWork) : State :=
  s.modCore k fun c => { c with held := c.held ++ [w] }

/-! ## Links (R425, R426, R456) -/

/-- Whether requests of a core cannot now reach an address: the bridge is down or retrains, or no peer port takes them. -/
def State.cut (s : State) (k pa : Nat) : Bool :=
  (s.linkCut k pa).isSome || (s.dev.bridge.retrain.isSome && dieOf pa != k / 128)
    || (inPeer pa && match s.peerPort (pa / 0x100000000000 % 16) with
        | some n => (s.dev.ports.get {} n).retrain.isSome
        | none => true)

/-- Whether an access of an engine of a core must wait: its home cannot now be reached, its home's core is frozen, or a write of
the core to its bytes is still on its way (R355, R420, R425; log entry 89). -/
def State.notNow (s : State) (k pa n : Nat) : Bool := s.cut k pa || s.asleep pa || s.pathHolds k pa n

/-! ## Registered tail words (R373 to R375) -/

def Launch.queue (l : Launch) (c : Nat) : Queue := l.queues.get {} c
def State.queue (s : State) (ten c : Nat) : Queue := (s.launch ten).queue c
def State.modQueue (s : State) (ten c : Nat) (f : Queue → Queue) : State :=
  s.modLaunch ten fun l => { l with queues := l.queues.put c (f (l.queue c)) }

def Queue.en (q : Queue) : Bool := q.qtail.getLsbD 0
def Queue.tpa (q : Queue) : Nat := bits q.qtail.toNat 51 3 * 8

/-- The queue whose registered tail word lies at an address, as tenant and class. -/
def State.tailAt (s : State) (pa : Nat) : Option (Nat × Nat) :=
  ((List.range 16).flatMap fun t => (List.range 4).map fun c => (t, c)).find? fun p =>
    let q := s.queue p.1 p.2
    q.en && q.tpa == pa && !s.hostMode p.1 0

/-- The report of a 64-bit swap on a registered tail word (R374); in host-assisted launch dispatch no swap is reported
(R429). -/
def State.reportSwap (s : State) (pa old new : Nat) : State :=
  match s.tailAt pa with
  | some (t, c) => { s with dev := { s.dev with reports := s.dev.reports ++ [{ ten := t, cls := c, old := old, new := new }] } }
  | none => s

/-! ## Scrubbing (R449) -/

/-- Set `n` bytes from `pa` to zero and unmark them. -/
def State.scrub (s : State) (pa n : Nat) : State :=
  { s with
    mem := s.mem.filter fun p => !(decide (pa ≤ p.1) && decide (p.1 < pa + n))
    bad := s.bad.filter fun p => !(decide (pa ≤ p.1 * 8) && decide (p.1 * 8 < pa + n)) }

/-- Scrub a cluster's scratchpads and cluster SRAM, and uninitialise its barriers (R83, R449). -/
def State.scrubCluster (s : State) (c : Nat) : State :=
  let s := (s.scrub (spad (8 * c) 0) (8 * 0x200000)).scrub (0x10020000000 + c * 0x800000) 0x800000
  (List.range 8).foldl (fun s i => s.modCore (8 * c + i) fun k => { k with bars := [] }) s

/-- Copy `n` bytes and their poison, as they are in a state `s0`, from one place to another, both 8-aligned. -/
def State.copyFrom (s s0 : State) (src dst n : Nat) : State :=
  let ms := s0.mem.filter fun p => decide (src ≤ p.1) && decide (p.1 < src + n)
  let bs := s0.bad.filter fun p => decide (src / 8 ≤ p.1) && decide (p.1 < (src + n) / 8)
  let s := (s.touch none src n false).touch none dst n true
  let s := s.scrub dst n
  { s with
    mem := ms.foldl (fun m p => m.set 0 (dst + (p.1 - src)) p.2) s.mem
    bad := bs.foldl (fun m p => m.set false (dst / 8 + (p.1 - src / 8)) p.2) s.bad }

end Sys2Proof.Machine
end

