-- ==== Sys2Proof/Machine/Summit.lean ====
section
/-! DEFINITION. Summit: launch structures, cards, graphs, nodes, the loop-nest walker (15). -/

namespace Sys2Proof.Machine
open Sys2Proof

/-! ## Launch structures (R376 to R384) -/

/-- A launch failure: reason of Table 15-6, node index, instance offset, fault descriptor. -/
structure LFail where
  reason : Nat
  nidx : Nat := 0
  ioff : Nat := 0
  desc : BitVec 256 := 0
  deriving DecidableEq, Repr

/-- Work of Summit: it may fail a launch. What it has written before it fails stays written. -/
abbrev Launching (α : Type) := ExceptT LFail (StateM State) α

def refuse {α : Type} (r : Nat) : Launching α := throw { reason := r }
def ensure (b : Bool) (r : Nat) : Launching Unit := if b then pure () else refuse r

/-- Failures within name this node and instance offset. -/
def atNode {α : Type} (n i : Nat) (m : Launching α) : Launching α := fun s =>
  match m s with
  | (.error e, s) => (.error { e with nidx := n, ioff := i }, s)
  | (.ok r, s) => (.ok r, s)

/-- Failures within have another reason. -/
def asReason {α : Type} (r : Nat) (m : Launching α) : Launching α := fun s =>
  match m s with
  | (.error e, s) => (.error { e with reason := r }, s)
  | (.ok r, s) => (.ok r, s)

/-- Work that a failure within leaves undone as a whole. -/
def wholly {α : Type} (m : Launching α) : Launching α := fun s =>
  match m s with
  | (.error e, _) => (.error e, s)
  | (.ok r, s) => (.ok r, s)

/-- Summit as a requester for a tenant (R80, R374): code 9. -/
def sumRq (k ten : Nat) : Rq := ⟨k, 0, ten, 9, 0⟩
def sumSrc (k ten : Nat) : Src := { ten := ten, log := some ten, core := k }

/-- Read the parts of an access; poison in a launch structure has no effect of its own. -/
def State.readParts (s : State) (r : Src) (acc : AccessKind) : List (Part × Nat) → List Byte × Bool × State
  | [] => ([], false, s)
  | (p, n) :: ps =>
    let (bs, b, s) := s.memRead r p.pa n acc
    let (cs, c, s) := s.readParts r acc ps
    (bs ++ cs, b || c, s)

/-- Write bytes to the parts of an access. -/
def State.writeParts (s : State) (r : Src) (bad : Bool) : List (Part × Nat) → List Byte → State
  | [], _ => s
  | (p, n) :: ps, bs =>
    let (_, s) := s.memWrite r p.pa (bs.take n) bad
    s.writeParts r bad ps (bs.drop n)

/-- Read through the tenant's translation, for the core `k` that the read serves. -/
def sread (k ten va n : Nat) (acc : AccessKind) : Launching (List Byte × Bool) := fun s =>
  if n = 0 then (.ok ([], false), s) else
  match s.translate (sumRq k ten) va n acc with
  | (.error f, s) => (.error { reason := 6, desc := f }, s)
  | (.ok ps, s) =>
    let (bs, b, s) := s.readParts (sumSrc k ten) acc ps
    (.ok (bs, b), s)

/-- Write bytes through the tenant's translation, clean or poisoned. -/
def swriteAs (bad : Bool) (ten va : Nat) (bs : List Byte) : Launching Unit := fun s =>
  match s.translate (sumRq 0 ten) va bs.length .write with
  | (.error f, s) => (.error { reason := 6, desc := f }, s)
  | (.ok ps, s) => (.ok (), s.writeParts (sumSrc 0 ten) bad ps bs)
def swrite (ten va : Nat) (bs : List Byte) : Launching Unit := swriteAs false ten va bs

/-- Read a number with its poison. -/
def readBad (ten va n : Nat) : Launching (Nat × Bool) := do
  let (bs, b) ← sread 0 ten va n .read
  pure (leNat bs, b)
def readNat (ten va n : Nat) : Launching Nat := do
  let v ← readBad ten va n
  pure v.1

/-- Whether bytes that are read carry poison: nothing changes. -/
def peekBad (ten va n : Nat) : Launching Bool := fun s => match sread 0 ten va n .read s with
  | (.ok r, _) => (.ok r.2, s)
  | (.error _, _) => (.ok false, s)

/-- A write that a fault makes void: the structure cannot be reached. -/
def State.tryWrite (s : State) (ten va : Nat) (bs : List Byte) : State := (swrite ten va bs s).2

/-! ## Nodes (R379, R380, Tables 15-7 and 15-8) -/

structure Node where
  khdr : Nat
  imgva : Nat
  imgoff : Nat
  imglen : Nat
  param : Nat
  xform : Bool
  narg : Nat
  nsucc : Nat
  initcnt : Nat
  succva : Nat
  argva : Nat
  argoff : Nat
  deriving DecidableEq, Repr

/-- The checks of the IMEM image of a node (Table 15-6, reason 5). -/
def Node.imageOk (d : Node) : Bool :=
  d.imglen % 4 == 0 && d.imgoff % 4 == 0 && decide (d.imgoff + d.imglen ≤ 0x40000)

/-- The graph header: NNODES and NODEVA. -/
def readGraph (ten va : Nat) : Launching (Nat × Nat) := do
  let h ← readNat ten va 64
  let nn := bits h 12 0
  let nva := bits h 127 64
  ensure (bits h 63 40 == 0 && bits h 39 32 == 1 && bits h 31 13 == 0 && bits h 511 128 == 0
    && decide (1 ≤ nn) && decide (nn ≤ 4096) && nva % 64 == 0) 2
  pure (nn, nva)

/-- The successor indices of a node, each below NNODES. -/
def readSucc (ten nn : Nat) (n : Node) : Launching (List Nat) := do
  let (bs, _) ← sread 0 ten n.succva (2 * n.nsucc) .read
  let ss := unpack 16 n.nsucc bs
  ensure (ss.all fun i => decide (i < nn)) 2
  pure ss

def nodeOf (v : Nat) : Node :=
  { khdr := bits v 63 0, imgva := bits v 127 64, imgoff := bits v 191 160, imglen := bits v 159 128, param := bits v 255 192,
    xform := bit v 292, narg := bits v 291 288, nsucc := bits v 287 272, initcnt := bits v 271 256, succva := bits v 383 320,
    argva := bits v 447 384, argoff := bits v 461 448 }

/-- Read node `n` of a graph and check it. -/
def readNode (ten nva nn n : Nat) : Launching Node := do
  let v ← readNat ten (nva + 64 * n) 64
  let d := nodeOf v
  ensure (bits v 319 293 == 0 && bits v 511 462 == 0 && d.khdr % 64 == 0 && d.param % 64 == 0 && d.succva % 2 == 0
    && d.argva % 8 == 0 && decide (d.nsucc ≤ 4096)
    && (!d.xform || (d.imgva == 0 && d.param == 0 && d.narg == 0 && d.argoff == 0))) 2
  let _ ← readSucc ten nn d
  pure d

/-! ## Kernel headers (R196, R197) -/

structure Khdr where
  aentry : Nat
  xentry : Nat
  vreq : Nat
  scount : Nat
  shape : Nat
  apmask : Nat
  xpmask : Nat
  aptpl : Nat
  xptpl : Nat
  deriving DecidableEq, Repr

def legalShape (g : Nat) : Bool := [0, 2, 3, 4, 5].contains g

def readKhdr (ten va : Nat) : Launching Khdr := do
  let v ← readNat ten va 64
  let h : Khdr := {
    aentry := bits v 31 0, xentry := bits v 63 32, vreq := bits v 71 64, scount := bits v 76 72, shape := bits v 79 77
    apmask := bits v 191 128, xpmask := bits v 255 192, aptpl := bits v 287 256, xptpl := bits v 319 288 }
  ensure (bits v 127 80 == 0 && bits v 511 320 == 0 && decide (h.vreq ≤ 128) && decide (h.scount ≤ 16) && legalShape h.shape
    && decide (h.apmask < 2 ^ 62) && decide (h.xpmask < 2 ^ 62) && h.aentry % 4 == 0 && decide (h.aentry < 0x40000)
    && h.xentry % 4 == 0 && decide (h.xentry < 0x40000) && h.aptpl % 16 == 0 && h.xptpl % 16 == 0) 3
  pure h

/-! ## Gangs (R26, R27) -/

/-- Cores of one gang of a shape. -/
def gangSize : Nat → Nat
  | 2 => 8 | 3 => 32 | 4 => 128 | 5 => 256 | _ => 1

/-- The cores of a tenant's partition, ascending. -/
def State.partition (s : State) (ten : Nat) : List Nat := (List.range 256).filter fun k => s.owns ten (k / 8)

/-- The first cores of the gangs of a shape that lie inside the partition (R26). -/
def State.gangs (s : State) (ten shape : Nat) : List Nat :=
  let n := gangSize shape
  ((List.range (256 / n)).map (· * n)).filter fun k0 =>
    (List.range ((n + 7) / 8)).all fun c => s.owns ten (k0 / 8 + c)

/-! ## The walker (R383, R384) -/

structure Nest where
  counts : List Nat
  nloop : Nat
  rag : Option (Nat × Nat × Nat)
  bad : Bool := false
  deriving DecidableEq, Repr

def readNest (ten va : Nat) : Launching Nest := do
  let v ← readNat ten va 24
  let trows := bits v 127 112
  let rlvl := bits v 102 100
  let nloop := bits v 98 96
  let ragva := bits v 191 128
  let bad ← peekBad ten (va + 8) 8
  ensure (!(nloop == 0 || nloop == 7 || rlvl == 5 || rlvl == 6 || (rlvl != 7 && decide (nloop ≤ rlvl + 1))
    || (rlvl != 7 && trows == 0) || bits v 111 103 != 0 || bit v 99)) 7
  pure { counts := [bits v 15 0, bits v 31 16, bits v 47 32, bits v 63 48, bits v 79 64, bits v 95 80], nloop := nloop,
         rag := if rlvl = 7 then none else some (rlvl, trows, ragva), bad := bad && rlvl != 7 }

/-- Whether a loop other than the ragged one has count 0: then there is no index vector, and no row table is read (R384). -/
def Nest.empty (d : Nest) : Bool := (List.range d.nloop).any fun l => d.rag.map (·.1) != some l && d.counts.getD l 0 == 0

/-- The steps of the loops below level `l`, given the indices of the others and the rows of the group chosen, with their poison: each step
has its VALID and the poison of what that is computed from (R16). -/
def walkNest (ten : Nat) (d : Nest) : Nat → List Nat → Nat × Bool → Launching (List (List Nat × Nat × Bool))
  | 0, idx, rows => pure [(idx, match d.rag with
      | some (rl, trows, _) => Nat.min trows (rows.1 - idx.getD rl 0 * trows)
      | none => 0xFFFFFFFF, rows.2)]
  | l + 1, idx, rows =>
    let n := match d.rag with
      | some (rl, trows, _) => if rl = l then (rows.1 + trows - 1) / trows else d.counts.getD l 0
      | none => d.counts.getD l 0
    (List.range n).foldlM (fun acc x => do
      let rows ← (match d.rag with
        | some (rl, _, ragva) => if rl + 1 = l then do
            let r ← asReason 7 (readBad ten (ragva + 4 * x) 4)
            pure (r.1, d.bad || r.2)
          else pure rows
        | none => pure rows)
      let more ← walkNest ten d l (x :: idx) rows
      pure (acc ++ more)) []

/-! ## Making a node ready (R381 to R384) -/

/-- Enter a node of an instance in the ready list: its checks, and its tile steps in enumeration order. -/
def readyNode (c : Card) (nn nva inst node : Nat) : Launching Unit := atNode node (inst - c.inst) do
  let d ← readNode c.ten nva nn node
  let s ← get
  let (rid, s) := s.newId
  let run : NodeRun := { id := rid, card := c.id, inst := inst, node := node, left := 0, xform := d.xform, since := s.gtc }
  set s
  if d.xform then
    ensure (d.khdr % 64 == 0) 2
    modify fun s => { s with dev := { s.dev with runs := s.dev.runs ++ [{ run with left := 1 }] } }
  else
    let h ← readKhdr c.ten d.khdr
    let s ← get
    ensure (!(s.gangs c.ten h.shape).isEmpty) 4
    ensure d.imageOk 5
    let nest ← readNest c.ten d.param
    let steps ← if nest.empty then pure [] else walkNest c.ten nest nest.nloop [] (0, false)
    modify fun s =>
      let ts := (List.range steps.length).map fun i =>
        let (xs, v, b) := steps.getD i ([], 0, false)
        ({ id := s.nextId + i, run := rid, card := c.id, ten := c.ten, cls := c.cls, inst := inst, node := node, coord := xs,
           valid := v, validBad := b, since := s.gtc } : TileStep)
      { s with
        nextId := s.nextId + steps.length
        dev := { s.dev with runs := s.dev.runs ++ [{ run with left := steps.length }], steps := s.dev.steps ++ ts } }

def readyAll (c : Card) (nn nva : Nat) : List (Nat × Nat) → Launching Unit
  | [] => pure ()
  | (i, n) :: ps => do
    readyNode c nn nva i n
    readyAll c nn nva ps

/-- Read every node of a graph, in order: their initial counts, each with its poison. -/
def readInits (ten nva nn inst0 : Nat) : List Nat → Launching (List (Nat × Bool))
  | [] => pure []
  | n :: ns => do
    let d ← atNode n inst0 (readNode ten nva nn n)
    let b ← peekBad ten (nva + 64 * n + 32) 8
    let rest ← readInits ten nva nn inst0 ns
    pure ((d.initcnt, b) :: rest)

/-- Write the counters of an instance; those of poisoned counts are poisoned (R16, R382). -/
def writeInits (ten va : Nat) (inits : List (Nat × Bool)) : Launching Unit := do
  swrite ten va (inits.flatMap fun n => leBytes 4 n.1)
  (List.range inits.length).foldlM (fun _ i => match inits[i]? with
    | some (n, true) => swriteAs true ten (va + 4 * i) (leBytes 4 n)
    | _ => pure ()) ()

/-- Start the work of a card (R377, R382). -/
def startCard (c : Card) : Launching Unit := do
  if c.kind = 2 then pure () else
  let (nn, nva) ← readGraph c.ten c.graph
  if c.kind = 3 then
    ensure (decide (c.node < nn)) 2
    readyNode c nn nva c.inst c.node
  else
    let inits ← readInits c.ten nva nn 0 (List.range nn)
    (List.range c.ninst).foldlM (fun _ i => writeInits c.ten (c.work + 4 * nn * i) inits) ()
    modify fun s => { s with dev := { s.dev with cards := s.dev.cards.map fun k => if k.id = c.id then { k with nodesLeft := nn * c.ninst } else k } }
    readyAll c nn nva ((List.range c.ninst).flatMap fun i =>
      ((List.range nn).filter fun n => (inits.getD n (0, false)).1 == 0).map fun n => (c.inst + i, n))

/-! ## Cards (R374, R376 to R378, R394) -/

/-- The fields of a card that software wrote; `none` where a check of reason 1 fails. -/
def cardOf (id ten cls va v : Nat) : Option Card :=
  let kind := bits v 71 64
  let graph := bits v 191 128
  let inst := bits v 223 192
  let ninstM1 := bits v 239 224
  let node := bits v 255 240
  let work := bits v 319 256
  if kind = 0 ∨ 3 < kind ∨ bits v 95 88 ≠ 1 ∨ bits v 127 96 ≠ 0 ∨ bits v 87 79 ≠ 0 ∨ bits v 383 320 ≠ 0 ∨ va % 64 ≠ 0
      ∨ graph % 64 ≠ 0 ∨ work % 4 ≠ 0 ∨ (kind = 2 ∧ graph ≠ 0) ∨ (kind ≠ 1 ∧ (ninstM1 ≠ 0 ∨ work ≠ 0)) ∨ (kind ≠ 3 ∧ node ≠ 0)
  then none
  else some { id := id, ten := ten, cls := cls, va := va, kind := kind, irq := bit v 72, vec := bits v 78 73, graph := graph,
              node := node, inst := inst, ninst := ninstM1 + 1, work := work, nodesLeft := if kind = 2 then 0 else 1 }

/-- Fail the launch of a card: STATE 3 with its reason, and an entry of class 8 (R378). -/
def State.launchFail (s : State) (id : Nat) (f : LFail) : State :=
  match s.card id with
  | some c =>
    if c.fail.isSome then s else
    (s.failCard id 3 f.reason f.nidx f.ioff).logError (some c.ten)
      { cls := 8, sub := f.reason, d0 := c.va, d1 := c.trig.getD 0, fault := if f.reason = 6 then f.desc else 0 }
  | none => s

/-- Run a card's start, or fail it. -/
def State.runLaunch (s : State) (id : Nat) (m : Launching Unit) : State :=
  match m s with
  | (.ok _, s) => s
  | (.error f, s) => s.launchFail id f

/-- A card whose bytes cannot be read or are refused: it ends with STATE 3. -/
def badCard (id ten cls va : Nat) : Card :=
  { id := id, ten := ten, cls := cls, va := va, kind := 2, irq := false, vec := 0, graph := 0, node := 0, inst := 0, ninst := 1,
    work := 0, nodesLeft := 1 }

/-- Accept the card at `va` (R374 step 3): it is read, STATE becomes 1, its work starts. `queue` is false for a trigger
launch, whose ordinal is `k` (R394). -/
def State.acceptCard (s : State) (ten cls va : Nat) (queue : Bool) (k : Option Nat) : State :=
  let (id, s) := s.newId
  let add := fun (s : State) (c : Card) =>
    let c := { c with queued := queue, trig := k, inst := (c.inst + k.getD 0) % 2 ^ 32 }
    ({ s with dev := { s.dev with cards := s.dev.cards ++ [c] } } : State)
  let enq := fun (s : State) => if queue then s.modQueue ten cls fun q => { q with cards := q.cards ++ [id] } else s
  match (do
      let r ← sread 0 ten va 64 .read
      swrite ten (va + 48) [1]
      pure r : Launching (List Byte × Bool)) s with
  | (.error f, s) => (enq (add s (badCard id ten cls va))).launchFail id f
  | (.ok (bs, _), s) =>
    match cardOf id ten cls va (leNat bs) with
    | none =>
      let c := badCard id ten cls va
      (enq (add s { c with irq := bit (leNat bs) 72, vec := bits (leNat bs) 78 73 })).launchFail id { reason := 1 }
    | some c =>
      let s := enq (add s c)
      match s.card id with
      | some c => s.runLaunch id (startCard c)
      | none => s

/-- Whether earlier cards of a card's queue hold its steps back: a marker is pending before it (R377). -/
def State.blocked (s : State) (c : Card) : Bool :=
  c.queued && ((s.queue c.ten c.cls).cards.takeWhile (· != c.id)).any fun i =>
    match s.card i with
    | some d => d.kind == 2 && d.fail.isNone
    | none => false

/-- The words that a swap or LPOST makes Summit write before it accepts a card (R374 step 2). -/
def State.linkCard (s : State) (ten cls va : Nat) : State :=
  let q := s.queue ten cls
  let s := match q.prev with
    | some p => if q.cards.isEmpty then s else s.tryWrite ten p (leBytes 8 va)
    | none => s
  s.modQueue ten cls fun q => { q with last := va, prev := some va }

/-- Whether a card can end: what is left of it, and none of its steps bound, set aside or parked (R377, R378). -/
def State.cardOver (s : State) (c : Card) : Bool :=
  let bound := s.cores.any fun k => k.2.ctxs.any fun x => match x.2.bind with
    | some b => b.card == c.id
    | none => false
  let chains := s.dev.runs.any fun r => r.card == c.id && r.chain.isSome
  let away := s.dev.steps.any (fun t => t.card == c.id && t.aside.isSome) || s.dev.parked.any fun p => p.2.ctxs.any fun x =>
    match x.held.bind with
    | some b => b.card == c.id
    | none => false
  !bound && !away && !chains && (c.fail.isSome ||
    (if c.kind = 2 then !c.queued || (s.queue c.ten c.cls).cards.head? == some c.id else c.nodesLeft == 0))

/-- End a card: DGTC, then STATE, as a release at SYSTEM scope, then its vector (R377). Of one that is complete, NIDX and IOFF report a stream
drained with FLT (R343; log entry 120). -/
def State.endCard (s : State) (c : Card) : State :=
  let (st, reason, nidx, ioff) := c.fail.getD (2, 0, c.note.getD (0, 0))
  let s := s.tryWrite c.ten (c.va + 56) (leBytes 8 s.gtc)
  let s := s.tryWrite c.ten (c.va + 48) (leBytes 8 (st + reason % 256 * 2 ^ 8 + nidx % 65536 * 2 ^ 16 + ioff % 2 ^ 32 * 2 ^ 32))
  let s : State := { s with dev := { s.dev with
    cards := s.dev.cards.filter fun d => d.id != c.id
    runs := s.dev.runs.filter fun r => r.card != c.id
    steps := s.dev.steps.filter fun t => t.card != c.id } }
  let s := if c.queued then s.modQueue c.ten c.cls fun q => { q with cards := q.cards.filter (· != c.id) } else s
  if c.irq then s.raise c.ten c.vec else s

end Sys2Proof.Machine
end

