-- ==== Sys2Proof/Machine/Image.lean ====
section
/-! DEFINITION. Context images (R415 to R418, Tables 16-7 and 16-8), and the accumulator image (R285). An image is a list of
64-bit words with their poison. -/

namespace Sys2Proof.Machine
open Sys2Proof

abbrev Img := List (Nat × Bool)

def zeros (n : Nat) : Img := List.replicate n (0, false)
/-- The `n` words of a number. -/
def natWords (v n : Nat) : Img := (List.range n).map fun i => (bits v (64 * i + 63) (64 * i), false)
/-- Word `i` of an image, and a run of `n` words as one number. -/
def Img.word (w : Img) (i : Nat) : Nat := (w.getD i (0, false)).1
def Img.bad (w : Img) (i : Nat) : Bool := (w.getD i (0, false)).2
def Img.nat (w : Img) (i n : Nat) : Nat := fields 64 n fun j => Img.word w (i + j)
def Img.anyBad (w : Img) (i n : Nat) : Bool := (List.range n).any fun j => Img.bad w (i + j)

def State.writeImg (s : State) (pa : Nat) : Img → State
  | [] => s
  | (w, b) :: ws => (s.storeNat none pa 8 w b).writeImg (pa + 8) ws

def State.readImg (s : State) (pa n : Nat) : Img :=
  (List.range n).map fun i => (s.nat (pa + 8 * i) 8, s.badWord (pa / 8 + i))

/-! ## Writing -/

/-- The header (Table 16-8). -/
def headerImg (s : State) (k x : Nat) : Img :=
  let c := s.ctx k x
  let b : Bind := c.bind.getD {}
  let va := ((s.card b.card).map (·.va)).getD 0
  let w0 := Config.arch + b.tenant % 16 * 2 ^ 8 + b.shape % 8 * 2 ^ 12 + rankOf b.shape k % 256 * 2 ^ 16
    + b.nmain % 256 * 2 ^ 24 + b.scount % 32 * 2 ^ 32 + (!c.xp.active).toNat * 2 ^ 40 + c.trapped.toNat * 2 ^ 41
    + c.mx.pend.isSome.toNat * 2 ^ 42 + (decide (c.ap.rdv ≠ .none)).toNat * 2 ^ 43
    + (decide (c.xp.rdv ≠ .none)).toNat * 2 ^ 44 + c.ap.inWord.toNat * 2 ^ 45 + c.xp.inWord.toNat * 2 ^ 46
  [(w0, false), (c.ap.pc % 2 ^ 32 + c.xp.pc % 2 ^ 32 * 2 ^ 32, false), (b.inst % 2 ^ 32 + b.node % 2 ^ 16 * 2 ^ 32, false),
   (va, false), (coordWord b.coord, false), (coordWord ((b.coord.drop 4).take 2), false)] ++ zeros 26

def apLoopImg (l : ApLoop) : Img := [(l.start % 2 ^ 32 + l.fin % 2 ^ 32 * 2 ^ 32, false), (l.remaining, false)]
def xpLoopImg (l : XpLoop) : Img :=
  let r := fields 16 8 fun i => match l.ranges[i]? with
    | some (b, n) => b % 128 + (n - 1) % 128 * 2 ^ 8
    | none => 0
  [(l.start % 2 ^ 32 + l.fin % 2 ^ 32 * 2 ^ 32, false), (l.remaining % 2 ^ 32 + l.iter % 2 ^ 32 * 2 ^ 32, false)] ++ natWords r 2

def padImg (n : Nat) (w : Img) : Img := (w ++ zeros n).take n

/-- Registers lt0, lt1, o0 to o7. -/
def Ctx.lto (c : Ctx) (i : Nat) : VReg := if i < 2 then c.lt.get {} i else c.o.get {} (i - 2)

/-- The record of a port at a swap (R418): lines that are not full are given up. -/
def swapRecord (p : Port) (drn : Bool) : List Byte :=
  if !p.act then List.replicate 128 0 else
  let keep := p.lines.takeWhile (·.full)
  let fpos := if Conf.sink p.cfg then (p.lines.head?.map (·.pos)).getD p.cpos
    else ((p.lines.drop keep.length).head?.map (·.pos)).getD p.fpos
  p.record drn false (if Conf.sink p.cfg then p.lines.length else keep.length) fpos

def bytesImg (bs : List Byte) (n : Nat) : Img := (List.range n).map fun i => (leNat ((bs.drop (8 * i)).take 8), false)

/-- Section 0400h: tags, counts, identifiers, chains, special registers, the work list. Table 16-7 gives their order and not their
places, which are the model's (log entry 88). Two words a chain: the next entry, and linked, running, past the end, failed. -/
def ctlImg (c : Ctx) : Img :=
  let chain := fun (h : Option Chain) => match h with
    | none => [0, 0]
    | some h => [h.next.getD 0, 1 + h.running.toNat * 2 + h.next.isNone.toNat * 4 + h.failed.toNat * 8]
  let w := c.wl
  padImg 32 (([c.tags.toNat]
    ++ (List.range 8).map (fun i => fields 8 8 fun j => c.counts.get 0 (8 * i + j))
    ++ (List.range 4).map (fun n => (c.chan n).nextId % 2 ^ 32 + (c.chan n).mark % 2 ^ 32 * 2 ^ 32)
    ++ (List.range 4).flatMap (fun n => chain (c.chan n).chain)
    ++ [c.copyStat.toNat, c.trapArea.toNat, w.base.toNat, w.cfg.toNat,
        w.spAt % 2 ^ 16 + w.spN % 2 ^ 16 * 2 ^ 16 + w.front.length % 2 ^ 32 * 2 ^ 32, w.count + w.flt.toNat * 2 ^ 63]).map (·, false)
    ++ natWords w.desc.toNat 4)

/-- The deadline of a WAIT; 0 where a half is in none. -/
def Half.deadline (h : Half) : Nat := (h.stall.bind (·.deadline)).getD 0

/-- The small part: bytes 0 to 1FFFh of an image. -/
def smallImg (s : State) (k x : Nat) : Img :=
  let c := s.ctx k x
  let half := fun (h : Half) => (List.range 64).flatMap fun n =>
    let b := h.tmplBad.get false n
    (natWords (if n < 62 then (h.tmpl.get 0 n).toNat else 0) 2).map fun w => (w.1, b && decide (n < 62))
  headerImg s k x
    ++ (List.range 32).map (fun i => ((c.areg (BitVec.ofNat 5 i)).v.toNat, false))
    ++ natWords (fields 32 16 fun i => (c.x.get {} i).v.toNat) 8
    ++ (List.range 8).map (fun i => (if i = 0 then 2 ^ 64 - 1 else (c.m.get {} i).v.toNat, false))
    ++ (List.range 8).map (fun i => ((c.g.get {} i).v.toNat, false))
    ++ [(flags 32 (fun i => (c.areg (BitVec.ofNat 5 i)).taint) + flags 32 (fun i => (c.areg (BitVec.ofNat 5 i)).bad) * 2 ^ 32, false),
        (flags 8 (fun i => (c.pred (BitVec.ofNat 3 i)).v) + flags 8 (fun i => (c.pred (BitVec.ofNat 3 i)).bad) * 2 ^ 8
          + flags 16 (fun i => (c.x.get {} i).bad) * 2 ^ 16 + flags 8 (fun i => (c.m.get {} i).bad) * 2 ^ 32
          + flags 8 (fun i => (c.g.get {} i).bad) * 2 ^ 40, false)]
    ++ natWords (fields 32 10 fun i => (c.lto i).bad.toNat) 5 ++ zeros 1
    ++ padImg 8 (c.apLoops.flatMap apLoopImg) ++ zeros 8
    ++ padImg 16 (c.xpLoops.flatMap xpLoopImg)
    ++ ctlImg c
    ++ [(fields 4 5 (fun i => c.ap.toks.get 0 i) + fields 4 5 (fun i => c.xp.toks.get 0 i) * 2 ^ 20, false),
        (c.ap.deadline, false), (c.xp.deadline, false)]
    ++ zeros 29
    ++ (List.range 10).flatMap (fun i => natWords (c.lto i).v.toNat 32)
    ++ (List.range 16).flatMap (fun n => bytesImg (swapRecord (c.port n) (s.drained k x n)) 16)
    ++ half c.ap ++ half c.xp

/-- The canonical accumulator image (R285). -/
def accImg (m : Mx) : Img :=
  (List.range 8192).map (fun n => ((m.acc.get 0 (2 * n)).toNat + (m.acc.get 0 (2 * n + 1)).toNat * 2 ^ 32, false))
    ++ natWords (flags 8192 fun n => m.accBad.get false n) 128

/-- The main file: v0 to v127, then their poison. -/
def mainImg (c : Ctx) : Img :=
  (List.range 128).flatMap (fun i => natWords (c.v.get {} i).v.toNat 32)
    ++ natWords (fields 32 128 fun i => (c.v.get {} i).bad.toNat) 64 ++ zeros 64

/-- A weight bank in the DRAM part (R417). -/
def bankImg (b : Bank) (active : Bool) : Img :=
  (List.range 64).flatMap (fun k => (List.range 16).map fun j =>
      (bits (b.rows.get 0 k).toNat (64 * j + 63) (64 * j), bits (b.bad.get 0 k).toNat (16 * j + 15) (16 * j) != 0))
    ++ (List.range 384).map (fun j =>
      let sc := fields 96 3 fun i => (b.scales.get 0 (8 * j / 12 + i)).toNat
      (bits sc (64 * j - 96 * (8 * j / 12) + 63) (64 * j - 96 * (8 * j / 12)), b.scaleWordBad j))
    ++ [(b.fmt.code + b.rowMajor.toNat * 2 ^ 4 + active.toNat * 2 ^ 5 + b.fp % 128 * 2 ^ 8 + b.band.toNat * 2 ^ 16, false)]
    ++ zeros 127

def ebufImg (m : SMap EBuf) : Img :=
  (List.range 32).flatMap fun n => (List.range 32).map fun j =>
    let e : EBuf := m.get {} n
    (bits e.v.toNat (64 * j + 63) (64 * j), e.bad.getLsbD j)

/-- The work-list entries on chip, oldest first, two to a word. -/
def workImg (es : List (BitVec 32 × Bool)) : Img :=
  (List.range 2048).map fun i =>
    let a := es.getD (2 * i) (0, false)
    let b := es.getD (2 * i + 1) (0, false)
    (a.1.toNat + b.1.toNat * 2 ^ 32, a.2 || b.2)

/-- A cancelled copy (R417): its block, its time, then its identifier, tag, channel and valid (log entry 88). -/
def cmdImg (q : Cmd) : Img :=
  natWords q.blk.toNat 8
    ++ [(q.time.getD 0 % 2 ^ 64, false), (q.xid % 2 ^ 32 + q.tag % 2 ^ 8 * 2 ^ 32 + q.chan % 4 * 2 ^ 40 + 2 ^ 63, false)] ++ zeros 6

/-- The DRAM part (R417). -/
def dramImg (c : Ctx) (cmds : List Cmd) : Img :=
  bankImg c.mx.bankA (!c.mx.actB) ++ bankImg c.mx.bankB c.mx.actB ++ ebufImg c.mx.qry ++ ebufImg c.mx.key
    ++ [(c.mx.recv.toNat, false)] ++ zeros 511
    ++ (List.range 128).flatMap (fun i => match cmds[i]? with
        | some q => cmdImg q
        | none => zeros 16)
    ++ workImg (c.wl.front ++ c.wl.back)

/-- The whole image of a context (Table 16-7). -/
def wholeImg (s : State) (k x : Nat) (cmds : List Cmd) : Img :=
  let c := s.ctx k x
  smallImg s k x ++ accImg c.mx ++ mainImg c ++ dramImg c cmds

/-! ## Reading -/

/-- Whether an image can be restored (R416): the architecture revision, the reserved bits and the bytes that are zero. -/
def imageHeadOk (w : Img) : Bool :=
  let h := Img.word w 0
  let zero := fun i n => (List.range n).all fun j => Img.word w (i + j) == 0
  bits h 7 0 == Config.arch && !bit h 15 && bits h 39 37 == 0 && bits h 63 47 == 0 && bits (Img.word w 2) 63 48 == 0
    && zero 6 26 && bits (Img.word w 89) 63 48 == 0 && zero 95 1 && zero 104 8 && bits (Img.word w 160) 63 40 == 0
    && zero (768 + 124) 4 && zero (896 + 124) 4

/-- Whether a port's record in an image has its reserved bits zero: those of SCTL (Table 06-2) and of a fault descriptor (R80). One of an
active stream holds no reserved format (R32) and no scope of 7 (R23). -/
def recordBitsOk (w : Img) (i : Nat) : Bool :=
  let c := Img.word w i
  let f := Img.word w (i + 13)
  bits c 63 41 == 0 && !bit c 7 && (bits f 39 32 == 0 || !([1, 2]).contains (bits f 3 0))
    && (!bit (Img.word w (i + 1)) 63 || (bits c 39 37 != 7 && (Fmt.ofCode? (bits c 3 0)).isSome))

/-- Whether the reserved bits that stand among the other sections are zero (R416): of SR_COPYSTAT, SR_TRAPAREA and the work list's
configuration, of the ranges of the XP loops (R267), and of the records of the ports. -/
def sectionsOk (w : Img) : Bool :=
  bits (Img.word w 149) 63 21 == 0 && bits (Img.word w 149) 11 1 == 0
    && bits (Img.word w 150) 63 21 == 0 && bits (Img.word w 150) 7 0 == 0 && bits (Img.word w 152) 31 21 == 0
    && ((List.range 4).all fun i => (List.range 16).all fun r => !bit (Img.nat w (114 + 4 * i) 2) (8 * r + 7))
    && (List.range 16).all fun n => recordBitsOk w (512 + 16 * n)

/-- Whether the reserved bits of the control words of both banks are zero, and their formats no reserved codes (R32, R416, R417); `i` is
where the DRAM part starts. -/
def banksOk (w : Img) (i : Nat) : Bool := [1408, 1536 + 1408].all fun j =>
  let c := Img.word w (i + j)
  bits c 7 6 == 0 && !bit c 15 && bits c 63 32 == 0 && (Fmt.ofCode? (bits c 3 0)).isSome

/-- Whether the blocks of the cancelled copies hold no reserved bits and, where they are valid, no reserved kind, format, space or scope
(Tables 05-2 and 05-3, R416). -/
def copiesOk (w : Img) (i : Nat) : Bool := (List.range 128).all fun n =>
  let c := Img.word w (i + 5632 + 16 * n)
  bits c 63 42 == 0 && bits c 23 22 == 0 && (!bit (Img.word w (i + 5632 + 16 * n + 9)) 63
    || (decide (0 < bits c 7 0) && decide (bits c 7 0 ≤ 10) && (Fmt.ofCode? (bits c 11 8)).isSome && (Fmt.ofCode? (bits c 15 12)).isSome
      && bits c 31 30 != 3 && bits c 36 34 != 7))

/-- Whether a section of the small part other than registers holds a poisoned word (R424). -/
def smallBad (w : Img) : Bool := Img.anyBad w 0 32 || Img.anyBad w 88 104 || Img.anyBad w 512 512

def apLoopsOf (w : Img) (i : Nat) : Nat → List ApLoop
  | 0 => []
  | n + 1 =>
    if Img.word w (i + 1) = 0 then [] else
    { start := bits (Img.word w i) 31 0, fin := bits (Img.word w i) 63 32, remaining := Img.word w (i + 1) } :: apLoopsOf w (i + 2) n

/-- The ranges of an XLOOP header, without the trailing ones that are zero. A loop whose ranges are all zero comes back as one without a header,
for the image holds no NR, which is the model's choice (log entry 129). -/
def rangesOf (v : Nat) : List (Nat × Nat) :=
  let n := (List.range 8).foldl (fun n i => if bits v (16 * i + 15) (16 * i) ≠ 0 then i + 1 else n) 0
  (List.range n).map fun i => (bits v (16 * i + 6) (16 * i), bits v (16 * i + 14) (16 * i + 8) + 1)

def xpLoopsOf (w : Img) (i : Nat) : Nat → List XpLoop
  | 0 => []
  | n + 1 =>
    if bits (Img.word w (i + 1)) 31 0 = 0 then [] else
    { start := bits (Img.word w i) 31 0, fin := bits (Img.word w i) 63 32, remaining := bits (Img.word w (i + 1)) 31 0,
      iter := bits (Img.word w (i + 1)) 63 32, ranges := rangesOf (Img.nat w (i + 2) 2) } :: xpLoopsOf w (i + 4) n

/-- A map of the values of `n` keys, with the default left out. -/
def smapOf {α : Type} [DecidableEq α] (d : α) (n : Nat) (f : Nat → α) : SMap α :=
  (List.range n).foldl (fun m i => SMap.set d m i (f i)) []

def halfOf (h : Half) (w : Img) (i : Nat) : Half :=
  { h with
    tmpl := smapOf 0 62 fun n => BitVec.ofNat 128 (Img.nat w (i + 2 * n) 2)
    tmplBad := [] }

def vregOf (w : Img) (i bad : Nat) : VReg :=
  { v := BitVec.ofNat 2048 (Img.nat w i 32), bad := BitVec.ofNat 32 (flags 32 fun j => bit bad j || Img.bad w (i + j)) }

/-- A half that comes back (R419): its group, and its wait, with its deadline, where its word had issued. -/
def Half.back (h : Half) (pc : Nat) (act rdv tk : Bool) (toks dl gtc : Nat) : Half :=
  { h with
    pc := pc
    active := act
    toks := smapOf 0 5 fun i => bits toks (4 * i + 3) (4 * i)
    rdv := if rdv then (if h.rdv = .none then .arrived else h.rdv) else .none
    stall := if tk then
        some { issued := true, since := gtc, acc := 0, deadline := if dl = 0 then none else some dl, mark := h.stall.bind (·.mark) }
      else none }

/-- The bind of a context, with what the image says of its step. Tenant, gang and allocations are Summit's (R385; log entry 101). -/
def Bind.ofImage (b : Bind) (s : State) (w : Img) : Bind :=
  let va := Img.word w 3
  let mine := fun (c : Card) => c.ten == b.tenant && c.va == va
  let card := match s.card b.card with
    | some c => if mine c then b.card else ((s.dev.cards.find? mine).map (·.id)).getD b.card
    | none => ((s.dev.cards.find? mine).map (·.id)).getD b.card
  { b with
    inst := bits (Img.word w 2) 31 0
    node := bits (Img.word w 2) 47 32
    card := card
    coord := if coordWord b.coord = Img.word w 4 ∧ coordWord ((b.coord.drop 4).take 2) = Img.word w 5 then b.coord
      else (List.range 6).map fun i => bits (Img.nat w 4 2) (16 * i + 15) (16 * i) }

/-- A channel from section 0400h; its posts still to be made stay as they were held. -/
def Chan.ofImage (c : Chan) (w : Img) (n : Nat) : Chan :=
  let v := Img.word w (137 + n)
  let f := Img.word w (142 + 2 * n)
  { c with
    nextId := bits v 31 0
    mark := bits v 63 32
    chain := if !bit f 0 then none else
      some { (c.chain.getD { next := none } : Chain) with
        next := if bit f 2 then none else some (Img.word w (141 + 2 * n)), running := bit f 1, failed := bit f 3 } }

/-- The work list from section 0400h; its entries on chip come with the DRAM part. -/
def WorkList.ofImage (w : Img) : WorkList :=
  let sp := Img.word w 153
  let n := bits (Img.word w 154) 62 0 - 512 * bits sp 31 16
  let f := Nat.min n (bits sp 63 32)
  { base := BitVec.ofNat 64 (Img.word w 151)
    cfg := BitVec.ofNat 64 (Img.word w 152)
    spAt := bits sp 15 0
    spN := bits sp 31 16
    front := List.replicate f (0, false)
    back := List.replicate (n - f) (0, false)
    flt := bit (Img.word w 154) 63
    desc := BitVec.ofNat 256 (Img.nat w 155 4) }

/-- The small part of a context, from an image; what it holds at places the spec does not fix stays as it was held (log
entry 101). -/
def Ctx.ofSmall (c : Ctx) (s : State) (w : Img) : Ctx :=
  let h := Img.word w 0
  let bads := Img.word w 88
  let pw := Img.word w 89
  let ltob := fun i => bits (Img.nat w 90 5) (32 * i + 31) (32 * i)
  let pcs := Img.word w 1
  let tk := Img.word w 160
  { c with
    bind := c.bind.map fun b => b.ofImage s w
    tags := BitVec.ofNat 64 (Img.word w 128)
    counts := smapOf 0 64 fun i => bits (Img.word w (129 + i / 8)) (8 * (i % 8) + 7) (8 * (i % 8))
    chans := (List.range 4).foldl (fun m n =>
      let h := (c.chan n).ofImage w n
      if h = c.chan n then m else m.put n h) c.chans
    copyStat := BitVec.ofNat 64 (Img.word w 149)
    trapArea := BitVec.ofNat 64 (Img.word w 150)
    wl := .ofImage w
    mx := { c.mx with pend := if bit h 42 then c.mx.pend else none }
    a := smapOf {} 32 fun i =>
      if i = 0 then {} else
      { v := BitVec.ofNat 64 (Img.word w (32 + i)), taint := bit bads i, bad := bit bads (32 + i) || Img.bad w (32 + i) }
    x := smapOf {} 16 fun i => { v := BitVec.ofNat 32 (Img.nat w 64 8 / 2 ^ (32 * i)), bad := bit pw (16 + i) || Img.bad w (64 + i / 2) }
    m := smapOf {} 8 fun i => if i = 0 then {} else { v := BitVec.ofNat 64 (Img.word w (72 + i)), bad := bit pw (32 + i) || Img.bad w (72 + i) }
    g := smapOf {} 8 fun i => { v := BitVec.ofNat 64 (Img.word w (80 + i)), bad := bit pw (40 + i) || Img.bad w (80 + i) }
    p := smapOf {} 8 fun i => if i = 0 then {} else { v := bit pw i, bad := bit pw (8 + i) }
    apLoops := apLoopsOf w 96 4
    xpLoops := xpLoopsOf w 112 4
    lt := smapOf {} 2 fun i => vregOf w (192 + 32 * i) (ltob i)
    o := smapOf {} 8 fun i => vregOf w (256 + 32 * i) (ltob (i + 2))
    trapped := bit h 41
    ap := (halfOf c.ap w 768).back (bits pcs 31 0) c.ap.active (bit h 43) (bit h 45) (bits tk 19 0) (Img.word w 161) s.gtc
    xp := (halfOf c.xp w 896).back (bits pcs 63 32) (!bit h 40) (bit h 44) (bit h 46) (bits tk 39 20) (Img.word w 162) s.gtc }

def Mx.ofAcc (m : Mx) (w : Img) : Mx :=
  { m with
    acc := smapOf 0 16384 fun i => BitVec.ofNat 32 (Img.word w (i / 2) / 2 ^ (32 * (i % 2)))
    accBad := smapOf false 8192 fun n => bit (Img.word w (8192 + n / 64)) (n % 64) || Img.bad w n }

def Ctx.ofMain (c : Ctx) (w : Img) : Ctx :=
  { c with v := smapOf {} (c.mainAlloc 0) fun i => vregOf w (32 * i) (bits (Img.nat w 4096 64) (32 * i + 31) (32 * i)) }

/-- A weight bank from its words. A poisoned word whose poison was saved leaves the poison of its cells as it was held. -/
def bankOf (b : Bank) (w : Img) (i : Nat) : Bank :=
  let ctl := Img.word w (i + 1408)
  { fmt := (Fmt.ofCode? (bits ctl 3 0)).getD .e4m3
    rowMajor := bit ctl 4
    fp := bits ctl 14 8
    band := BitVec.ofNat 16 (bits ctl 31 16)
    rows := smapOf 0 64 fun k => BitVec.ofNat 1024 (Img.nat w (i + 16 * k) 16)
    bad := smapOf 0 64 fun k => BitVec.ofNat 256 (fields 16 16 fun j =>
      let old := bits (b.bad.get 0 k).toNat (16 * j + 15) (16 * j)
      if Img.bad w (i + 16 * k + j) then (if old = 0 then 65535 else old) else 0)
    scales := smapOf 0 256 fun c => BitVec.ofNat 96 (Img.nat w (i + 1024) 384 / 2 ^ (96 * c))
    scaleBad := smapOf 0 256 fun c => BitVec.ofNat 8 (flags 8 fun n =>
      let bit := 12 * (8 * c + n)
      [bit / 64, (bit + 11) / 64].any fun j =>
        Img.bad w (i + 1024 + j) && ((b.scaleBad.get 0 c).getLsbD n || !b.scaleWordBad j)) }

def ebufsOf (w : Img) (i : Nat) : SMap EBuf :=
  smapOf {} 32 fun n => { v := BitVec.ofNat 2048 (Img.nat w (i + 32 * n) 32), bad := BitVec.ofNat 32 (flags 32 fun j => Img.bad w (i + 32 * n + j)) }

/-- Entries `i` to `i + n − 1` of the work list on chip. -/
def workOf (w : Img) (base i n : Nat) : List (BitVec 32 × Bool) :=
  (List.range n).map fun j =>
    let e := i + j
    (BitVec.ofNat 32 (Img.word w (base + e / 2) / 2 ^ (32 * (e % 2))), Img.bad w (base + e / 2))

/-- The DRAM part of a context, from an image. -/
def Ctx.ofDram (c : Ctx) (w : Img) : Ctx :=
  { c with
    mx := { c.mx with
      bankA := bankOf c.mx.bankA w 0
      bankB := bankOf c.mx.bankB w 1536
      actB := bit (Img.word w (1536 + 1408)) 5
      qry := ebufsOf w 3072
      key := ebufsOf w 4096
      recv := BitVec.ofNat 32 (Img.word w 5120) }
    wl := { c.wl with
      front := workOf w 7680 0 c.wl.front.length
      back := workOf w 7680 c.wl.front.length c.wl.back.length } }

/-- The cancelled copies of a context, from the DRAM part; `id` numbers those that were not held. A codec command goes on with the code table that it
was issued with, which is the model's choice (log entry 127). -/
def cmdsOf (held : List Cmd) (w : Img) (x ten id : Nat) : List Cmd := (List.range 128).filterMap fun n =>
  let at' := 5632 + 16 * n
  let v := Img.word w (at' + 9)
  let b := BitVec.ofNat 512 (Img.nat w at' 8)
  let q := held.getD n { id := id + n, ctx := x, ten := ten, chan := 0, tag := 0, xid := 0, blk := 0 }
  if bit v 63 then
    some { q with
      blk := b, time := if b.getLsbD 27 then some (Img.word w (at' + 8)) else none
      xid := bits v 31 0, tag := bits v 39 32, chan := bits v 41 40 }
  else none

/-- The identifiers of a channel that are complete beyond its watermark: those given out of which no copy is left. -/
def Chan.settle (c : Chan) (cmds : List Cmd) (n : Nat) : Chan :=
  let ids := (List.range ((c.nextId + 2 ^ 32 - 1 - c.mark) % 2 ^ 32)).map fun i => (c.mark + 1 + i) % 2 ^ 32
  { c with ahead := ids.filter fun i => !cmds.any fun q => q.chan == n && q.xid == i }

/-- A port that comes back from its record (R418): its full lines stand in their places, a parked port stays parked, the mask
is latched again, the code table is read and checked again (R96); where it no longer passes, the port is active with no table (log
entry 97). -/
def State.portBack (s : State) (k : Nat) (p : Port) (bs : List Byte) : Port :=
  let w1 := leNat ((bs.drop 8).take 8)
  if !bit w1 63 then { p with act := false, lines := [] } else
  let c := recordConf bs
  let r := leNat (bs.drop 64)
  let tb := if c.isCodec then match codecRequest s k c.fmt c.dsz c.tbl false with
    | .ok t => some t
    | .error _ => none
    else none
  let q := p.restore c tb bs (bits r 245 240) (bits r 252 246)
  { q with
    eflag := bit w1 61
    park := bit w1 59
    fault := BitVec.ofNat 256 (bits r 511 256)
    fltPos := p.fltPos
    fltLines := if p.act && p.flt then p.fltLines else q.fltLines
    ord := p.ord
    endSent := p.endSent
    endGot := p.endGot }

def State.portsBack (s : State) (k : Nat) (c : Ctx) (w : Img) : Ctx :=
  { c with ports := (List.range 16).foldl (fun m n =>
      if (c.port n).act || bit (Img.word w (512 + 16 * n + 1)) 63 then
        m.put n (s.portBack k (c.port n) ((List.range 16).flatMap fun i => leBytes 8 (Img.word w (512 + 16 * n + i))))
      else m) c.ports }

end Sys2Proof.Machine
end

