-- ==== Sys2Proof/Machine/Park.lean ====
section
/-! DEFINITION. Taking a context from its core and putting it back: quiet contexts, cancelled copies, images in memory, IMEM
images (R132, R385, R409 to R419). -/

namespace Sys2Proof.Machine
open Sys2Proof

/-! ## Quiet contexts (R172, R286, R412) -/

/-- Whether a copy can be cancelled: it has written no byte of its destination (R132). -/
def Cmd.canCancel (q : Cmd) : Bool := !q.wrote
def Cmd.cancel (q : Cmd) : Cmd :=
  { q with phase := .waiting, block := 0, rows := [], srcRows := [], img := [], res := {}, log := [], beat := (0, 0) }

/-- Whether an element or marker waits for a target that now takes none (R153), and so is not in flight. -/
def State.awaits (s : State) (e : Elem) : Bool := !(s.port e.toCore e.toCtx e.toSp).peerSource
/-- Whether an element is one that a context sends, or takes. -/
def Elem.sentBy (e : Elem) (k x : Nat) : Bool := e.core == k && e.ctx == x
def Elem.meets (e : Elem) (k x : Nat) : Bool := e.sentBy k x || (e.toCore == k && e.toCtx == x)

/-- Whether nothing of a context is on its way: producers have delivered, queued operations have run, its accesses have
performed, its tokens and arrivals have arrived, and so have its elements but those that `rest` leaves out. -/
def State.settledBut (s : State) (rest : Elem → Bool) (k x : Nat) : Bool :=
  let co := s.core k
  let mine := fun (t : Tid) => t.core == k && t.ctx == x
  !(s.reqs.any fun q => mine q.tid) && !(s.delivs.any fun d => delivAt d.2 == (k, x))
    && !(co.arrayQ.any fun o => arrCtx o == x) && !(co.scoutQ.any fun o => scoutCtx o == x)
    && !(s.toks.any fun t => !t.held && (mine t.src || mine t.dst)) && !(s.barMsgs.any fun m => mine m.src)
    && !(s.elems.any fun e => e.meets k x && !rest e) && !((co.ctx x).ports.any fun p => p.2.midDrain)
/-- The same, but for elements that no target yet takes (R153, R412). -/
def State.settled (s : State) (k x : Nat) : Bool := s.settledBut s.awaits k x

/-- Whether a context holds nothing that a bind could disturb. -/
def State.vacant (s : State) (k x : Nat) : Bool :=
  (s.ctx k x).bind.isNone && s.settledBut (fun _ => false) k x && !((s.core k).cmds.any fun q => q.ctx == x) && s.chainsOver k x

/-- Whether a context can be taken from its core: settled, and every copy of it can be cancelled. -/
def State.canPark (s : State) (k x : Nat) : Bool :=
  s.settled k x && ((s.core k).cmds.filter fun q => q.ctx == x).all Cmd.canCancel

/-! ## Taking a context away -/

/-- A chain that stops at a swap and goes on after it: an entry fetched and not started is the next, and one in progress still issues its
command then, as a cancelled one is replayed (R412). -/
def Chain.park (c : Chain) : Chain := c.keepTook

/-- The ports of a context that are queued for service. -/
def Core.queuedOf (c : Core) (x : Nat) : List Nat := (c.parkQ.filter fun p => p.1 == x).map (·.2)

/-- Code tables that a core holds for it (R96): those of codec streams, and of copies, as it was parked, whatever has been written to its image since:
the model's choice (log entry 127). -/
def ParkedCtx.tables (p : ParkedCtx) : Nat :=
  (p.held.ports.filter fun q => q.2.act && Conf.isCodec q.2.cfg).length + (p.cmds.filter fun q => q.table.isSome).length
/-- Whether a core has code-table slots for contexts that come back. -/
def State.tablesFit (s : State) (k : Nat) (ps : List ParkedCtx) : Bool :=
  decide ((s.core k).tablesHeld + (ps.map (·.tables)).sum ≤ 16)

/-- What a sender keeps of an element that has not gone: its end marker, and the second copy that a fork sends of a full line; a
sink's elements stand in its lines, which it sends again (R418). -/
def State.keepsElem (s : State) (e : Elem) : Bool :=
  e.isEnd || (e.ready && !Conf.sink (s.port e.core e.ctx e.sp).cfg)

/-- What a context takes with it. -/
def State.parkedCtx (s : State) (k x rank : Nat) : ParkedCtx :=
  let c := s.ctx k x
  { rank := rank, ctx := x
    held := { c with chans := c.chans.map fun h => (h.1, { h.2 with chain := h.2.chain.map Chain.park }) }
    parked := (s.core k).queuedOf x
    cmds := ((s.core k).cmds.filter fun q => q.ctx == x).map Cmd.cancel
    toks := s.toks.filter fun t => t.held && t.src.core == k && t.src.ctx == x
    elems := s.elems.filter fun e => e.sentBy k x && s.keepsElem e }

/-- Take a context from its core: it is unbound, and what it takes with it is gone from the core. -/
def State.takeAway (s : State) (k x : Nat) : State :=
  let s := (List.range 4).foldl (fun s n => s.unwait k x n) s
  let s := s.dropHeld k x
  let s := { s with elems := s.elems.filter fun e => !e.sentBy k x }
  let s := s.modCore k fun c => { c with cmds := c.cmds.filter (fun q => q.ctx != x), parkQ := c.parkQ.filter fun p => p.1 != x }
  let s := s.modCtx k x fun c => { c with ports := [], chans := [] }
  s.unbind k x

/-! ## IMEM images (R385) -/

/-- Read `n` words of `z` bytes, each with its poison. -/
def readWords (k ten z : Nat) (acc : AccessKind) : Nat → Nat → Launching (List (List Byte × Bool))
  | _, 0 => pure []
  | va, n + 1 => do
    let w ← sread k ten va z acc
    let ws ← readWords k ten z acc (va + z) n
    pure (w :: ws)

/-- Place words in IMEM, each with its poison (R119, R424). -/
def Core.placeWords (c : Core) (o : Nat) : List (List Byte × Bool) → Core
  | [] => c
  | (bs, b) :: ws => Core.placeWords { c with imem := placeBytes c.imem o bs, imemBad := c.imemBad.set false (o / 4) b } (o + 4) ws

/-- Store templates, each with its poison (R119, R424). -/
def Half.withTemplates (h : Half) (ts : List (Nat × BitVec 128 × Bool)) : Half :=
  ts.foldl (fun h t => { h with tmpl := h.tmpl.set 0 t.1 t.2.1, tmplBad := h.tmplBad.set false t.1 t.2.2 }) h

/-- Whether a core holds an image, and whether it has room for it (R385). -/
def Core.holds (c : Core) (img : Nat × Nat × Nat) : Bool := img.2.2 == 0 || c.images.contains img
def overlaps (a b : Nat × Nat × Nat) : Bool := a.2.1 < b.2.1 + b.2.2 && b.2.1 < a.2.1 + a.2.2
def Core.imemRoom (c : Core) (img : Nat × Nat × Nat) : Bool :=
  c.holds img || !(c.boundCtxs.any fun x => match (c.ctx x).bind with
    | some b => overlaps b.img img
    | none => false)

/-- Load a missing image through the tenant's translation. -/
def loadImage (k ten : Nat) (img : Nat × Nat × Nat) : Launching Unit := do
  let s ← get
  if (s.core k).holds img then pure ()
  else do
    let ws ← readWords k ten 4 .execute img.1 (img.2.2 / 4)
    modify fun s => s.modCore k fun c =>
      { c.placeWords img.2.1 ws with images := img :: c.images.filter fun i => !overlaps i img }

/-! ## Putting a context back (R413, R418, R419) -/

/-- A token that a word waiting in a context will push, at the core the context returns to (R30). -/
def Tok.moved (t : Tok) (k : Nat) : Tok :=
  { t with
    src := { t.src with core := k }
    dst := { t.dst with core := if t.dst.core = t.src.core then k else (neighbour k (opposite t.chan)).getD t.dst.core } }

/-- An element that waits for its target, at the core its sender returns to: a gang keeps its shape (R412). -/
def Elem.moved (e : Elem) (k : Nat) : Elem := { e with core := k, toCore := e.toCore + k - e.core }

/-- A context restored trapped is dispatched again (R401, R419), or posted again for the host, with what its record says. -/
def State.redispatch (s : State) (k x : Nat) : State :=
  let c := s.ctx k x
  let ten := s.ctxTenant k x
  let code := bits c.trapCause.toNat 7 0
  if !c.trapped then s.modCtx k x fun c => { c with pend := false }
  else if s.hostServes ten code then
    let base := spad k (bits c.trapCause.toNat 44 32 * 256)
    (s.modCtx k x fun c => { c with pend := false }).logError (some ten)
      { cls := 12, sub := code, core := k, ctx := x, d0 := s.nat (base + 64) 8, fault := BitVec.ofNat 256 (s.nat (base + 96) 32) }
  else s.modCtx k x fun c => { c with pend := true }

/-- Put a context back at a core: its copies are replayed, its parked ports stay queued, what its ports had sent goes on, a trapped context is dispatched
again. A gang waits for its last member. -/
def State.putBack (s : State) (k : Nat) (p : ParkedCtx) (halted : Bool) : State :=
  let b : Bind := p.held.bind.getD {}
  let s := s.setCtx k p.ctx { p.held with
    bind := some { b with released := b.shape == 0 }
    halted := halted
    yielding := false
    atYield := false }
  let s := s.modCore k fun co => { co with
    cmds := co.cmds ++ p.cmds
    parkQ := co.parkQ ++ p.parked.map fun n => (p.ctx, n) }
  let s := { s with nextId := s.nextId + 512, toks := s.toks ++ p.toks.map fun (t : Tok) => t.moved k,
                          elems := s.elems ++ p.elems.map fun (e : Elem) => e.moved k }
  (s.redispatch k p.ctx).rewriteSlots k

/-- What comes back of a context, with its copies and ports. -/
def State.withDram (s : State) (k : Nat) (p : ParkedCtx) (c : Ctx) (w : Img) (ports : Img) : ParkedCtx :=
  { p with
    held := s.portsBack k (c.ofDram w) ports
    cmds := cmdsOf p.cmds w p.ctx ((c.bind.map (·.tenant)).getD 0) (s.nextId + 128 * p.ctx) }

/-- A context from its whole image (R415), or the reason why its step is abandoned (R416, R424). -/
def State.fromWhole (s : State) (k : Nat) (p : ParkedCtx) (w : Img) : Except Nat ParkedCtx :=
  if !imageHeadOk w || !sectionsOk w || !banksOk w 13568 || !copiesOk w 13568 then .error 0x81
  else if smallBad w then .error 0x82
  else
    let c := (p.held.ofSmall s w).ofMain (w.drop 9344)
    let q := s.withDram k p { c with mx := c.mx.ofAcc (w.drop 1024) } (w.drop 13568) w
    .ok { q with held := { q.held with chans := q.held.chans.map fun h => (h.1, h.2.settle q.cmds h.1) } }

/-- Whether a half holds a template that is poisoned (R424). -/
def Half.heldBad (h : Half) : Bool := h.tmplBad.any (·.2)

/-- A context from shadow storage and the image of its DRAM part (R412, R417). -/
def State.fromShadow (s : State) (k : Nat) (p : ParkedCtx) (w : Img) : Except Nat ParkedCtx :=
  if p.shadowBad then .error 0x80
  else if !banksOk w 0 || !copiesOk w 0 then .error 0x81
  else if p.held.ap.heldBad || p.held.xp.heldBad then .error 0x82
  else
    let recs := (List.range 16).flatMap fun n => bytesImg (swapRecord (p.held.port n) false) 16
    let back := fun (h : Half) => h.back h.pc h.active (decide (h.rdv ≠ Rdv.none)) h.inWord
      (fields 4 5 (fun i => h.toks.get 0 i)) h.deadline s.gtc
    .ok (s.withDram k p { p.held with ap := back p.held.ap, xp := back p.held.xp } w (zeros 512 ++ recs))

/-- End the card of a step that cannot be restored (R403). -/
def State.abandonParked (s : State) (p : ParkedCtx) (reason : Nat) : State :=
  match p.held.bind with
  | some b => s.failCard b.card 4 reason b.node (s.ioff b.card b.inst)
  | none => s

end Sys2Proof.Machine
end

