-- ==== Sys2Proof/Machine/SummitEv.lean ====
section
/-! DEFINITION. Steps of Summit: reports, binding, gangs, nodes, cards, ageing, yield requests, counters, triggers (15). -/

namespace Sys2Proof.Machine
open Sys2Proof

def State.control (s : State) (ten : Nat) : Control := s.dev.control.get {} ten
def State.modControl (s : State) (ten : Nat) (f : Control → Control) : State :=
  { s with dev := { s.dev with control := s.dev.control.put ten (f (s.control ten)) } }

/-- The bound user contexts of a tenant. -/
def State.boundOf (s : State) (ten : Nat) : List (Nat × Nat) :=
  s.cores.flatMap fun k => k.2.ctxs.filterMap fun x => match x.2.bind with
    | some b => if b.tenant = ten ∧ x.1 < 4 then some (k.1, x.1) else none
    | none => none

/-- HALTED of PCTL: every core of the partition is halted. -/
def State.halted (s : State) (ten : Nat) : Bool :=
  let bs := s.boundOf ten
  bs.all (fun m => (s.ctx m.1 m.2).halted) && ((s.control ten).halt || !bs.isEmpty)

/-! ## Reports and cards -/

/-- The first report of a queue, and the reports without it. -/
def takeReport (ten cls : Nat) : List Report → Option (Report × List Report)
  | [] => none
  | r :: rs =>
    if r.ten = ten ∧ r.cls = cls then some (r, rs)
    else (takeReport ten cls rs).map fun p => (p.1, r :: p.2)

/-- `TAIL_SWAP_REPORT` (R374): Summit takes the next swap on a queue's tail word and accepts its card. -/
def execTailSwapReport (ten cls : Nat) (s : State) : Out :=
  .next <| match takeReport ten cls s.dev.reports with
  | none => s
  | some (r, rs) =>
    let s : State := { s with dev := { s.dev with reports := rs } }
    let q := s.queue ten cls
    let s := if r.old = q.last then s else
      (s.modQueue ten cls fun q => { q with err := true }).logError (some ten) { cls := 5, d0 := q.tpa }
    (s.linkCard ten cls r.new).acceptCard ten cls r.new true none

/-- A write of LPOST (R407, R429): a card's address accepts it as a swap would. -/
def State.lpostWrite (s : State) (ten v : Nat) : State :=
  if s.hostMode ten 0 then
    let (f, s) := s.newFree
    let c := Config.openClass f % 4
    (s.linkCard ten c v).acceptCard ten c v true none
  else s

/-- `LPOST` (R407, R429). -/
def execLpost (ten : Nat) (v : BitVec 64) (s : State) : Out := hostStep (fun s => s.lpostWrite ten v.toNat) s

/-- A card that fails ends only when its steps have ended (R378); one that is complete ends at once. -/
def execCardCompletion (id : Nat) (s : State) : Out :=
  .next <| match s.card id with
  | some c => if s.cardOver c then s.endCard c else s
  | none => s

/-- `MSIX_WRITE` (R455): the host port issues the MSI-X write of a vector that has been raised, or, past these, of one that is
pending. Its `masked` is what the function's MSI-X table, which the spec leaves to PCIe, says of the vector now: a masked one
sets its pending bit (log entry 94). -/
def execMsixWrite (w : VectorWrite) (s : State) : Out :=
  .next <| if s.dev.tripped then s else
  let i := w.place
  let n := s.dev.msix.length
  match s.dev.msix[i]?, s.dev.msixPend[i - n]? with
  | some m, _ =>
    let d := { s.dev with msix := s.dev.msix.eraseIdx i }
    { s with dev :=
      if w.masked then { d with msixPend := if d.msixPend.contains m then d.msixPend else d.msixPend ++ [m] }
      else { d with msixSent := d.msixSent ++ [m] } }
  | none, some m =>
    if w.masked then s
    else { s with dev := { s.dev with msixPend := s.dev.msixPend.eraseIdx (i - n), msixSent := s.dev.msixSent ++ [m] } }
  | none, none => s

/-! ## Binding (R385 to R389) -/

/-- The class a step counts as (R388). -/
def TileStep.rank (t : TileStep) (gtc age : Nat) : Nat := if t.cls0 || decide (age ≤ gtc - t.since) then 0 else t.cls

/-- Whether a step comes before another: class, then card, then enumeration order. -/
def stepBefore (gtc age : Nat) (a b : TileStep) : Bool :=
  let x := a.rank gtc age
  let y := b.rank gtc age
  decide (x < y) || (x == y && (decide (a.card < b.card) || (a.card == b.card && decide (a.id < b.id))))

/-- Whether no card before it in its queue holds a step back (R377). -/
def State.cardOpen (s : State) (t : TileStep) : Bool := match s.card t.card with
  | some c => !s.blocked c
  | none => false

/-- The step of a tenant that Summit binds next, if it can. -/
def State.headStep (s : State) (ten : Nat) : Option TileStep :=
  let age := (s.launch ten).age.toNat
  let open' := s.dev.steps.filter fun t => t.ten == ten && s.cardOpen t
  open'.foldl (fun b t => match b with
    | none => some t
    | some u => if stepBefore s.gtc age t u then some t else some u) none

/-- Whether Summit binds steps of a tenant now: enabled, not halted, no cooperative request or swap in progress (R375, R409,
R410). -/
def State.binds (s : State) (ten : Nat) : Bool :=
  (s.launch ten).lcfg.getLsbD 8 && !(s.control ten).halt && !s.halted ten && !(s.control ten).coop && (s.control ten).swap == 0

/-- Main vectors of the other contexts of a core, and whether one of them excludes a request (R169). -/
def Core.granules (c : Core) : Nat := (c.boundCtxs.map fun x => ((c.ctx x).bind.map (·.nmain)).getD 0).foldl (· + ·) 0
def Core.excludes (c : Core) (vreq : Nat) : Bool :=
  (vreq == 128 && !c.boundCtxs.isEmpty) || c.boundCtxs.any fun x => ((c.ctx x).bind.map (·.vreq)).getD 0 == 128

def roundUp8 (n : Nat) : Nat := (n + 7) / 8 * 8

/-- Whether a core meets the needs of a member (R385), apart from the context. -/
def State.coreFits (s : State) (k vreq : Nat) (img : Nat × Nat × Nat) : Bool :=
  let c := s.core k
  decide (c.granules + roundUp8 vreq ≤ 128) && !c.excludes vreq && c.imemRoom img

/-- The contexts of a core that a bind may take. -/
def State.freeCtxs (s : State) (k : Nat) : List Nat := (List.range 4).filter (s.vacant k)

/-- The cores of a gang that starts at a core. -/
def gangCores (k0 shape : Nat) : List Nat := (List.range (gangSize shape)).map (k0 + ·)

/-- Whether Summit may use a core: not on die 1 while the bridge is down (R426). -/
def State.reachable (s : State) (k : Nat) : Bool := s.dev.bridge.up || decide (k < 128)

/-- The first candidate gang on which every member's needs are met, in rising order after the gang last bound (R385). -/
def State.candidate (s : State) (ten shape vreq : Nat) (img : Nat × Nat × Nat) : Option Nat :=
  let gs := s.gangs ten shape
  let from' := s.dev.lastBound.get 0 ten
  ((gs.filter fun k => decide (from' ≤ k)) ++ gs.filter fun k => decide (k < from')).find? fun k0 =>
    (gangCores k0 shape).all fun k => s.reachable k && s.coreFits k vreq img && !(s.freeCtxs k).isEmpty

/-- One side's templates, preloaded (R197): each set bit of the mask takes the next 16 bytes. -/
def preload (k ten : Nat) : Nat → Nat → List Nat → Launching (List (Nat × BitVec 128 × Bool))
  | _, _, [] => pure []
  | mask, va, n :: ns =>
    if bit mask n then do
      let (bs, b) ← sread k ten va 16 .execute
      let rest ← preload k ten mask (va + 16) ns
      pure ((n, BitVec.ofNat 128 (leNat bs), b) :: rest)
    else preload k ten mask va ns

/-- Argument `j` of a step, from its base and stride: a poisoned one gives a poisoned argument (R16, R381). -/
def argWord (inst : Nat) (e : List Byte × Bool) : Nat × Bool :=
  (wrap 64 ((leNat (e.1.take 8) : Int) + sgn 64 (leNat (e.1.drop 8)) * inst), e.2)

/-- The argument block of a step (R381), as 8-byte words; VALID is poisoned where it comes of a poisoned row (R16). -/
def argBlock (valid : Nat) (vbad : Bool) (inst : Nat) (es : List (List Byte × Bool)) : Img :=
  padImg 16 ((valid % 2 ^ 32, vbad) :: es.map (argWord inst))

/-- The bind sequence on one member (R178, R386). An argument block that would run past the scratchpad is not written, for its offset does
not wrap (R81; log entry 71). -/
def bindMember (t : TileStep) (d : Node) (h : Khdr) (k x : Nat) : Launching Unit := do
  loadImage k t.ten (d.imgva, d.imgoff, d.imglen)
  let at' ← preload k t.ten h.apmask (d.khdr + h.aptpl) (List.range 62)
  let xt ← preload k t.ten h.xpmask (d.khdr + h.xptpl) (List.range 62)
  let es ← readWords k t.ten 16 .read d.argva d.narg
  let s ← get
  let b : Bind := {
    tenant := t.ten, gang := t.id, shape := h.shape, released := h.shape == 0, nmain := roundUp8 h.vreq, vreq := h.vreq
    scount := h.scount, aentry := h.aentry, xentry := h.xentry, card := t.card, cls := t.cls
    cls0 := t.rank s.gtc (s.launch t.ten).age.toNat == 0, node := t.node, inst := t.inst
    step := t.id, run := t.run, coord := t.coord, valid := t.valid, validBad := t.validBad, img := (d.imgva, d.imgoff, d.imglen) }
  modify fun s =>
    let o := s.ctx k x
    let c : Ctx := {
      bind := some b, trapCause := o.trapCause, rerr := o.rerr, ports := []
      ap := ({ pc := h.aentry, active := true } : Half).withTemplates at'
      xp := ({} : Half).withTemplates xt }
    let at' := d.argoff * 128 + 128 * x
    let s := s.setCtx k x c
    (if at' + 128 ≤ 2 ^ 21 then s.writeImg (spad k at') (argBlock t.valid t.validBad t.inst es) else s).rewriteSlots k

def bindAll (t : TileStep) (d : Node) (h : Khdr) : List (Nat × Nat) → Launching Unit
  | [] => pure ()
  | (k, x) :: ms => do
    bindMember t d h k x
    bindAll t d h ms

/-- A context of each member: `pick` chooses among the free ones of each core. -/
def State.pickCtxs (s : State) (pick : Nat) : Nat → List Nat → List (Nat × Nat)
  | _, [] => []
  | i, k :: ks =>
    let fs := s.freeCtxs k
    (k, fs.getD (pick / 4 ^ i % Nat.max 1 fs.length) 0) :: s.pickCtxs pick (i + 1) ks

/-- Take a step from the ready list, and note where the tenant's gang was bound. -/
def State.tookStep (s : State) (t : TileStep) (k0 : Nat) : State :=
  { s with dev := { s.dev with
    steps := s.dev.steps.filter fun u => u.id != t.id
    lastBound := s.dev.lastBound.put t.ten (k0 + 1) } }

/-- Take a step from the ready list that cannot be bound again; the posts of its chains are no longer held (R393). -/
def State.lostAside (s : State) (t : TileStep) : State :=
  ({ s with dev := { s.dev with steps := s.dev.steps.filter fun u => u.id != t.id } } : State).auditNote t.ten

/-- The graph that a card's node stands in. -/
def stepNode (c : Card) (node : Nat) : Launching (Nat × Nat × Node) := do
  let (nn, nva) ← readGraph c.ten c.graph
  let d ← readNode c.ten nva nn node
  pure (nn, nva, d)

/-- The node and the kernel header of a step, read and checked again (R378, R385). -/
def stepNeeds (t : TileStep) (c : Card) : Launching (Node × Khdr) := do
  let (_, _, d) ← stepNode c t.node
  let h ← readKhdr c.ten d.khdr
  let s ← get
  ensure (!(s.gangs c.ten h.shape).isEmpty) 4
  ensure d.imageOk 5
  pure (d, h)

/-- Bind a step that is not set aside (R385, R386); it stays ready where no candidate meets its needs, and waits while a core of the
gang is frozen (R420). -/
def bindStep (t : TileStep) (c : Card) (pick : Nat) : Launching Unit := atNode t.node (t.inst - c.inst) do
  let (d, h) ← stepNeeds t c
  let s ← get
  match s.candidate c.ten h.shape h.vreq (d.imgva, d.imgoff, d.imglen) with
  | none => pure ()
  | some k0 => if (gangCores k0 h.shape).any s.frozen then pure () else do
    wholly <| bindAll t d h (s.pickCtxs pick 0 (gangCores k0 h.shape))
    modify fun s => s.tookStep t k0

/-- The address of a member's image in the yield area (R411). -/
def State.yieldAt (s : State) (ten k x : Nat) : Nat :=
  (s.control ten).ybase.toNat + 0xB8000 * ((s.partition ten).takeWhile (· != k)).length + 0x2E000 * x

/-- Whether the members of a step set aside can be bound again: to the same cores and contexts (R411), with slots for their code
tables (R96). -/
def State.asideFits (s : State) (ms : List (Nat × ParkedCtx)) : Bool :=
  ms.all fun m => s.reachable m.1 && s.vacant m.1 m.2.ctx && s.tablesFit m.1 [m.2] && match m.2.held.bind with
    | some b => s.coreFits m.1 b.vreq b.img
    | none => true

/-- The members of a step set aside, restored from the yield area; the first that cannot be ends the attempt. -/
def State.restoreAside (s : State) (ten : Nat) (ms : List (Nat × ParkedCtx)) : Except Nat (List (Nat × ParkedCtx)) :=
  ms.mapM fun m => (s.fromWhole m.1 m.2 (s.readImg (s.yieldAt ten m.1 m.2.ctx) 23296)).map fun c => (m.1, c)

def loadImages (ten : Nat) : List (Nat × ParkedCtx) → Launching Unit
  | [] => pure ()
  | (k, p) :: ms => do
    loadImage k ten ((p.held.bind.map (·.img)).getD (0, 0, 0))
    loadImages ten ms

/-- Bind a step that was set aside (R411), once none of its cores is frozen (R420). -/
def State.bindAside (s : State) (t : TileStep) (ms : List (Nat × ParkedCtx)) : State :=
  if !s.asideFits ms || ms.any fun m => s.frozen m.1 then s else
  match loadImages t.ten ms s with
  | (.error e, s) => (s.launchFail t.card { e with nidx := t.node, ioff := s.ioff t.card t.inst }).lostAside t
  | (.ok _, s) =>
    match s.restoreAside t.ten ms with
    | .error r => (s.failCard t.card 4 r t.node (s.ioff t.card t.inst)).lostAside t
    | .ok cs =>
      (cs.foldl (fun s m => s.putBack m.1 m.2 false) s).tookStep t ((ms.head?.map (·.1)).getD 0)

/-- What a step needs of a core, where it can be read: its shape, its main vectors, its image. -/
def State.needsOf (s : State) (t : TileStep) : Option (Nat × Nat × (Nat × Nat × Nat)) :=
  match s.card t.card with
  | some c => match stepNeeds t c s with
    | (.ok (d, h), _) => some (h.shape, h.vreq, (d.imgva, d.imgoff, d.imglen))
    | (.error _, _) => none
  | none => none

/-- Whether a step is bindable (R389): some candidate gang meets R385; for a step set aside, its own cores and contexts do. -/
def State.bindable (s : State) (t : TileStep) : Bool :=
  match t.aside with
  | some ms => s.asideFits ms
  | none => match s.needsOf t with
    | some (shape, vreq, img) => (s.candidate t.ten shape vreq img).isSome
    | none => false

/-! ### Shares of the tenants (R388) -/

/-- The tenants that have a step Summit can bind now, with their weights. -/
def State.rivals (s : State) : List (Nat × Nat) := (List.range 16).filterMap fun ten =>
  match if s.binds ten then s.headStep ten else none with
  | some t => if s.bindable t then some (ten, Nat.max 1 (bits (s.launch ten).lcfg.toNat 7 0)) else none
  | none => none

/-- A rival's share of one bind. -/
def shareOf (rs : List (Nat × Nat)) (w : Nat) : Rat := (w : Rat) / ((rs.map (·.2)).sum : Nat)

def lagIn (ls : List (Nat × Rat)) (ten : Nat) : Rat := ((ls.find? fun p => p.1 == ten).map (·.2)).getD 0

/-- Whether lags are such that every rival can keep within a bind of its share from here on: each is less than a bind away from it, and by
each later bind those that must have been made for them are no more than have been. -/
def lagsHold (rs : List (Nat × Nat)) (ls : List (Nat × Rat)) : Bool :=
  let least := (rs.map (·.2)).foldl Nat.min 255
  ls.all (fun l => decide (-1 < l.2) && decide (l.2 < 1)) && (List.range ((rs.map (·.2)).sum / Nat.max 1 least + 1)).all fun n =>
    decide ((rs.map fun r => (lagIn ls r.1 + (n : Rat) * shareOf rs r.2).floor.toNat).sum ≤ n)

/-- The binds by which each rival is behind its share (R388): what was noted for them, less what was noted for all of them together,
shared by their weights, so that the lags of the rivals of the moment sum to 0. Where a change of that set has left lags with which
some share could not be kept, they count in part (log entry 87). -/
def lagsOf (rs : List (Nat × Nat)) (noted : List (Nat × Rat)) : List (Nat × Rat) :=
  let all := (rs.map fun r => lagIn noted r.1).sum
  let part := fun (q : Rat) => rs.map fun r => (r.1, q * (lagIn noted r.1 - all * shareOf rs r.2))
  part <| ([1, 3 / 4, 1 / 2, 1 / 4, 1 / 8].find? fun q => lagsHold rs (part q)).getD 0

/-- The tenant to bind for next: of those that the bind to come would leave no whole bind ahead of their share, the one that would
come to be a whole bind behind it first, ties to the lowest number. So no share ever strays by a whole bind (log entry 87). -/
def fairNext (rs : List (Nat × Nat)) (ls : List (Nat × Rat)) : Option Nat :=
  ((rs.filter fun r => decide (0 < lagIn ls r.1 + shareOf rs r.2)).foldl (fun b r => match b with
    | none => some r
    | some u => if (1 - lagIn ls r.1) / r.2 < (1 - lagIn ls u.1) / u.2 then some r else some u) none).map (·.1)

/-- The lags after a bind for a tenant. One that has no step to bind keeps what it is ahead, and nothing that it is behind. -/
def lagsAfter (rs : List (Nat × Nat)) (noted : List (Nat × Rat)) (ten : Nat) : List (Nat × Rat) :=
  let ls := lagsOf rs noted
  rs.map (fun r => (r.1, lagIn ls r.1 + shareOf rs r.2 - if r.1 = ten then 1 else 0))
    ++ noted.filter fun p => decide (p.2 < 0) && !(rs.any fun r => r.1 == p.1)

/-- Bind a tenant's head step, or find why it cannot be bound. -/
def State.tryBind (s : State) (t : TileStep) (pick : Nat) : State :=
  match t.aside, s.card t.card with
  | some ms, _ => s.bindAside t ms
  | none, some c => s.runLaunch c.id (bindStep t c pick)
  | none, none => s

/-- `STEP_BIND` (R385 to R389): Summit binds the head step of a tenant, if its needs are met and the tenant's share allows it. -/
def execStepBind (ten pick : Nat) (s : State) : Out :=
  .next <| if !s.binds ten then s else
  match s.headStep ten with
  | none => s
  | some t =>
    if !s.bindable t then s.tryBind t pick else
    let rs := s.rivals
    if fairNext rs (lagsOf rs s.dev.fairLag) ≠ some ten then s else
    let u := s.tryBind t pick
    if u.stepBound t.id then { u with dev := { u.dev with fairLag := lagsAfter rs s.dev.fairLag ten } } else u

/-- The contexts that are bound to a tile step. -/
def State.members (s : State) (step : Nat) : List (Nat × Nat) :=
  s.cores.flatMap fun k => k.2.ctxs.filterMap fun x => match x.2.bind with
    | some b => if b.step = step then some (k.1, x.1) else none
    | none => none

/-- `GANG_RELEASE` (R28): every member of a gang is bound and cleared, and may issue; it waits for a frozen core (R420). -/
def execGangRelease (step : Nat) (s : State) : Out :=
  .next <| if (s.members step).any fun m => s.frozen m.1 then s else (s.members step).foldl (fun s m => s.modCtx m.1 m.2 fun c =>
    { c with bind := c.bind.map fun b => { b with released := true } }) s

/-! ## Nodes -/

/-- Whether channel 3 of a core's system context is free (R381). -/
def State.channelFree (s : State) (k : Nat) : Bool :=
  ((s.ctx k 4).chan 3).chain.isNone && ((s.core k).outstanding 4 3).isEmpty

/-- `TRANSFORM_NODE_START` (R381): the oldest ready transform node of a tenant takes a free channel, of the lowest-numbered core that
has one; it waits while that core is frozen (R420). A halt or a swap does not hold it back; a tenant whose launch block is disabled
starts nothing (R375). -/
def execTransformNodeStart (ten : Nat) (s : State) : Out :=
  .next <| if !(s.launch ten).lcfg.getLsbD 8 then s else
  match s.dev.runs.find? fun r => r.xform && r.chain.isNone && decide (0 < r.left) && match s.card r.card with
      | some c => c.ten == ten && !s.blocked c && c.fail.isNone
      | none => false with
  | none => s
  | some r =>
    match (s.partition ten).find? fun k => s.channelFree k && s.reachable k, s.card r.card with
    | some k, some c => if s.frozen k then s else
      s.runLaunch c.id (atNode r.node (r.inst - c.inst) do
        let (_, _, d) ← stepNode c r.node
        modify fun s =>
          let s := s.modCtx k 4 fun x => x.setChan 3 { x.chan 3 with chain := some { next := some d.khdr, running := true, node := some r.id } }
          { s with dev := { s.dev with runs := s.dev.runs.map fun q => if q.id = r.id then { q with chain := some k } else q } })
    | _, _ => s

/-- What a transform node's chain says: running on, over with success, or failed (R381). -/
def State.transformEnd (s : State) (r : NodeRun) : Option Bool :=
  match r.chain with
  | none => none
  | some k =>
    match ((s.ctx k 4).chan 3).chain with
    | some h =>
      if h.running || !s.chainOver k 4 3 h then none else some (!h.failed && h.next.isNone)
    | none => some false

/-- Free the channel of a transform node. -/
def State.freeChannel (s : State) (r : NodeRun) : State :=
  match r.chain with
  | some k => s.modCtx k 4 fun x => x.setChan 3 { x.chan 3 with chain := none }
  | none => s

/-- Decrement a successor's counter by a DRAM atomic add of −1 (R382): the value before. One that the windows refuse has no effect
and returns poisoned data (R66). -/
def decrement (ten va : Nat) : Launching Nat := fun s =>
  match s.xlat (sumRq 0 ten) va 4 4 .atomic with
  | (.error f, s) => (.error { reason := 6, desc := f }, s)
  | (.ok p, s) =>
    if s.windowOk ten p.pa (p.pa + 3) .atomic then
      let v := s.nat p.pa 4
      (.ok v, s.storeNat none p.pa 4 ((v + 2 ^ 32 - 1) % 2 ^ 32) (s.badIn p.pa 4))
    else
      let (bs, s) := s.openBytes 4
      (.ok (leNat bs), s.refuseAt (sumSrc 0 ten) p.pa)

def decrementAll (c : Card) (nn nva inst : Nat) : List Nat → Launching Unit
  | [] => pure ()
  | n :: ns => do
    let v ← atNode n (inst - c.inst) (decrement c.ten (c.work + 4 * nn * (inst - c.inst) + 4 * n))
    if v = 0 then atNode n (inst - c.inst) (refuse 8)
    else if v = 1 then readyNode c nn nva inst n
    else pure ()
    decrementAll c nn nva inst ns

/-- Count a node of a card as complete. -/
def State.countNode (s : State) (id : Nat) : State :=
  { s with dev := { s.dev with cards := s.dev.cards.map fun c => if c.id = id then { c with nodesLeft := c.nodesLeft - 1 } else c } }

/-- In host-assisted dependency counting, a node that a node card has run counts once for the graph card with its graph and
instance (R430). -/
def Card.ranNode (g c : Card) (r : NodeRun) : Card :=
  if g.kind = 1 ∧ g.ten = c.ten ∧ g.graph = c.graph ∧ g.inst ≤ r.inst ∧ r.inst < g.inst + g.ninst ∧ ¬ g.ran.contains (r.inst, r.node)
  then { g with ran := (r.inst, r.node) :: g.ran, nodesLeft := g.nodesLeft - 1 } else g

/-- A node completes (R382, R429). -/
def State.nodeDone (s : State) (c : Card) (r : NodeRun) : State :=
  let s := s.freeChannel r
  let s : State := { s with dev := { s.dev with runs := s.dev.runs.filter fun q => q.id != r.id } }
  if s.hostMode c.ten 1 then
    let s := s.logError (some c.ten) { cls := 15, d0 := c.va, d1 := r.inst % 2 ^ 32 + r.node % 2 ^ 16 * 2 ^ 32 }
    if c.kind = 3 then
      let s := s.countNode c.id
      { s with dev := { s.dev with cards := s.dev.cards.map fun g => g.ranNode c r } }
    else { s with dev := { s.dev with cards := s.dev.cards.map fun g => if g.id = c.id then g.ranNode c r else g } }
  else if c.kind = 3 then s.countNode c.id
  else
    (s.runLaunch c.id (do
      let (nn, nva, d) ← atNode r.node (r.inst - c.inst) (stepNode c r.node)
      let ss ← atNode r.node (r.inst - c.inst) (readSucc c.ten nn d)
      decrementAll c nn nva r.inst ss)).countNode c.id

/-- `NODE_COMPLETION` (R381, R382): the last step of a node has ended, or its chain is over, on a core that is not frozen, whose channel is
then free (R420). A card that has failed goes no further (R378). -/
def execNodeCompletion (run : Nat) (s : State) : Out :=
  .next <| match s.dev.runs.find? fun r => r.id == run with
  | none => s
  | some r =>
    if r.chain.any s.frozen then s else
    match s.card r.card with
    | none => s
    | some c =>
      if c.fail.isSome then
        if (s.transformEnd r).isSome then
          let s := s.freeChannel r
          { s with dev := { s.dev with runs := s.dev.runs.filter fun q => q.id != r.id } }
        else s
      else if r.xform then
        match s.transformEnd r with
        | none => s
        | some true => s.nodeDone c r
        | some false =>
          let s := s.freeChannel r
          let s : State := { s with dev := { s.dev with runs := s.dev.runs.filter fun q => q.id != r.id } }
          s.launchFail c.id { reason := 9, nidx := r.node, ioff := r.inst - c.inst }
      else if r.left = 0 then s.nodeDone c r
      else s

/-! ## Ageing and yield requests (R388, R411) -/

/-- `STEP_AGEING` (R388): a step ready for AGE ticks counts as class 0 from then on. -/
def execStepAgeing (step : Nat) (s : State) : Out :=
  .next { s with dev := { s.dev with steps := s.dev.steps.map fun t =>
    if t.id = step ∧ (s.launch t.ten).age.toNat ≤ s.gtc - t.since then { t with cls0 := true } else t } }

/-- Whether a step waits for what another step holds: a core on which it could be bound, where its needs are not met. -/
def State.waitsFor (s : State) (t : TileStep) (victim : Nat) : Bool :=
  let on := fun (k : Nat) => (s.members victim).any fun m => m.1 == k
  !s.bindable t && match t.aside with
    | some ms => ms.any fun m => on m.1 && !s.asideFits [m]
    | none => match s.needsOf t with
      | some (shape, vreq, img) => (s.gangs t.ten shape).any fun k0 => (gangCores k0 shape).any fun k =>
          on k && !(s.coreFits k vreq img && !(s.freeCtxs k).isEmpty)
      | none => false

/-- The tile steps of a tenant that are bound and of a class below 0 (R388). -/
def State.lowerSteps (s : State) (ten : Nat) : List Nat :=
  distinct (s.cores.flatMap fun k => k.2.ctxs.filterMap fun x => match x.2.bind with
    | some b => if b.tenant = ten ∧ 0 < b.cls ∧ ¬ b.cls0 then some b.step else none
    | none => none)

/-- Whether a ready class-0 step that Summit may bind waits for what steps of a lower class hold (R388). -/
def State.waitsHeld (s : State) (t : TileStep) : Bool :=
  s.binds t.ten && s.cardOpen t && t.rank s.gtc (s.launch t.ten).age.toNat == 0 && (s.lowerSteps t.ten).any (s.waitsFor t)

/-- Note since when each ready step has waited for what steps of a lower class hold. -/
def State.noteHeld (s : State) : State :=
  { s with dev := { s.dev with steps := s.dev.steps.map fun t =>
    { t with heldSince := if s.waitsHeld t then some (t.heldSince.getD s.gtc) else none } } }

/-- Ask the members of a step to yield; a frozen core is asked when its freeze ends (R420). -/
def State.askYield (s : State) (victim : Nat) : State :=
  (s.members victim).foldl (fun s m =>
    if s.frozen m.1 then s.holdAt m.1 (.ctl m.1 (.yield m.2)) else s.modCtx m.1 m.2 fun c => { c with yielding := true }) s

/-- `YIELD_REQUEST` (R388): a class-0 step that Summit may bind has waited YLIM ticks for what a step of a lower class holds. -/
def execYieldRequest (step victim : Nat) (s : State) : Out :=
  .next <| match s.dev.steps.find? fun t => t.id == step with
  | none => s
  | some t =>
    if s.waitsHeld t ∧ (s.launch t.ten).ylim.toNat ≤ s.gtc - t.heldSince.getD s.gtc ∧ (s.lowerSteps t.ten).contains victim ∧ s.waitsFor t victim
    then s.askYield victim
    else s

/-- `SET_ASIDE` (R411): every member of a step has halted at its YIELD; their images go to the yield area, and the step is
ready again for the same cores and contexts. -/
def execSetAside (step : Nat) (s : State) : Out :=
  .next <|
    let ms := s.members step
    if ms.isEmpty || (ms.any fun m => s.frozen m.1) || !(ms.all fun m => (s.ctx m.1 m.2).halted && (s.ctx m.1 m.2).atYield && s.canPark m.1 m.2) then s else
    match ms.head?.bind fun m => (s.ctx m.1 m.2).bind with
    | none => s
    | some b =>
      let parked := ms.map fun m => (m.1, s.parkedCtx m.1 m.2 (rankOf b.shape m.1))
      let s := parked.foldl (fun s m =>
        s.writeImg (s.yieldAt b.tenant m.1 m.2.ctx) (wholeImg s m.1 m.2.ctx m.2.cmds)) s
      let s := ms.foldl (fun s m => s.takeAway m.1 m.2) s
      let t : TileStep := {
        id := step, run := b.run, card := b.card, ten := b.tenant, cls := b.cls, inst := b.inst, node := b.node
        coord := b.coord, valid := b.valid, validBad := b.validBad, since := s.gtc, cls0 := b.cls0, aside := some parked }
      { s with dev := { s.dev with steps := s.dev.steps ++ [t] } }

/-! ## Registers of the launch block (R373, R375, R390) -/

/-- A write of QTAIL (R373, R375): EN from 0 to 1 takes the tail word's value as the last card and starts a new chain of LINK
words; TPA can be written only while EN is 0; clearing EN ends what has been reported and not accepted. -/
def State.qtailWrite (s : State) (ten cls v : Nat) : State :=
  let q := s.queue ten cls
  let en := bit v 0
  let tpa := if q.en then q.tpa else bits v 51 3 * 8
  let s := s.modQueue ten cls fun q => { q with qtail := BitVec.ofNat 64 (tpa + en.toNat) }
  if en && !q.en then
    s.modQueue ten cls fun q => { q with last := s.nat tpa 8, prev := none }
  else if !en && q.en then
    { s with dev := { s.dev with reports := s.dev.reports.filter fun r => !(r.ten == ten && r.cls == cls) } }
  else s

/-- `QTAIL_WRITE` (R373). -/
def execQtailWrite (ten cls : Nat) (v : BitVec 64) (s : State) : Out := hostStep (fun s => s.qtailWrite ten cls v.toNat) s

/-- A write of COUNT (R390): it takes the value, SEQ counts the write, PAR is computed again. -/
def State.ctrWrite (s : State) (ten n v : Nat) : State := s.modCtr ten n fun r => r.update (bits v 31 0)

/-- `CTR_WRITE` (R390). -/
def execCtrWrite (ten n : Nat) (v : BitVec 64) (s : State) : Out := hostStep (fun s => s.ctrWrite ten n v.toNat) s

/-- A write of CCFG (R390, R394): a TRGL of 9 to 15 is taken as 8; setting TRG starts the launch ordinal at 0. -/
def State.ccfgWrite (s : State) (ten n v : Nat) : State :=
  let w := setBits (bits v 31 0) 24 24 0
  let w := if 8 < bits v 31 28 then setBits w 31 28 8 else w
  s.modCtr ten n fun r => { r with ccfg := BitVec.ofNat 64 w, k := if bit w 26 && !r.trg then 0 else r.k }

/-- `CCFG_WRITE` (R390). -/
def execCcfgWrite (ten n : Nat) (v : BitVec 64) (s : State) : Out := hostStep (fun s => s.ccfgWrite ten n v.toNat) s

/-! ## Audit and triggers (R393, R394) -/

/-- Stop every chain that waits on a counter (R393); a frozen core stops its own when its freeze ends (R420). -/
def State.stopWaiters (s : State) (ten n : Nat) : State :=
  (s.ctr ten n).waiters.foldl (fun s w =>
    if s.frozen w.1 then s.holdAt w.1 (.ctl w.1 (.chainStop w.2.1 w.2.2)) else s.stopChain w.1 w.2.1 w.2.2) s

/-- `RING_AUDIT_EVENT` (R393): a shortfall that has held for AUDIT ticks is logged; or, with `flip`, a read of the counter
finds that its parity does not match: the chains that wait on it stop, and it is logged. -/
def execRingAuditEvent (ten n : Nat) (flip : Bool) (s : State) : Out :=
  .next <|
    let r := s.ctr ten n
    if flip then
      ((s.modCtr ten n fun r => { r with parBad := true }).stopWaiters ten n).logError (some ten) { cls := 7, d0 := n, d1 := r.pair }
    else
      match r.short with
      | some t =>
        if s.shortfall ten n ∧ (s.launch ten).audit.toNat ≤ s.gtc - t then
          (s.modCtr ten n fun r => { r with short := some s.gtc }).logError (some ten) { cls := 6, d0 := n, d1 := r.pair }
        else s
      | none => s

/-- The STATE of a trigger card. -/
def cardState (ten va : Nat) (s : State) : Option Nat :=
  match sread 0 ten (va + 48) 1 .read s with
  | (.ok (bs, _), _) => some (leNat bs)
  | (.error _, _) => none

/-- `TRIGGER_LAUNCH` (R394): Summit consumes one unit of a trigger counter and launches the next trigger card, unless that
card is still pending. -/
def execTriggerLaunch (ten n : Nat) (s : State) : Out :=
  .next <|
    let r := s.ctr ten n
    let va := bits r.trgva.toNat 56 6 * 64 + 64 * (r.k % 2 ^ r.trgl)
    if !(r.en && r.trg && !r.parBad && decide (1 ≤ r.count) && (s.launch ten).lcfg.getLsbD 8) || cardState ten va s == some 1 then s else
    let s := s.modCtr ten n fun r => { r.update (r.count - 1) with k := r.k + 1 }
    let s := s.tryWrite ten va (leBytes 8 0)
    let s := s.tryWrite ten (va + 48) (leBytes 8 1)
    let s := s.tryWrite ten (va + 56) (leBytes 8 0)
    let (f, s) := s.newFree
    s.acceptCard ten (Config.openClass f % 4) va false (some r.k)

end Sys2Proof.Machine
end

