-- ==== Sys2Proof/Machine/Chains.lean ====
section
/-! DEFINITION. Chains: fetching entries, consuming and posting ring-slot counters, issuing commands (R390 to R392). -/

namespace Sys2Proof.Machine
open Sys2Proof

/-! ## Entries (Table 15-13) -/

/-- Whether an entry is malformed. -/
def ChainEntry.malformed (e : ChainEntry) : Bool :=
  e.va % 64 != 0 || bit e.raw.toNat 8 || e.f 15 12 != 0 || e.f 511 128 != 0 || !(e.kind == 1 || e.kind == 2)
    || (e.wen && e.wcnt == 0) || (e.pen && e.pcnt == 0) || (e.kind == 2 && e.f 1023 512 != 0)

/-! ## The chain of a channel -/

/-- Whether a counter refuses a chain's wait: disabled, in trigger mode, or with bad parity (R390, R393, R394). -/
def Ctr.refusesWait (r : Ctr) : Bool := !r.en || r.trg || r.parBad

/-- `CHAIN_ENTRY_FETCH` (R392): the next entry is read with requester code 8; its wait begins. A fault is logged and stops the
chain; so does a malformed entry. -/
def execChainEntryFetch (k x n : Nat) (s : State) : Out :=
  .next <| match s.chainOf k x n with
  | none => s
  | some h =>
    match h.next with
    | none => s
    | some va =>
      if !h.running || h.entry.isSome || h.failed || s.frozen k then s else
      let ten := s.chainTenant k x h
      let log := if ten = 16 then s.coreTenant k else some ten
      let r : Src := { ten := ten, log := log, core := k, ctx := x }
      match s.translate ⟨k, x, ten, 8, n⟩ va 128 .read with
      | (.error f, s) =>
        (s.logError log { cls := 14, core := k, ctx := x, sys := ten == 16, d0 := va, fault := f }).failChain k x n h h.posts
      | (.ok ps, s) =>
        if ps.any fun p => (s.linkCut k p.1.pa).isSome then
          (s.logError log { cls := 11, core := k, ctx := x, sys := ten == 16, d0 := va }).failChain k x n h h.posts
        else if ps.any fun p => s.notNow k p.1.pa p.2 then s
        else
          let (bs, b, s) := s.readParts r .read ps
          let e : ChainEntry := { va := va, raw := BitVec.ofNat 1024 (leNat bs), bad := b }
          if e.malformed then s.failChain k x n h h.posts
          else if e.wen && (s.ctr ten e.wctr).refusesWait then s.failChain k x n h h.posts
          else
            let s := s.setChain k x n { h with entry := some e }
            if e.wen then s.modLaunch ten fun l =>
                { l with ctrs := l.ctrs.put e.wctr { l.ctrs.get {} e.wctr with waiters := (l.ctrs.get {} e.wctr).waiters ++ [(k, x, n)] } }
            else s

/-- The check of a chain's command (R391): its channel is the chain's, and it is not timed. -/
def State.checkChained (s : State) (k x n : Nat) (b : Blk) : Except (Nat × Nat) (Option CodecTable) :=
  match s.checkBlk k x b with
  | .error (1, st) => .error (1, st)
  | r => if Blk.chan b ≠ n ∨ Blk.timed b then .error (2, 0) else r

/-- The block as it stands on the chain's channel. -/
def chainBlk (b : Blk) (n : Nat) : Blk := BitVec.ofNat 512 (setBits (setBits b.toNat 33 32 n) 27 27 0)

/-- Start the entry of a chain: issue its command, note its post, go on to the next entry (R392). A command that came poisoned writes poison
(R16; log entry 28). -/
def State.startEntry (s : State) (k x n : Nat) (h : Chain) (e : ChainEntry) : State :=
  let post : ChainPost := {
    post := if e.pen then some (e.pctr, e.pcnt) else none
    took := if e.wen && e.pen then e.wcnt else 0
    wctr := e.wctr
    cmd := if e.kind = 1 then some s.nextId else none
    last := e.last }
  let ten := s.chainTenant k x h
  let s := s.setChain k x n { h with entry := none, next := if e.last then none else some e.next, posts := h.posts ++ [post] }
  if e.kind = 1 then
    let (_, id, s) := s.issueChecked k x (chainBlk e.cmd n) 0 true (s.checkChained k x n e.cmd)
    s.modCmd k id fun q => { q with ten := ten, bad := e.bad }
  else s

/-- Whether the entry of a chain waits for slots of a counter. -/
def ChainEntry.waits (e : ChainEntry) : Bool := e.wen && !e.took

/-- Take the slots of an entry whose wait is over: its chain is the first in line, and they are there. -/
def State.takeSlots (s : State) (k x n ten : Nat) (h : Chain) (e : ChainEntry) : State :=
  let s := (s.unwait k x n).setChain k x n { h with entry := some { e with took := true } }
  s.modCtr ten e.wctr fun r => r.update (r.count - e.wcnt)

/-- `CHAIN_SLOT_CONSUME` (R392): the entry that a chain has fetched goes on. Where it waits on a counter, and is the first in line and the
slots are there, they are taken; then its command issues, at once or in a later such event, once its channel and its tag have room; and in no cycle of which a word has read
what the completion of a rejected one changes (R317). -/
def execChainSlotConsume (k x n : Nat) (s : State) : Out :=
  .next <| match s.chainOf k x n with
  | none => s
  | some h =>
    match h.entry with
    | none => s
    | some e =>
      let ten := s.chainTenant k x h
      let r := s.ctr ten e.wctr
      if (!h.running && !e.took) || s.frozen k then s
      else if e.waits && r.refusesWait then s.failChain k x n h h.posts
      else if e.waits && (r.waiters.head? != some (k, x, n) || decide (r.count < e.wcnt)) then s
      else
        let s := if e.waits then s.takeSlots k x n ten h e else s
        if e.kind == 2 || (s.cmdRoom k x (chainBlk e.cmd n) && (s.core k).sampledAt != some (s.coreCc k))
        then (s.startEntry k x n h e).auditNote ten else s

/-- The post of the oldest entry whose post is still to be made, once its command has completed with status 0. A command that ends
otherwise, or a counter that is disabled, stops the chain. -/
def State.chainPost (s : State) (k x n : Nat) : State :=
  match s.chainOf k x n with
  | none => s
  | some h =>
    match h.posts with
    | [] => s
    | p :: ps =>
      if p.cmd.isSome then s
      else if (p.status.getD 0) ≠ 0 then s.failChain k x n h []
      else
        let ten := s.chainTenant k x h
        let done := s.setChain k x n { h with posts := ps, running := h.running && !p.last }
        match p.post with
        | none => done.auditNote ten
        | some (c, v) =>
          if !(s.ctr ten c).en then s.failChain k x n h [] else (done.post ten c v).auditNote ten

/-- `CHAIN_POST` (R392): a post, which waits at the port of a frozen core. -/
def execChainPost (k x n : Nat) (s : State) : Out :=
  .next <| if s.frozen k then s.holdAt k (.post k x n) else s.chainPost k x n

end Sys2Proof.Machine
end

