-- ==== Sys2Proof/Machine/Preempt.lean ====
section
/-! DEFINITION. Forced halts, cooperative requests and swaps of a partition (R408 to R419). -/

namespace Sys2Proof.Machine
open Sys2Proof

/-- Tell every core with contexts of a tenant: a frozen one takes it when its freeze ends (R420). -/
def State.tellCores (s : State) (ten : Nat) (w : CtlWork) (f : State → Nat → State) : State :=
  (distinct ((s.boundOf ten).map (·.1))).foldl (fun s k => if s.frozen k then s.holdAt k (.ctl k w) else f s k) s

/-- `FORCED_HALT` (R409): with HALT set, every context of the partition stops at an instruction boundary; an elided region
aborts. -/
def execForcedHalt (ten : Nat) (s : State) : Out :=
  hostStep (fun s => (s.modControl ten fun c => { c with halt := true }).tellCores ten (.halt ten) fun s k => s.haltCore k ten) s

/-- `HALT_RELEASE` (R408, R409): with HALT cleared and no swap made, every context resumes where it stopped. -/
def execHaltRelease (ten : Nat) (s : State) : Out :=
  hostStep (fun s => (s.modControl ten fun c => { c with halt := false }).tellCores ten (.goOn ten) fun s k => s.unhaltCore k ten) s

/-- `COOPERATIVE_REQUEST` (R408, R410): COOP is set until every bound context has halted or been unbound. -/
def execCooperativeRequest (ten : Nat) (s : State) : Out :=
  hostStep (fun s => (s.modControl ten fun c => { c with coop := true }).settleCoop ten) s

/-! ## Swap areas (R417) -/

def State.rankIn (s : State) (ten k : Nat) : Nat := ((s.partition ten).takeWhile (· != k)).length
def State.swapAt (s : State) (ten rank : Nat) (host : Bool) : Nat :=
  (s.control ten).swapbase.toNat + (if host then 0x300000 else 0x280000) * rank
def imageAt (slot x : Nat) (host : Bool) : Nat := slot + 0x200000 + (if host then 0x2E000 else 0x13000) * x

/-- The barriers of a core in the swap area: 8 bytes each, with their poison. -/
def barsImg (m : SMap Bar) : Img :=
  (List.range 2048).map fun n =>
    let b := m.get {} n
    (b.e % 2 ^ 16 + b.a % 2 ^ 16 * 2 ^ 16 + b.p.toNat * 2 ^ 32, b.bad)
def barsOf (w : Img) : SMap Bar :=
  smapOf {} 2048 fun n =>
    { e := bits (Img.word w n) 15 0, a := bits (Img.word w n) 31 16, p := bit (Img.word w n) 32, bad := Img.bad w n }

/-- Whether a core of a partition is frozen, for which its swaps wait (R420). -/
def State.partFrozen (s : State) (ten : Nat) : Bool := (s.partition ten).any s.frozen

/-- Whether a partition can be swapped out now (R412): halted, its copies cancelled or over, nothing of it on its way. -/
def State.canSwapOut (s : State) (ten : Nat) : Bool :=
  s.halted ten && !s.partFrozen ten && (s.boundOf ten).all fun m => s.canPark m.1 m.2

/-- Write one core's part of the swap area: its scratchpad, and in host-assisted mode its barriers. -/
def State.saveCore (s : State) (ten : Nat) (host : Bool) (k : Nat) : State :=
  let slot := s.swapAt ten (s.rankIn ten k) host
  let s := s.copyFrom s (spad k 0) slot 0x200000
  if host then s.writeImg (slot + 0x2B8000) (barsImg (s.core k).bars) else s

/-- Write one context's part of the swap area. -/
def State.saveCtx (s : State) (ten : Nat) (host : Bool) (m : Nat × ParkedCtx) : State :=
  let pa := imageAt (s.swapAt ten m.2.rank host) m.2.ctx host
  if host then s.writeImg pa (wholeImg s m.1 m.2.ctx m.2.cmds)
  else s.writeImg pa (dramImg (s.ctx m.1 m.2.ctx) m.2.cmds)

/-- The record of a context's trap before it is saved: RAPC is the fallback of a region that has aborted since, whose word does not repeat
(R225; log entry 122). -/
def State.settleRecord (s : State) (k x : Nat) : State :=
  let base := spad k (bits (s.ctx k x).trapCause.toNat 44 32 * 256)
  match (s.ctx k x).redirect with
  | some pc =>
    let s := if s.nat (base + 8) 4 = 0xFFFFFFFF then s
      else (s.setBytes (base + 8) (leBytes 4 pc)).setByte (base + 72) (s.byte (base + 72) &&& ~~~4)
    s.modCtx k x fun c => { c with redirect := none }
  | none => s

/-- Swap a partition out (R412): its images are written, its steps are parked, its contexts unbound. -/
def State.swapOut (s : State) (ten : Nat) (host : Bool) : Parked × State :=
  let ms := s.boundOf ten
  let s := ms.foldl (fun s m => s.settleRecord m.1 m.2) s
  let ps := ms.map fun m => (m.1, s.parkedCtx m.1 m.2 (s.rankIn ten m.1))
  let bars := (s.partition ten).map fun k => (s.rankIn ten k, (s.core k).bars)
  let cl := (List.range 32).filter (s.owns ten)
  let s := (s.partition ten).foldl (fun s k => s.saveCore ten host k) s
  let s := ps.foldl (fun s m => s.saveCtx ten host m) s
  let s := ms.foldl (fun s m => s.takeAway m.1 m.2) s
  ({ host := host, clusters := cl, ctxs := ps.map (·.2), bars := if host then [] else bars }, s)

/-- The core to which a rank of a parked set comes back (R413): in hardware mode the same core, in host-assisted mode the core of that
rank in the partition as it now is. -/
def State.backCore (s : State) (ten : Nat) (p : Parked) (rank : Nat) : Option Nat :=
  if p.host then (s.partition ten)[rank]?
  else (p.clusters[rank / 8]?.map fun c => 8 * c + rank % 8).filter fun k => s.owns ten (k / 8)

/-- Whether the cores to which the members of a parked context's gang come back make up a gang of its shape, each of the rank it had
(R28, R30). -/
def State.gangBack (s : State) (ten : Nat) (p : Parked) (c : ParkedCtx) : Bool :=
  match c.held.bind, s.backCore ten p c.rank with
  | some b, some k => b.shape == 0 || p.ctxs.all fun d =>
      (d.held.bind.map (·.gang)) != some b.gang || match s.backCore ten p d.rank with
        | some j => sameGang b.shape k j && rankOf b.shape j == rankOf b.shape (8 * p.clusters.getD (d.rank / 8) 0 + d.rank % 8)
        | none => false
  | _, _ => true

/-- The image of a parked context in the swap area of a state; none where its rank has no core now, or its gang no shape (log entry
33). -/
def State.imageOf (s : State) (ten : Nat) (p : Parked) (c : ParkedCtx) : Option (Nat × Img) :=
  ((s.backCore ten p c.rank).filter fun _ => s.gangBack ten p c).map fun k =>
    (k, s.readImg (imageAt (s.swapAt ten c.rank p.host) c.ctx p.host) (if p.host then 23296 else 9728))

/-- Restore the scratchpad and barriers of a rank's core from the swap area of a state, and from shadow storage (R413). -/
def State.restoreCore (s s0 : State) (ten : Nat) (p : Parked) (r : Nat) : State :=
  match s.backCore ten p r with
  | none => s
  | some k =>
  let slot := s.swapAt ten r p.host
  let bars := if p.host then barsOf (s0.readImg (slot + 0x2B8000) 2048) else ((p.bars.find? fun b => b.1 == r).map (·.2)).getD []
  (s.copyFrom s0 slot (spad k 0) 0x200000).modCore k fun c => { c with bars := bars }

/-- A parked context that can come back, with its core, or why its step is abandoned. -/
def State.readBack (s : State) (p : Parked) (c : ParkedCtx) (i : Option (Nat × Img)) : Except Nat (Nat × ParkedCtx) :=
  match i with
  | none => .error 0x80
  | some (k, w) => (if p.host then s.fromWhole k c w else s.fromShadow k c w).map fun x => (k, x)

/-- The tile step of a parked context. -/
def ParkedCtx.step (c : ParkedCtx) : Nat := (c.held.bind.map (·.step)).getD 0

/-- The reason for which a step of a parked set is lost, if one of its members is. -/
def lostStep (rs : List (ParkedCtx × Except Nat (Nat × ParkedCtx))) (step : Nat) : Option Nat :=
  firstSome (fun m => match m.2 with
    | .error e => if m.1.step = step then some e else none
    | .ok _ => none) rs

/-- Load the missing IMEM images of contexts that come back, and end the cards of the steps for which one cannot be loaded: their
numbers, and the state. -/
def State.reloadImages (s : State) (ten : Nat) : List (Nat × ParkedCtx) → List Nat × State
  | [] => ([], s)
  | (k, c) :: ms =>
    let b : Bind := c.held.bind.getD {}
    match loadImage k ten b.img s with
    | (.error e, s) =>
      let (ls, s) := (s.launchFail b.card { e with nidx := b.node, ioff := s.ioff b.card b.inst }).reloadImages ten ms
      (c.step :: ls, s)
    | (.ok _, s) => s.reloadImages ten ms

/-- Swap a parked set in (R413): scratchpads and barriers, then contexts, which read their images from a state `s0`. A step of which
one member cannot be restored is lost as a whole (R30, R403). -/
def State.swapIn (s s0 : State) (ten : Nat) (p : Parked) : State :=
  let imgs := p.ctxs.map fun c => (c, s0.imageOf ten p c)
  let s := (List.range (8 * p.clusters.length)).foldl (fun s r => s.restoreCore s0 ten p r) s
  let rs := imgs.map fun m => (m.1, s.readBack p m.1 m.2)
  let s := if rs.any fun m => match m.2 with
      | .error e => e == 0x80
      | .ok _ => false
    then s.modControl ten fun c => { c with swerr := true } else s
  let s := rs.foldl (fun s m => match lostStep rs m.1.step with
    | some e => s.abandonParked m.1 e
    | none => s) s
  let back := rs.filterMap fun m => match m.2, lostStep rs m.1.step with
    | .ok r, none => some r
    | _, _ => none
  let (lost, s) := s.reloadImages ten back
  back.foldl (fun s m => if lost.contains m.2.step then s else s.putBack m.1 m.2 (s.control ten).halt) s

/-- The parked set of a tenant that a swap in the mode in force finds. -/
def State.parkedSet (s : State) (ten : Nat) : Option Parked :=
  match s.dev.parked.find? fun p => p.1 == ten with
  | some (_, p) => if p.host = s.hostMode ten 6 then some p else none
  | none => none

/-- Store a tenant's parked set, or take it out. The posts of chains that are lost with it are no longer held (R393). -/
def State.setParked (s : State) (ten : Nat) (p : Option Parked) : State :=
  ({ s with dev := { s.dev with parked := match p with
    | some p => s.dev.parked.put ten p
    | none => s.dev.parked.erase ten } } : State).auditNote ten

/-- The end of a swap. -/
def State.swapDone (s : State) (ten : Nat) : State := s.modControl ten fun c => { c with swap := 0 }
/-- A parked set that cannot come back is lost: its steps are abandoned with REASON 80h (R413). -/
def State.dropParked (s : State) (ten : Nat) : State :=
  match s.dev.parked.find? fun p => p.1 == ten with
  | some (_, p) => (p.ctxs.foldl (fun s c => s.abandonParked c 0x80) s).setParked ten none
  | none => s
/-- A swap in that finds no parked image of the mode in force (R413, R429): a set of the other mode is lost (log entry 33). -/
def State.swapLost (s : State) (ten : Nat) : State :=
  (s.dropParked ten).modControl ten fun c => { c with swap := 0, swerr := true }

/-- Whether the cores that a parked set returns to have slots for its code tables (R96). -/
def State.tableRoom (s : State) (ten : Nat) (p : Parked) : Bool :=
  (List.range (8 * p.clusters.length)).all fun r => match s.backCore ten p r with
    | some k => s.tablesFit k (p.ctxs.filter fun c => c.rank == r)
    | none => true

/-- Whether a core has the granules and the IMEM that contexts which come back were given (R169, R385). -/
def Core.takesBack (c : Core) (ps : List ParkedCtx) : Bool :=
  let bs := ps.filterMap fun p => if p.ctx < 4 then p.held.bind else none
  decide (c.granules + (bs.map (·.nmain)).sum ≤ 128) && bs.all fun b =>
    !c.excludes b.vreq && (b.vreq != 128 || bs.length == 1) && c.imemRoom b.img

/-- Whether the contexts that a parked set returns to are free, and their cores have room and are not frozen. -/
def State.roomFor (s : State) (ten : Nat) (p : Parked) : Bool :=
  !s.partFrozen ten && s.tableRoom ten p && p.ctxs.all fun c => match s.backCore ten p c.rank with
    | some k => s.vacant k c.ctx && (s.core k).takesBack (p.ctxs.filter fun d => d.rank == c.rank)
    | none => true

/-- `SWAP_OUT` (R412): a swap out that has been asked for, of a halted partition. A set that is parked already is written over, and so
lost (log entry 33). -/
def execSwapOut (ten : Nat) (s : State) : Out :=
  .next <| if (s.control ten).swap = 1 ∧ s.canSwapOut ten then
      let (p, s) := s.swapOut ten (s.hostMode ten 6)
      ((s.dropParked ten).setParked ten (some p)).swapDone ten
    else s

/-- `SWAP_IN` (R413). -/
def execSwapIn (ten : Nat) (s : State) : Out :=
  .next <| if (s.control ten).swap ≠ 2 then s else
  match s.parkedSet ten with
  | none => s.swapLost ten
  | some p => if s.roomFor ten p then ((s.swapIn s ten p).setParked ten none).swapDone ten else s

/-- `SWAP_EXCHANGE` (R413): what is parked is read before the outgoing set is written. -/
def execSwapExchange (ten : Nat) (s : State) : Out :=
  .next <| if (s.control ten).swap = 3 ∧ s.canSwapOut ten then
      let (p, t) := s.swapOut ten (s.hostMode ten 6)
      match s.parkedSet ten with
      | none => (t.swapLost ten).setParked ten (some p)
      | some q => if t.tableRoom ten q then ((t.swapIn s ten q).setParked ten (some p)).swapDone ten else s
    else s

end Sys2Proof.Machine
end

