-- ==== Sys2Proof/Machine/Regs.lean ====
section
/-! DEFINITION. The device register region: which register an offset names, what a read returns and changes, what a write
does; invalidations, context control, cluster moves, port modes (03, 15, 16, 20). -/

namespace Sys2Proof.Machine
open Sys2Proof

/-! ## The map of the region (Tables 03-2, 15-1, 16-5, 20-1, 20-2, 20-3, 20-5) -/

/-- A register of the region. A log is named by its tenant, 16 for the device log. -/
inductive Reg where
  | ptroot (t : Nat) | tlbiva (t : Nat) | tlbicmd (t : Nat) | twbase (t n : Nat) | twlimit (t n : Nat)
  | lcfg (t : Nat) | age (t : Nat) | audit (t : Nat) | ylim (t : Nat) | qtail (t c : Nat) | qstat (t c : Nat)
  | ctr (t n : Nat) | ccfg (t n : Nat) | trgva (t n : Nat)
  | fsplit (t : Nat) | pctl (t : Nat) | swapbase (t : Nat) | lpost (t : Nat) | ybase (t : Nat)
  | elbase (l : Nat) | elcfg (l : Nat) | elhead (l : Nat) | eltail (l : Nat)
  | devid | bootstat | tcfg | tadj | hoff | gtcnow | brctl | therm | cpart (c : Nat)
  | cctl (k c : Nat) | cause (k c : Nat)
  | pcfg (p : Nat) | rbase (p : Nat) | rcfg (p : Nat) | count (p i : Nat) | hrbase (p : Nat)
  | rz
  deriving DecidableEq, Repr

/-- The register at an 8-aligned offset of the region (Table 20-1); what no block covers reads as zero. -/
def regAt (off : Nat) : Reg :=
  let b := off / 0x1000000
  let o := off % 0x1000000
  let t := o / 0x10000
  let r := o % 0x10000
  if b = 0 then
    if 16 < t then .rz
    else if r = 0 then .ptroot t else if r = 0x40 then .tlbiva t else if r = 0x48 then .tlbicmd t
    else if 0x100 ≤ r ∧ r < 0x200 then (if r % 16 = 0 then .twbase t ((r - 0x100) / 16) else .twlimit t ((r - 0x100) / 16))
    else .rz
  else if b = 1 then
    if 15 < t then .rz
    else if r = 0 then .lcfg t else if r = 8 then .age t else if r = 0x10 then .audit t else if r = 0x18 then .ylim t
    else if 0x40 ≤ r ∧ r < 0x80 then (if r % 16 = 0 then .qtail t ((r - 0x40) / 16) else .qstat t ((r - 0x40) / 16))
    else if 0x1000 ≤ r ∧ r < 0x3000 then
      let n := (r - 0x1000) / 32
      if r % 32 = 0 then .ctr t n else if r % 32 = 8 then .ccfg t n else if r % 32 = 16 then .trgva t n else .rz
    else .rz
  else if b = 2 then
    if 15 < t then .rz
    else if r = 0 then .fsplit t else if r = 8 then .pctl t else if r = 0x10 then .swapbase t else if r = 0x18 then .lpost t
    else if r = 0x20 then .ybase t else if r = 0x40 then .elbase t else if r = 0x48 then .elcfg t
    else if r = 0x50 then .elhead t else if r = 0x58 then .eltail t else .rz
  else if b = 3 then
    if o = 0 then .devid else if o = 8 then .bootstat else if o = 0x10 then .tcfg else if o = 0x18 then .tadj
    else if o = 0x20 then .hoff else if o = 0x28 then .gtcnow else if o = 0x40 then .brctl
    else if o = 0x80 then .elbase 16 else if o = 0x88 then .elcfg 16 else if o = 0x90 then .elhead 16
    else if o = 0x98 then .eltail 16 else if o = 0xC0 then .therm
    else if 0x100 ≤ o ∧ o < 0x200 then .cpart ((o - 0x100) / 8) else .rz
  else if b = 4 then
    let k := o / 0x1000
    let c := o % 0x1000 / 0x100
    let q := o % 0x100
    if 255 < k ∨ 4 < c then .rz else if q = 0 then .cctl k c else if q = 8 then .cause k c else .rz
  else if b = 5 then
    if 7 < t then .rz
    else if r = 0 then .pcfg t else if r = 8 then .rbase t else if r = 0x10 then .rcfg t
    else if 0x18 ≤ r ∧ r < 0x38 then .count t ((r - 0x18) / 8) else if r = 0x38 then .hrbase t else .rz
  else .rz

/-! ## Parts of the state that registers name -/

def State.trans (s : State) (t : Nat) : Trans := s.dev.trans.get {} t
def State.modTrans (s : State) (t : Nat) (f : Trans → Trans) : State :=
  { s with dev := { s.dev with trans := s.dev.trans.put t (f (s.trans t)) } }
def State.log (s : State) (l : Nat) : Log := if l = 16 then s.dev.log else (s.control l).log
def State.modLog (s : State) (l : Nat) (f : Log → Log) : State :=
  if l = 16 then { s with dev := { s.dev with log := f s.dev.log } }
  else s.modControl l fun c => { c with log := f c.log }
def State.eth (s : State) (p : Nat) : EthPort := s.dev.ports.get {} p
def State.modEth (s : State) (p : Nat) (f : EthPort → EthPort) : State :=
  { s with dev := { s.dev with ports := s.dev.ports.put p (f (s.eth p)) } }
def State.cpart (s : State) (c : Nat) : Cpart := s.dev.cparts.get {} c
def State.modCpart (s : State) (c : Nat) (f : Cpart → Cpart) : State :=
  { s with dev := { s.dev with cparts := s.dev.cparts.put c (f (s.cpart c)) } }

/-- The word with bits [hi:lo] of `v` alone. -/
def field (v hi lo : Nat) : Nat := bits v hi lo * 2 ^ lo

/-- Whether a context is stopped by a trap, or the system context by a double trap (Table 20-3). -/
def State.isTrapped (s : State) (k c : Nat) : Bool := if c = 4 then (s.core k).doubleTrap else (s.ctx k c).trapped

/-- A counter of a port, and a port with one replaced (Table 20-5): FRAMES, DROP, INCOMPL, BADPKT. -/
def EthPort.counter (p : EthPort) : Nat → Nat
  | 0 => p.frames | 1 => p.drop | 2 => p.incompl | _ => p.badpkt
def EthPort.setCounter (p : EthPort) (i v : Nat) : EthPort :=
  match i with
  | 0 => { p with frames := v } | 1 => { p with drop := v } | 2 => { p with incompl := v } | _ => { p with badpkt := v }

/-! ## Reading -/

/-- What a register reads as. -/
def State.regValue (s : State) : Reg → Nat
  | .ptroot t => (s.trans t).ptroot.toNat
  | .tlbiva t => (s.trans t).tlbiva.toNat
  | .tlbicmd t =>
    let x := s.trans t
    x.npages.toNat * 2 ^ 32 + x.busy.toNat * 2 ^ 30 + x.err.toNat * 2 ^ 29 + x.kind.toNat
  | .twbase t n => ((s.trans t).twbase.get 0 n).toNat
  | .twlimit t n => ((s.trans t).twlimit.get 0 n).toNat
  | .lcfg t => (s.launch t).lcfg.toNat
  | .age t => (s.launch t).age.toNat
  | .audit t => (s.launch t).audit.toNat
  | .ylim t => (s.launch t).ylim.toNat
  | .qtail t c => (s.queue t c).qtail.toNat
  | .qstat t c => (s.queue t c).err.toNat * 2 ^ 63 + (s.queue t c).cards.length % 2 ^ 32
  | .ctr t n => (s.ctr t n).word
  | .ccfg t n => (s.ctr t n).ccfg.toNat
  | .trgva t n => (s.ctr t n).trgva.toNat
  | .fsplit t => (s.control t).fsplit.toNat
  | .pctl t =>
    let c := s.control t
    c.halt.toNat + c.coop.toNat * 2 + (s.halted t).toNat * 4 + (c.swap != 0).toNat * 2 ^ 7 + c.swerr.toNat * 2 ^ 8
  | .swapbase t => (s.control t).swapbase.toNat
  | .lpost _ => 0
  | .ybase t => (s.control t).ybase.toNat
  | .elbase l => (s.log l).base.toNat
  | .elcfg l => (s.log l).cfg.toNat + (s.log l).lost % 2 ^ 16 * 2 ^ 48
  | .elhead l => (s.log l).head.toNat
  | .eltail l => (s.log l).tail.toNat
  | .devid => Config.archRev.toNat
  | .bootstat => (Config.bootCode s.dev.bootStage).toNat + s.dev.bootFail % 256 * 256
  | .tcfg => s.dev.tcfg.toNat
  | .tadj => s.dev.tadj.toNat
  | .hoff => s.dev.hoff.toNat
  | .gtcnow => s.gtc % 2 ^ 64
  | .brctl => s.dev.bridge.up.toNat + (!s.dev.bridge.up).toNat * 2
  | .therm => (Config.junction s.fresh).toNat + field s.dev.therm.toNat 17 16
  | .cpart c =>
    let p := s.cpart c
    p.ten % 16 + p.valid.toNat * 2 ^ 5 + p.err.toNat * 2 ^ 6 + p.busy.toNat * 2 ^ 7
  | .cctl k c => (s.ctx k c).rerr.toNat * 2 ^ 29 + (s.isTrapped k c).toNat * 2 ^ 30
  | .cause k c => s.trapCauseOf k c
  | .pcfg p => bits (s.eth p).pcfg.toNat 63 0 + (s.eth p).up.toNat * 4 + (s.eth p).err.toNat * 8
  | .rbase p => (s.eth p).rbase.toNat
  | .rcfg p => (s.eth p).rcfg.toNat
  | .count p i => (s.eth p).counter i % 2 ^ 64
  | .hrbase p => (s.eth p).hrbase.toNat
  | .rz => 0

/-- What a read clears (RC fields): `lo` and `hi` say which half of the register is read. The temperature is another at each
read. -/
def State.regTaken (s : State) (lo hi : Bool) : Reg → State
  | .elcfg l => if hi then s.modLog l fun g => { g with lost := 0 } else s
  | .therm => s.newFree.2
  | .count p i => s.modEth p fun e =>
      let v := e.counter i
      e.setCounter i ((if lo then 0 else v % 2 ^ 32) + (if hi then 0 else v / 2 ^ 32 * 2 ^ 32))
  | _ => s

/-- A read of `n` bytes, 4 or 8 and aligned, at an offset of the region (R61). -/
def State.regRead (s : State) (off n : Nat) : Nat × State :=
  let r := regAt (off / 8 * 8)
  let v := s.regValue r
  if n = 8 then (v, s.regTaken true true r)
  else if off % 8 = 0 then (bits v 31 0, s.regTaken true false r)
  else (bits v 63 32, s.regTaken false true r)

/-! ## Invalidations (R78, R79) -/

/-- Remove a tenant's TLB entries that overlap pages `lo` to `hi` of 8 KiB, exclusive of `hi`, and its walk-cache entries; an
empty range removes nothing (Table 03-11). -/
def State.dropTlb (s : State) (t lo hi : Nat) : State :=
  { s with
    tlb := s.tlb.filter fun e => !(e.ten == t && decide (lo < hi) &&
      decide (e.page * 2 ^ (10 * e.lvl) < hi) && decide (lo < (e.page + 1) * 2 ^ (10 * e.lvl)))
    walk := if lo < hi then s.walk.filter fun w => w.ten != t else s.walk }

/-- GO with a kind and a length: BUSY is set, the entries go (R79); with BUSY set or a reserved kind, ERR alone. -/
def State.tlbiGo (s : State) (t kind npages : Nat) : State :=
  let x := s.trans t
  if x.busy || decide (1 < kind) then s.modTrans t fun x => { x with err := true }
  else
    let s := if kind = 0 then s.dropTlb t 0 (2 ^ 44) else
      let p := bits x.tlbiva.toNat 56 13
      s.dropTlb t p (p + npages)
    let n := s.nextId
    s.modTrans t fun x => { x with busy := true, mark := n }

/-- Whether something translated before an invalidation has yet to perform (R79). -/
def State.tlbiWaits (s : State) (t : Nat) : Bool :=
  let m := (s.trans t).mark
  (s.reqs.any fun q => !q.done && q.ten == t && decide (q.id < m)) ||
    (s.cores.any fun k => k.2.cmds.any fun q => q.ten == t && !q.log.isEmpty && decide (q.gen < m)) ||
    s.cores.any fun k => k.2.ctxs.any fun x => s.ctxTenant k.1 x.1 == t &&
      ((x.2.ports.any fun p => p.2.lines.any fun l => (!l.full || l.got != 0) && decide (l.gen < m)) || match x.2.elide with
        | some e => !e.writes.isEmpty && decide (e.gen < m)
        | none => false)

/-- A write of TLBICMD: GO while BUSY has no effect but ERR. -/
def State.tlbicmdWrite (s : State) (t v : Nat) (lo hi : Bool) : State :=
  let go := lo && bit v 31
  let s := if lo && bit v 29 then s.modTrans t fun x => { x with err := false } else s
  if go && (s.trans t).busy then s.modTrans t fun x => { x with err := true } else
  let s := if hi then s.modTrans t fun x => { x with npages := BitVec.ofNat 32 (bits v 63 32) } else s
  let s := if lo then s.modTrans t fun x => { x with kind := BitVec.ofNat 2 v } else s
  if go then s.tlbiGo t (s.trans t).kind.toNat (s.trans t).npages.toNat else s

/-! ## Context control (R448) -/

/-- The system context's end of a step that has none: both halves idle. -/
def State.abandonSystem (s : State) (k : Nat) : State :=
  ((s.dropHeld k 4).modCore k fun c => { c with handling := none }).modCtx k 4 fun c => { c with
    trapped := false
    ap := { c.ap with active := false, stall := none }
    xp := { c.xp with active := false, stall := none } }

/-- RESUME of a context: as ERET (R346, R402); a misaligned offset sets RERR and is logged. -/
def State.cctlResume (s : State) (k c : Nat) : State :=
  if !s.isTrapped k c then s else
  match s.returnFromTrap k c (fun s code => if c = 4 then s.abandonSystem k else s.abandon k c code) with
  | none =>
    let s := s.modCtx k c fun x => { x with rerr := true }
    s.logError (if c = 4 then none else some (s.ctxTenant k c)) { cls := 12, sub := 1, core := k, ctx := c, sys := c == 4 }
  | some t =>
    if c = 4 then t.modCore k fun o => { o with doubleTrap := false } else t.modCtx k c fun x => { x with resumed := some s.cc }

/-- A write of a context's control register, as its core takes it. -/
def State.cctlNow (s : State) (k c v : Nat) : State :=
  let s := if bit v 29 then s.modCtx k c fun x => { x with rerr := false } else s
  let s := if bit v 31 then s.cctlResume k c else s
  match bits v 17 16 with
  | 1 => s.parkResume k c (bits v 3 0)
  | 2 => s.parkDeliver k c (bits v 3 0)
  | _ => s

/-- A write of a context's control register; a frozen core takes it when its freeze ends (R420). -/
def State.cctlWrite (s : State) (k c v : Nat) : State :=
  if s.frozen k then s.holdAt k (.ctl k (.control c v)) else s.cctlNow k c v

/-! ## Cluster moves (R449) -/

/-- Whether a core of cluster `c` is one of `ks`. -/
def inCluster (c : Nat) (ks : List Nat) : Bool := ks.any fun k => k / 8 == c

/-- Whether a move of a cluster is refused. A set that the host-assisted mode has parked lies in the swap area alone, by rank
(R413, log entry 95). -/
def State.moveRefused (s : State) (c : Nat) : Bool :=
  let p := s.cpart c
  p.busy
    || (List.range 8).any (fun i => !(s.core (8 * c + i)).boundCtxs.isEmpty)
    || s.dev.steps.any (fun t => match t.aside with
        | some ms => inCluster c (ms.map (·.1))
        | none => false)
    || s.dev.parked.any (fun q => !q.2.host && q.2.clusters.contains c)

/-- A write of CPART: ERR by writing 1; a change of VALID or TEN is a move. -/
def State.cpartWrite (s : State) (c v : Nat) : State :=
  let s := if bit v 6 then s.modCpart c fun p => { p with err := false } else s
  let p := s.cpart c
  let valid := bit v 5
  let ten := bits v 3 0
  if valid = p.valid ∧ ten = p.ten then s
  else if s.moveRefused c then s.modCpart c fun p => { p with err := true }
  else s.modCpart c fun p => { p with busy := true, old := if p.valid then some p.ten else none, valid := valid, ten := ten }

/-- Whether a TLB entry leads to a cluster's apertures or SRAM. -/
def entryInCluster (c pte : Nat) : Bool :=
  let a := pteAddr pte
  (inSpad a || inSram a) && clusterOf a == c

/-- The end of a move: everything is scrubbed, the old tenant's entries for the cluster go, BUSY clears. A walk-cache entry stands
above pages of any kind: all of the tenant's go (log entry 95). -/
def State.cpartDone (s : State) (c : Nat) : State :=
  let p := s.cpart c
  if !p.busy then s else
  let s := s.scrubCluster c
  let s : State := match p.old with
    | some t => { s with
        tlb := s.tlb.filter fun e => !(e.ten == t && entryInCluster c e.pte.toNat)
        walk := s.walk.filter fun e => e.ten != t }
    | none => s
  s.modCpart c fun p => { p with busy := false, old := none }

/-! ## Port modes (R457) -/

def EthPort.fctr (p : EthPort) : Nat := bits p.pcfg.toNat 47 40
def EthPort.frctr (p : EthPort) : Nat := bits p.pcfg.toNat 39 32
def EthPort.ten (p : EthPort) : Nat := bits p.pcfg.toNat 31 28

def EthPort.setMode (p : EthPort) (m : Nat) : EthPort := { p with pcfg := BitVec.ofNat 64 (setBits p.pcfg.toNat 1 0 m) }

/-- Whether another ingress port names the same tenant and full-slot counter. -/
def State.ringTaken (s : State) (p : Nat) : Bool :=
  (List.range 8).any fun q => q != p && (s.eth q).mode == 2 && (s.eth q).ten == (s.eth p).ten && (s.eth q).fctr == (s.eth p).fctr

/-- A frame in progress is abandoned (R459). Its slot stays held. -/
def EthPort.abandon (e : EthPort) : EthPort :=
  { e with frame := none, held := e.held || e.frame.isSome, incompl := e.incompl + e.frame.isSome.toNat }

/-- Turn a port off: a frame in progress is abandoned and its slot goes back by a post to FRCTR. -/
def State.portOff (s : State) (p : Nat) : State :=
  let e := (s.eth p).abandon
  let s := if e.held then s.post e.ten e.frctr 1 else s
  s.modEth p fun _ => { e.setMode 0 with held := false, dropped := [] }

/-- A write of MODE (R457): it changes only from or to 00b. -/
def State.portMode (s : State) (p m : Nat) : State :=
  let e := s.eth p
  if m = 0 then (if e.mode = 0 then s else s.portOff p)
  else if e.mode ≠ 0 then (if m = 3 then s.modEth p fun e => { e with err := true } else s)
  else if m = 3 ∨ e.fctr = e.frctr ∨ s.ringTaken p then s.modEth p fun e => { e with err := true }
  else s.modEth p fun e => e.setMode m

/-- A write of PCFG (R457): the fields other than MODE while MODE is 00b, ERR by writing 1 among them; then MODE. -/
def State.pcfgWrite (s : State) (p v : Nat) (lo : Bool) : State :=
  let s := if (s.eth p).mode = 0 then
      s.modEth p fun e => { e with pcfg := BitVec.ofNat 64 (field v 63 24), err := e.err && !(lo && bit v 3) }
    else s
  if lo then s.portMode p (bits v 1 0) else s

/-! ## Preemption control (R408) -/

/-- A write of PCTL. SWAP is taken while no swap runs, and while HALTED or as a swap in. -/
def State.pctlWrite (s : State) (t v : Nat) : State :=
  let sw := bits v 6 5
  let take := sw != 0 && (s.control t).swap == 0 && (s.halted t || sw == 2)
  let s := s.modControl t fun c => { c with
    halt := bit v 0
    coop := c.coop || bit v 1
    swerr := c.swerr && !bit v 8
    swap := if take then sw else c.swap }
  if bit v 1 then s.settleCoop t else s

/-- A rate adjustment within ±500,000 parts per 10^9 (Table 20-2, R460; log entry 40). -/
def rateOf (v : Nat) : BitVec 64 :=
  let r := sgn 32 v
  BitVec.ofNat 64 (wrap 32 (if r < -500000 then -500000 else if 500000 < r then 500000 else r))

/-- A bridge that is down begins to train (R426). -/
def State.retrainBridge (s : State) : State :=
  if s.dev.bridge.up then s else { s with dev := { s.dev with bridge := { s.dev.bridge with retrain := some s.gtc } } }

/-! ## Writing -/

/-- What stands for the half of a register that a write of 4 bytes leaves out: the value read, with what writing 1 clears or
sets taken as 0. -/
def State.regKeep (s : State) (r : Reg) : Nat :=
  match r with
  | .qstat _ _ => 0
  | .tlbicmd _ => setBits (s.regValue r) 29 29 0
  | .pcfg _ => setBits (s.regValue r) 3 3 0
  | _ => s.regValue r

/-- A write of a register: its RW fields take the value, W1C and WO fields act (R6). `lo` and `hi` say which halves are
written. -/
def State.regPut (s : State) (v : Nat) (lo hi : Bool) : Reg → State
  | .ptroot t => s.modTrans t fun x => { x with ptroot := BitVec.ofNat 64 (field v 51 13 + field v 0 0) }
  | .tlbiva t => s.modTrans t fun x => { x with tlbiva := BitVec.ofNat 64 (field v 56 13) }
  | .tlbicmd t => s.tlbicmdWrite t v lo hi
  | .twbase t n => s.modTrans t fun x => { x with twbase := x.twbase.put n (BitVec.ofNat 64 (field v 51 13 + field v 5 0)) }
  | .twlimit t n => s.modTrans t fun x => { x with twlimit := x.twlimit.put n (BitVec.ofNat 64 (field v 51 13)) }
  | .lcfg t => s.modLaunch t fun l => { l with lcfg := BitVec.ofNat 64 (field v 8 0) }
  | .age t => s.modLaunch t fun l => { l with age := BitVec.ofNat 32 v }
  | .audit t => s.modLaunch t fun l => { l with audit := BitVec.ofNat 32 v }
  | .ylim t => s.modLaunch t fun l => { l with ylim := BitVec.ofNat 32 v }
  | .qtail t c => s.qtailWrite t c v
  | .qstat t c => if hi && bit v 63 then s.modQueue t c fun q => { q with err := false } else s
  | .ctr t n => if lo then s.ctrWrite t n v else s
  | .ccfg t n => s.ccfgWrite t n v
  | .trgva t n => s.modCtr t n fun r => { r with trgva := BitVec.ofNat 64 (field v 56 6) }
  | .fsplit t => s.modControl t fun c => { c with fsplit := BitVec.ofNat 64 (field v 6 0) }
  | .pctl t => if lo then s.pctlWrite t v else s
  | .swapbase t => s.modControl t fun c => { c with swapbase := BitVec.ofNat 64 (field v 51 21) }
  | .lpost t => s.lpostWrite t v
  | .ybase t => s.modControl t fun c => { c with ybase := BitVec.ofNat 64 (field v 51 20) }
  | .elbase l => s.modLog l fun g => { g with base := BitVec.ofNat 64 (field v 51 6) }
  | .elcfg l => s.modLog l fun g => { g with cfg := BitVec.ofNat 64 (field v 12 7 + field v 5 0) }
  | .eltail l => s.modLog l fun g => { g with tail := BitVec.ofNat 32 v }
  | .tcfg => { s with dev := { s.dev with tcfg := BitVec.ofNat 64 (field v 7 4 + field v 1 0) } }
  | .tadj => { s with dev := { s.dev with tadj := rateOf v } }
  | .hoff => { s with dev := { s.dev with hoff := BitVec.ofNat 64 v } }
  | .brctl => if lo && bit v 2 then s.retrainBridge else s
  | .cpart c => if lo then s.cpartWrite c v else s
  | .cctl k c => if lo then s.cctlWrite k c v else s
  | .pcfg p => s.pcfgWrite p v lo
  | .rbase p => s.modEth p fun e => { e with rbase := BitVec.ofNat 64 (field v 51 16) }
  | .rcfg p => s.modEth p fun e => { e with rcfg := BitVec.ofNat 64 v }
  | .hrbase p => s.modEth p fun e => { e with hrbase := BitVec.ofNat 64 (field v 51 14) }
  | .elhead _ | .devid | .bootstat | .gtcnow | .therm | .cause _ _ | .count _ _ | .rz => s

/-- A write of `n` bytes, 4 or 8 and aligned, at an offset of the region (R61). -/
def State.regWrite (s : State) (off n v : Nat) : State :=
  let r := regAt (off / 8 * 8)
  if n = 8 then s.regPut v true true r
  else if off % 8 = 0 then s.regPut (setBits (s.regKeep r) 31 0 v) true false r
  else s.regPut (setBits (s.regKeep r) 63 32 v) false true r

/-- Whether an access is one that a register takes (R61). -/
def regAccess (pa n : Nat) : Bool := (n == 4 || n == 8) && pa % n == 0

/-- The base of the region (Table 03-1). -/
def regBase : Nat := 0x10100000000

end Sys2Proof.Machine
end

