-- ==== Sys2Proof/Machine/MemEvents.lean ====
section
/-! DEFINITION. Requests at their homes, data on their way back, tokens, walks (R66, R135, R171, R176, R201, R353 to R369). -/

namespace Sys2Proof.Machine
open Sys2Proof

/-! ## When a request may perform (R355, R357, R358, Table 14-2) -/

/-- Whether a request must perform before another: it orders it within its thread, or it is a write in the outbound path of its
core and the other is an access of another thread of the core that came to the path later (R355). -/
def Req.precedes (r q : Req) : Bool :=
  r.orders q
    || (r.inPath && r.tid.core == q.tid.core && decide (r.tid ≠ q.tid) && r.overlaps q
        && match r.sent, q.sent with
          | some m, some n => decide (m < n)
          | _, _ => true)

/-- Whether two requests belong to one vector access and lie in one aligned 8-byte chunk, which is accessed at one instant
(R272). -/
def Req.together (r q : Req) : Bool := q.grp.isSome && r.grp == q.grp && r.pa / 8 == q.pa / 8

/-- Whether a request can perform now, but for those that perform with it. -/
def State.mayPerform (s : State) (q : Req) : Bool :=
  q.ready && !q.done && !s.dev.tripped && !s.cut q.tid.core q.pa && !s.reqs.any fun r => r.precedes q && !r.together q

/-- The requests that perform with one, itself among them. -/
def State.chunk (s : State) (q : Req) : List Req := s.reqs.filter fun r => r.id == q.id || r.together q

/-! ## Performing -/

/-- A request that has performed: one that returns data stays until they arrive; another is over. -/
def State.performed (s : State) (q : Req) : State :=
  (match q.dst with
    | .areg _ _ _ _ => { s with reqs := s.reqs.map fun r => if r.id = q.id then { q with done := true } else r }
    | _ => { s with reqs := s.reqs.filter fun r => r.id != q.id } : State).letGo q.tid

/-- A lane's value from an access: its element, extended by the signedness of its type (R271). -/
def laneValue (ty : Fmt) (n v : Nat) : Nat :=
  let w := Nat.min 32 (8 * n)
  if intSigned ty then wrap 32 (sgn w v) else v % 2 ^ w

/-- Data of a vector load reach their lanes of the main vector (R271, R272). -/
def State.toVector (s : State) (t : Tid) (idx lane n : Nat) (ty : Fmt) (q : Req) (v : Nat) (bad : Bool) : State :=
  s.modCtx t.core t.ctx fun c =>
    let r := c.v.get {} idx
    let w := moveWrite (BitVec.ofNat 64 ((2 ^ n - 1) * 2 ^ lane)) fun i =>
      (if n = 1 then laneValue ty q.n v else bits v (32 * (i - lane) + 31) (32 * (i - lane)), bad)
    let m := w.merge { v := r.v, bad := r.bad }
    { c with v := c.v.put idx { r with v := m.v, bad := m.bad } }

/-- Give a request what it found. -/
def State.answer (s : State) (q : Req) (v : Nat) (bad wrote : Bool) : State :=
  match q.dst with
  | .vec idx lane n ty => (s.toVector q.tid idx lane n ty q v bad).performed q
  | _ => s.performed { q with res := BitVec.ofNat 64 v, rbad := bad, wrote := wrote }

/-- A request at memory: it reads, and writes what its form says, at one instant (R135, R221, R355, R464). A 64-bit swap on a
registered tail word is reported (R374). An atomic on a line that a region tracks aborts the region, write or not (R224). -/
def State.performAt (s : State) (q : Req) : State :=
  let s := match q.op with
    | .write => s
    | .read => s.look (some q.tid) q.pa q.n
    | _ => s.touch (some q.tid) q.pa q.n true
  let old := s.nat q.pa q.n
  let r := act q.op q.n old (s.badIn q.pa q.n) q.data.toNat q.dbad
  let s := match r.new with
    | some (v, b) => s.storeNat (some q.tid) q.pa q.n v b
    | none => s
  let s := if q.op = .swap ∧ q.n = 8 then s.reportSwap q.pa old q.data.toNat else s
  s.answer q r.old r.bad r.wrote

/-- A request refused at a port (R66): a write is dropped, a read or an atomic returns poisoned data. -/
def State.performRefused (s : State) (q : Req) : State :=
  let s := s.refuseAt (s.srcOf q.tid) q.pa
  let (bs, s) := s.openBytes q.n
  s.answer q (leNat bs) true false

/-- A request at a register (R61). -/
def State.performReg (s : State) (q : Req) : State :=
  let off := q.pa - regBase
  if q.op = .write then (s.regWrite off q.n q.data.toNat).performed q
  else
    let (v, s) := s.regRead off q.n
    s.answer q v false false

/-- Whether a request comes to its port within its windows (R65, R66); a local offset is under none (R82). -/
def State.reqAllowed (s : State) (q : Req) : Bool := q.loc || s.windowOk q.ten q.pa (q.pa + q.n - 1) (opAccess q.op)

/-- Requests in the 8-byte word `w` that perform at one instant. Writes that cover their whole chunk leave none of its old
poison (R86). -/
def State.performAll (s : State) (w : Nat) (qs : List Req) : State :=
  let whole := (List.range 8).all fun j => qs.any fun q =>
    q.op == .write && decide (q.pa ≤ 8 * w + j) && decide (8 * w + j < q.pa + q.n)
  let s := if whole then { s with bad := s.bad.set false w false } else s
  qs.foldl (fun s q => s.performAt q) s

/-- A request that has reached its port, or its home, performs there (R66, R353 to R357), with those of its chunk. With `ue`, the home finds an
uncorrectable error first (R422). -/
def State.performHere (s : State) (q : Req) (ue : Bool) : State :=
  if !s.reqAllowed q then s.performRefused q
  else if inRegs q.pa then s.performReg q
  else
    let s' := if ue then s.uncorrectable (s.srcOf q.tid) q.pa q.n else s
    s'.performAll (q.pa / 8) (s.chunk q)

/-- A request reaches its port and its home. A scratchpad whose core is frozen holds it (R420). -/
def State.arrive (s : State) (q : Req) (ue : Bool) (w : PortWork) : State :=
  if !(s.chunk q).all s.mayPerform then s
  else if inSpad q.pa && s.frozen (spadCore q.pa) then s.holdAt (spadCore q.pa) w
  else s.performHere q ue

def State.req (s : State) (id : Nat) : Option Req := s.reqs.find? fun q => q.id == id

/-- Whether a request reads or writes and does no more. -/
def Req.plain (q : Req) : Bool := q.op == .read || q.op == .write

/-- `MEMORY_REQUEST_ARRIVAL` (R66): a read or a write reaches its port or its home and performs. -/
def execMemoryRequestArrival (id : Nat) (ue : Bool) (s : State) : Out :=
  .next <| match s.req id with
  | some q => if q.plain then s.arrive q ue (.memory id ue) else s
  | none => s

/-- `ATOMIC_PERFORM` (R221): an atomic runs at its location's home, in the location's order. -/
def execAtomicPerform (id : Nat) (ue : Bool) (s : State) : Out :=
  .next <| match s.req id with
  | some q => if q.plain then s else s.arrive q ue (.atomic id ue)
  | none => s

/-! ## Data on their way back -/

/-- The data of an AP load or atomic are written to its register, and the register is free (R201). -/
def State.loadReturn (s : State) (q : Req) : State :=
  match q.dst with
  | .areg rd ty taint pd =>
    let r : Acted := { old := q.res.toNat, bad := q.rbad, new := none, wrote := q.wrote }
    let s := s.modCtx q.tid.core q.tid.ctx fun c => returnA ty rd pd taint r q.op c
    { s with reqs := s.reqs.filter fun r => r.id != q.id }
  | _ => s

/-- `LOAD_DATA_ARRIVAL` (R201): the data of an AP load or atomic reach their core. -/
def execLoadDataArrival (id : Nat) (s : State) : Out :=
  .next <| match s.req id with
  | some q =>
    if !q.done then s else if s.frozen q.tid.core then s.holdAt q.tid.core (.loadData id) else s.loadReturn q
  | none => s

/-- `LONG_LATENCY_DELIVERY` (R171): a vector load, readout or tile mask reaches its register, which becomes full. -/
def execLongLatencyDelivery (id : Nat) (s : State) : Out :=
  .next <| match s.delivs.find? fun d => d.1 == id with
  | some (_, d) =>
    if s.canDeliver d && !s.frozen (delivAt d).1 then
      ({ s with delivs := s.delivs.filter fun e => e.1 != id } : State).deliver d
    else s
  | none => s

/-! ## Tokens (R175, R176) -/

/-- Whether a core's messages cannot now reach another core: the bridge is down or retrains (R425, R426). -/
def State.farCut (s : State) (j k : Nat) : Bool :=
  j / 128 != k / 128 && (!s.dev.bridge.up || s.dev.bridge.retrain.isSome)

/-- Whether all that a token waits for has performed at CORE scope. -/
def State.tokenFree (s : State) (t : Tok) : Bool :=
  !t.held && !s.reqs.any fun q => t.after.contains q.id && q.lacks .core

/-- A pushed token enters its FIFO. -/
def State.tokenEnters (s : State) (t : Tok) : State :=
  ({ s with toks := s.toks.filter fun u => u.id != t.id } : State).addTokens t.dst (· + 1) [t.chan]

/-- `TOKEN_ARRIVAL` (R176): a pushed token enters its FIFO. -/
def execTokenArrival (id : Nat) (s : State) : Out :=
  .next <| match s.toks.find? fun t => t.id == id with
  | some t =>
    if !s.tokenFree t || s.farCut t.src.core t.dst.core then s
    else if s.frozen t.dst.core then s.holdAt t.dst.core (.token id)
    else s.tokenEnters t
  | none => s

/-! ## Walks -/

/-- `PAGE_TABLE_WALK` (R72): a miss of a context's access walks its table and fills the TLBs; a walk that faults fills nothing: the
access that missed takes the fault. A read that the windows refuse is logged (R66). -/
def execPageTableWalk (core ctx va : Nat) (acc : AccessKind) (s : State) : Out :=
  .next <|
    let ten := s.ctxTenant core ctx
    if 2 ^ 57 ≤ va || (s.tlbHit core ten va).isSome then s else
    match s.walkVa core ten va acc with
    | .ok l => s.fill core ten va l
    | .error f => s.refuseWalk (s.rq core ctx 0) f

end Sys2Proof.Machine
end

