-- ==== Sys2Proof/Machine/Engine.lean ====
section
/-! DEFINITION. Accesses of engine threads: rows read and written through local offsets or translation, byte by byte with
their poison, and how an engine stops (R61, R72, R127, R353, R366, R367). -/

namespace Sys2Proof.Machine
open Sys2Proof

/-- A byte with its poison. -/
abbrev PByte := Byte × Bool

/-! ## Parts of an access -/

/-- The pieces of a list of bytes from an address on, cut at the boundaries of aligned 8-byte words. -/
def cutWords {α : Type} : Nat → Nat → List α → List (Nat × List α)
  | 0, _, _ => []
  | _ + 1, _, [] => []
  | k + 1, pa, b :: bs =>
    let n := 8 - pa % 8
    (pa, (b :: bs).take n) :: cutWords k (pa + n) ((b :: bs).drop n)

/-- Store bytes with their poison: each aligned 8-byte word takes the poison of the bytes written to it (R16, R86). -/
def State.storeRow (s : State) (who : Option Tid) (pa : Nat) (bs : List PByte) : State :=
  (cutWords bs.length pa bs).foldl (fun s p => s.store who p.1 (p.2.map (·.1)) (p.2.any (·.2))) s

/-- The bytes of memory from an address on, with the poison of their words. -/
def State.rowAt (s : State) (pa : Nat) : Nat → List PByte
  | 0 => []
  | n + 1 => (s.byte pa, s.badWord (pa / 8)) :: s.rowAt (pa + 1) n

/-- Read registers in aligned pieces of 4 or 8 bytes (R61). -/
def State.readRegs (s : State) : List (Nat × List Nat) → List PByte × State
  | [] => ([], s)
  | (pa, is) :: ps =>
    let (v, s) := s.regRead (pa - regBase) is.length
    let (bs, s) := s.readRegs ps
    ((leBytes is.length v).map (fun b => (b, false)) ++ bs, s)

/-- Read `n` bytes of one page part at its port (R66). -/
def State.readAt (s : State) (r : Src) (acc : AccessKind) (pa n : Nat) : List PByte × State :=
  if n = 0 then ([], s)
  else if !s.windowOk r.ten pa (pa + n - 1) acc then
    let (bs, s) := s.openBytes n
    (bs.map (fun b => (b, true)), s.refuseAt r pa)
  else if inRegs pa then s.readRegs (cutWords n pa (List.range n))
  else (s.rowAt pa n, s.look r.who pa n)

/-- Write the bytes of one page part at its port: whether they are performed (R66). -/
def State.writeAt (s : State) (r : Src) (acc : AccessKind) (pa : Nat) (bs : List PByte) : Bool × State :=
  if bs.isEmpty then (true, s)
  else if !s.windowOk r.ten pa (pa + bs.length - 1) acc then (false, s.refuseAt r pa)
  else if inRegs pa then
    (true, (cutWords bs.length pa bs).foldl (fun s p => s.regWrite (p.1 - regBase) p.2.length (leNat (p.2.map (·.1)))) s)
  else (true, s.storeRow r.who pa bs)

/-! ## Translation for engines -/

/-- Translate the page parts of an engine's access. The chunks of a register part are looked at one by one (R61). -/
def State.engXlat (s : State) (r : Rq) (acc : AccessKind) :
    List (Nat × Nat × Nat) → List (Part × Nat) → Except (BitVec 256) (List (Part × Nat)) × State
  | [], done => (.ok done.reverse, s)
  | (va, len, left) :: ps, done =>
    match s.xlat r va 0 left acc with
    | (.error f, s) => (.error f, s)
    | (.ok p, s) => s.engXlat r acc ps ((p, len) :: done)

/-! ## Engine runs -/

/-- What a transfer of the system does to the register region, by chunk (R61): found out by a run that only probes, the bytes it reads, as
a mask, and those it writes, with their number; of the run itself, the chunks read, and of the chunks still to be written COUNT as the
first byte came, the bytes that have come, and their values. -/
structure RegUse where
  probe : Bool := false
  rd : SMap Nat := []
  wr : SMap (Nat × Nat) := []
  got : SMap (List Byte) := []
  put : SMap (Nat × Nat × SMap Byte) := []

/-- What a turn of a command that moves its data by beats leaves room for (R130): `left` accesses; the beat has read and written so
many words. -/
structure Pace where
  left : Nat
  rd : Nat
  wr : Nat

/-- What an engine works on: the state, its requester, and what its completion will report. `dst` are the regions of the
destination image by address (R125), `plane` the scale-plane bytes read, `scales` the destination scales formed, `img` the
IMEM or template image read. `bad` marks a command whose block was poisoned (R16). Where the command moves its data by beats, `pace`
is there, `log` is what its earlier turns have found and this one has not come to, `made` what this one has found, the last first;
`whole` says that a row is written in one access (R114). -/
structure Eng where
  s : State
  rq : Rq
  src : Src
  count : Nat := 0
  pois : Bool := false
  wrote : Bool := false
  read : List Byte := []
  plane : SMap Byte := []
  dst : SMap Byte := []
  dst2 : SMap Byte := []
  dst3 : SMap Byte := []
  scales : List (Nat × Bool) := []
  img : List PByte := []
  codec : Nat := 0
  ares : Nat := 0
  ph2 : Bool := false
  bad : Bool := false
  regs : RegUse := {}
  pace : Option Pace := none
  log : List Did := []
  made : List Did := []
  whole : Bool := false

abbrev Engine (α : Type) := ExceptT Halt (StateM Eng) α

def stopEngine {α : Type} (h : Halt) : Engine α := throw h
def engAct {α : Type} (f : State → α × State) : Engine α :=
  fun e => let (a, s) := f e.s; (.ok a, { e with s := s })

/-! ## Accesses one by one (R130, R354) -/

def Did.again : Did → Engine Did
  | .halted h => stopEngine h
  | d => pure d
def Did.theParts : Did → List (Part × Nat)
  | .parts ps => ps
  | _ => []
def Did.theBytes : Did → List PByte
  | .bytes bs => bs
  | _ => []

/-- One access, which reads and writes so many words. In a command that moves its data by beats, what an earlier turn has found is not
sought again; another access is made while the turn and the 256 bytes of the beat have room, and what it finds is kept. -/
def access (rd wr : Nat) (act : Engine Did) : Engine Did := do
  let e ← get
  match e.pace, e.log with
  | none, _ => act
  | some _, d :: ds => do
    set { e with log := ds }
    d.again
  | some p, [] =>
    if p.left = 0 || (rd ≠ 0 && 32 ≤ p.rd) || (wr ≠ 0 && 32 ≤ p.wr) then stopEngine .pause
    else do
      let d ← tryCatch act fun h => if h = .notYet then stopEngine h else pure (.halted h)
      modify fun e => { e with made := d :: e.made, pace := some ⟨p.left - 1, p.rd + rd, p.wr + wr⟩ }
      d.again

/-- The accesses in which a row of `n` bytes at an address is read or written: one for each aligned word where it is not the row as a
whole that is (R114, R354). -/
def Eng.pieces (e : Eng) (pa n : Nat) : List (Nat × Nat) :=
  if e.pace.isNone || e.whole then [(pa, n)] else (cutWords n pa (List.range n)).map fun p => (p.1, p.2.length)

/-- Why `n` bytes at an address cannot be reached, or not now: its link, the freeze of its core, a write in the outbound path (R127, R355,
R420, R425, R426). -/
def Eng.unreached (e : Eng) (pa n : Nat) : Option Halt :=
  if (e.s.linkCut e.rq.core pa).isSome then some .link
  else if e.s.notNow e.rq.core pa n then some .notYet
  else none

/-- Translate an access; every part must be reachable (R72). -/
def engParts (va n : Nat) (acc : AccessKind) : Engine (List (Part × Nat)) := do
  let d ← access 0 0 do
    let e ← get
    match e.s.engXlat e.rq acc (partsOf va n (n / 8192 + 2)) [] with
    | (.error f, s) => do
      set { e with s := s }
      stopEngine (.fault f)
    | (.ok ps, s) => do
      set { e with s := s }
      if ps.any fun p => (s.linkCut e.rq.core p.1.pa).isSome then stopEngine .link
      else if ps.any fun p => s.notNow e.rq.core p.1.pa p.2 then stopEngine .notYet
      else pure (.parts ps)
  pure d.theParts

/-! ## The register region (R61) -/

/-- Whether a chunk is touched in an aligned half or as a whole; where what is touched begins, and its bytes. -/
def halfMask (m : Nat) : Bool := m == 0x0F || m == 0xF0 || m == 0xFF
def halfAt (w m : Nat) : Nat := if m = 0xF0 then 8 * w + 4 else 8 * w
def halfLen (m : Nat) : Nat := if m = 0xFF then 8 else 4
/-- `n` bytes at an address as a mask of their chunk, over another. -/
def orMask (m pa n : Nat) : Nat := m ||| (2 ^ n - 1) * 2 ^ (pa % 8)

/-- Read `n` bytes at `pa` in a chunk of the register region, at `va`, where `left` bytes of the access remain: one access for the chunk. -/
def readChunk (acc : AccessKind) (va left pa n : Nat) : Engine (List PByte) := do
  let e ← get
  let w := pa / 8
  let m := if e.regs.probe then 0xFF else e.regs.rd.get 0 w
  if !halfMask m then stopEngine (.fault (e.s.typeDesc e.rq va left acc pa))
  else do
    let (v, s) := if e.regs.got.has w then (e.regs.got.get [] w, e.s) else
      let (v, s) := e.s.regRead (halfAt w m - regBase) (halfLen m)
      (leBytes (halfLen m) v, s)
    set { e with s := s, regs := { e.regs with got := e.regs.got.put w v, rd := e.regs.rd.put w (orMask (e.regs.rd.get 0 w) pa n) } }
    pure (((v.drop (pa - halfAt w m)).take n).map fun b => (b, false))

/-- Write bytes in a chunk of the register region: one access for the chunk, when the last of its bytes comes. -/
def writeChunk (acc : AccessKind) (va left pa : Nat) (bs : List PByte) : Engine Unit := do
  let e ← get
  let w := pa / 8
  let (m, k) := e.regs.wr.get (0, 0) w
  if e.regs.probe then
    set { e with regs := { e.regs with wr := e.regs.wr.put w (orMask m pa bs.length, k + bs.length) } }
  else if !halfMask m then stopEngine (.fault (e.s.typeDesc e.rq va left acc pa))
  else
    let (c, j, img) := e.regs.put.get (e.count, 0, []) w
    let img := bs.foldl (fun (p : SMap Byte × Nat) b => (p.1.put p.2 b.1, p.2 + 1)) (img, pa) |>.1
    if j + bs.length < k then set { e with regs := { e.regs with put := e.regs.put.put w (c, j + bs.length, img) } }
    else
      let v := leNat ((List.range (halfLen m)).map fun i => img.get 0 (halfAt w m + i))
      set { e with s := e.s.regWrite (halfAt w m - regBase) (halfLen m) v, regs := { e.regs with put := e.regs.put.erase w } }

def readChunks (acc : AccessKind) (va pa n : Nat) : List (Nat × List Nat) → Engine (List PByte)
  | [] => pure []
  | p :: ps => do
    let bs ← readChunk acc (va + (p.1 - pa)) (n - (p.1 - pa)) p.1 p.2.length
    let rest ← readChunks acc va pa n ps
    pure (bs ++ rest)

def writeChunks (acc : AccessKind) (va pa n : Nat) : List (Nat × List PByte) → Engine Unit
  | [] => pure ()
  | p :: ps => do
    writeChunk acc (va + (p.1 - pa)) (n - (p.1 - pa)) p.1 p.2
    writeChunks acc va pa n ps

/-- Run an engine. The transfer of a system context runs first to find out which chunks of the register region it touches, and how; of that
run nothing stays (R61). -/
def runEngine {α : Type} (m : Engine α) (e : Eng) : Except Halt α × Eng :=
  if e.rq.ten ≠ 16 then m.run e else
  let u := (m.run { e with regs := { probe := true } }).2.regs
  m.run { e with regs := { rd := u.rd, wr := u.wr } }

/-! ## Rows -/

/-- Whether a vector load that has begun has still to read some of `n` bytes from `pa` (R114). -/
def State.halfRead (s : State) (pa n : Nat) : Bool :=
  s.reqs.any fun q => q.op == .read && decide (q.pa < pa + n) && decide (pa < q.pa + q.n) && match q.grp with
    | some (f, m) => decide ((s.reqs.filter fun r => r.grp == some (f, m)).length < m)
    | none => false

/-- One access that reads, of the core's own scratchpad or of an address at its port. -/
def readPiece (loc : Bool) (acc : AccessKind) (pa n : Nat) : Engine (List PByte) := do
  let d ← access ((n + 7) / 8) 0 do
    let e ← get
    match (if loc || e.pace.isNone then none else e.unreached pa n) with
    | some h => stopEngine h
    | none => do
      let bs ← engAct fun s => if loc then (s.rowAt pa n, s.look none pa n) else s.readAt e.src acc pa n
      pure (.bytes bs)
  pure d.theBytes

/-- One access that writes: what the windows refuse is dropped (R127); a published row is not written into the midst of a vector
load, which would see a mixture (R114). -/
def writePiece (loc : Bool) (acc : AccessKind) (pa : Nat) (bs : List PByte) : Engine Unit := do
  let d ← access 0 ((bs.length + 7) / 8) do
    let e ← get
    match (if loc || e.pace.isNone then none else e.unreached pa bs.length) with
    | some h => stopEngine h
    | none =>
      if e.whole && e.s.halfRead pa bs.length then stopEngine .notYet
      else do
        let ok ← engAct fun s => if loc then (true, s.storeRow none pa bs) else s.writeAt e.src acc pa bs
        modify fun e => { e with wrote := true }
        pure (.wrote ok)
  modify fun e => { e with pois := e.pois || d == .wrote false }

def readEach (loc : Bool) (acc : AccessKind) : List (Nat × Nat) → Engine (List PByte)
  | [] => pure []
  | p :: ps => do
    let bs ← readPiece loc acc p.1 p.2
    let rest ← readEach loc acc ps
    pure (bs ++ rest)

def writeEach (loc : Bool) (acc : AccessKind) : List (Nat × Nat) → List PByte → Engine Unit
  | [], _ => pure ()
  | p :: ps, bs => do
    writePiece loc acc p.1 (bs.take p.2)
    writeEach loc acc ps (bs.drop p.2)

/-- Whether a part lies in the register region, and its windows let it through (R61, R66). -/
def Eng.atRegs (e : Eng) (acc : AccessKind) (pa n : Nat) : Bool := inRegs pa && e.s.windowOk e.rq.ten pa (pa + n - 1) acc

/-- Read the parts of an access from `va` on. -/
def readParts (acc : AccessKind) : Nat → List (Part × Nat) → Engine (List PByte)
  | _, [] => pure []
  | va, (p, n) :: ps => do
    let e ← get
    let bs ← (if e.atRegs acc p.pa n then readChunks acc va p.pa n (cutWords n p.pa (List.range n))
      else readEach false acc (e.pieces p.pa n))
    let rest ← readParts acc (va + n) ps
    pure (bs ++ rest)

/-- Write the parts of an access from `va` on. -/
def writeParts (acc : AccessKind) : Nat → List (Part × Nat) → List PByte → Engine Unit
  | _, [], _ => pure ()
  | va, (p, n) :: ps, bs => do
    let e ← get
    if e.atRegs acc p.pa n then writeChunks acc va p.pa n (cutWords n p.pa (bs.take n))
    else writeEach false acc (e.pieces p.pa n) (bs.take n)
    writeParts acc (va + n) ps (bs.drop n)

/-- What a poisoned block makes of the bytes that its command moves (R16). -/
def Eng.taint (e : Eng) (bs : List PByte) : List PByte := if e.bad then bs.map fun b => (b.1, true) else bs

/-- Read `n` bytes at a local offset or a virtual address. -/
def engRead (loc : Bool) (a n : Nat) (acc : AccessKind := .read) : Engine (List PByte) := do
  let e ← get
  let bs ← (if n = 0 then pure []
    else if loc then readEach true acc (e.pieces (spad e.rq.core a) n)
    else do
      let ps ← engParts a n acc
      readParts acc a ps)
  let bs := e.taint bs
  modify fun e => { e with pois := e.pois || bs.any (·.2) }
  pure bs

/-- Read source bytes, which the source CRC covers (R125). -/
def readSource (loc : Bool) (a n : Nat) (acc : AccessKind := .read) : Engine (List PByte) := do
  let bs ← engRead loc a n acc
  modify fun e => { e with read := e.read ++ bs.map (·.1) }
  pure bs

/-- Write bytes at a local offset or a virtual address. -/
def engWrite (loc : Bool) (a : Nat) (bs : List PByte) (acc : AccessKind := .write) : Engine Unit := do
  let e ← get
  let bs := e.taint bs
  if bs.isEmpty then pure ()
  else if loc then writeEach true acc (e.pieces (spad e.rq.core a) bs.length) bs
  else do
    let ps ← engParts a bs.length acc
    writeParts acc a ps bs
  modify fun e => { e with pois := e.pois || bs.any (·.2), wrote := e.wrote || !bs.isEmpty }

/-- Bytes noted in a region of the destination image. -/
def noteBytes (m : SMap Byte) (a : Nat) (bs : List PByte) : SMap Byte :=
  (bs.foldl (fun (p : SMap Byte × Nat) b => (p.1.put p.2 b.1, p.2 + 1)) (m, a)).1

/-- Write destination bytes, in a region of the destination image (R125). -/
def writeDest (region : Nat) (loc : Bool) (a : Nat) (bs : List PByte) : Engine Unit := do
  engWrite loc a bs
  modify fun e =>
    match region with
    | 0 => { e with dst := noteBytes e.dst a bs }
    | 1 => { e with dst2 := noteBytes e.dst2 a bs }
    | _ => { e with dst3 := noteBytes e.dst3 a bs }

/-- Bytes of a region in ascending address order. -/
def regionBytes (m : SMap Byte) : List Byte := m.map (·.2)

end Sys2Proof.Machine
end

