-- ==== Sys2Proof/Machine/CopyRows.lean ====
section
/-! DEFINITION. What the copy engine does row by row: conversion, COPY and PUBLISH, IMEM and template images, GATHER, RREAD,
POOL, CSR, HIST, BUILD, codec blocks (R112 to R123). -/

namespace Sys2Proof.Machine
open Sys2Proof

/-! ## Elements -/

/-- An element's code with its poison. -/
abbrev PElem := Nat × Bool

/-- The first `n` elements of `w` bits of a row. -/
def rowElems (w n : Nat) (bs : List PByte) : List PElem :=
  let cs := unpack w n (bs.map (·.1))
  cs.zip ((List.range n).map fun i => if w = 4 then (bs.getD (i / 2) (0, false)).2 else ((bs.drop (i * (w / 8))).take (w / 8)).any (·.2))

/-- Elements of `w` bits as bytes. A byte of two elements takes the poison of either. -/
def packRow (w : Nat) : List PElem → List PByte
  | [] => []
  | [x] => if w = 4 then [(BitVec.ofNat 8 (x.1 % 16), x.2)] else (leBytes (w / 8) x.1).map fun b => (b, x.2)
  | x :: y :: xs =>
    if w = 4 then (BitVec.ofNat 8 (x.1 % 16 + y.1 % 16 * 16), x.2 || y.2) :: packRow w xs
    else ((leBytes (w / 8) x.1).map fun b => (b, x.2)) ++ packRow w (y :: xs)

/-- A list of elements followed by +0 codes up to `n`. -/
def padElems (n : Nat) (es : List PElem) : List PElem := es ++ List.replicate (n - es.length) (0, false)

/-- Cut a list into `n` blocks of eight. -/
def eights {α : Type} : Nat → List α → List (List α)
  | 0, _ => []
  | n + 1, xs => xs.take 8 :: eights n (xs.drop 8)

/-- The tile scale as a value (R112). -/
def Blk.scaleVal (b : Blk) : Num := floatVal f32F (Blk.scale b)

/-- An address, or a local offset, from an exact sum. -/
def engAddr (x : Int) : Nat := wrap 64 x

/-- Run `f` at `i`, `i + 1` and on, `n` times. -/
def each (f : Nat → Engine Unit) : Nat → Nat → Engine Unit
  | _, 0 => pure ()
  | i, n + 1 => do
    f i
    each f (i + 1) n

/-- `n` bytes of free values, poisoned (R66, R99, R423). -/
def openRow (n : Nat) : Engine (List PByte) := do
  let d ← access 0 0 do
    let bs ← engAct fun s => s.openBytes n
    pure (.bytes (bs.map fun b => (b, true)))
  pure d.theBytes

/-! ## Conversion of a row (R112, R113) -/

/-- The scale of block `n` of an FP4 source: the two bytes of the plane that hold it (R46, R113). -/
def readScale (plane n : Nat) : Engine PElem := do
  let o := plane + 12 * (n / 8) + 12 * (n % 8) / 8
  let bs ← engRead true o 2
  modify fun e => { e with plane := noteBytes e.plane o bs }
  let lo := 12 * (n % 8) % 8
  pure (bits (leNat (bs.map (·.1))) (lo + 11) lo, bs.any (·.2))

def readScales (plane n : Nat) : Nat → Engine (List PElem)
  | 0 => pure []
  | k + 1 => do
    let x ← readScale plane n
    let xs ← readScales plane (n + 1) k
    pure (x :: xs)

/-- One converted element (R112): bits unchanged where the formats agree. -/
def Blk.conv (b : Blk) (scale : Num) (e : PElem) : PElem :=
  if Blk.sfmtCode b = Blk.dfmtCode b then e
  else (fmtCode (Blk.dfmt b) .ne ((fmtVal (Blk.sfmt b) e.1).mul scale), e.2)

/-- Quantise blocks of values with their poison: elements and scales (R51, R113). -/
def quantRow (xs : List (Num × Bool)) (nb : Nat) : List PElem × List PElem :=
  let qs := (eights nb xs).map fun g =>
    let bad := g.any (·.2)
    let q := quantise (g.map (·.1))
    (q.2.map fun c => (c, bad), (q.1, bad))
  (qs.flatMap (·.1), qs.map (·.2))

/-- Convert a row of COUNT0 elements of which the first `n` have been read; `row` numbers it in walk order. The elements, and
the scales of an FP4 destination. -/
def convRow (b : Blk) (scale : Num) (row n : Nat) (bs : List PByte) : Engine (List PElem × List PElem) := do
  let c0 := Blk.count b 0
  let nb := c0 / 8
  let es := rowElems (Blk.sfmt b).bits n bs
  let ss ← (if Blk.sfmtCode b = 5 then readScales (Blk.sstrN b 3) (row * nb) (n / 8) else pure [])
  let sc := fun (i : Nat) => ss.getD (i / 8) (0, false)
  if Blk.sfmtCode b = 5 ∧ Blk.dfmtCode b = 5 then
    pure (padElems c0 (es.mapIdx fun i e => (e.1, e.2 || (sc i).2)), padElems nb ss)
  else
    let val := fun (i : Nat) (e : PElem) =>
      if Blk.sfmtCode b = 5 then (blockVal (sc i).1 e.1, e.2 || (sc i).2) else (fmtVal (Blk.sfmt b) e.1, e.2)
    if Blk.dfmtCode b = 5 then
      let xs := es.mapIdx fun i e => let v := val i e; (v.1.mul scale, v.2)
      pure (quantRow (xs ++ List.replicate (c0 - n) (Num.fin false 0 0, false)) nb)
    else if Blk.sfmtCode b = 5 then
      pure (padElems c0 (es.mapIdx fun i e => let v := val i e; (fmtCode (Blk.dfmt b) .ne (v.1.mul scale), v.2)), [])
    else pure (padElems c0 (es.map (Blk.conv b scale)), [])

/-! ## COPY and PUBLISH (R112 to R114) -/

/-- The source and destination row starts of a COPY. -/
def Blk.srcRow (b : Blk) (i1 i2 i3 : Nat) : Nat :=
  engAddr (Blk.src b + i1 * Blk.sstr b 1 + i2 * Blk.sstr b 2 + (if Blk.sfmtCode b = 5 then 0 else i3 * Blk.sstr b 3))
def Blk.dstElem (b : Blk) (i0 i1 i2 i3 : Nat) : Nat :=
  let e : Int := (Blk.dfmt b).bits / 8
  let far : Int := i2 * Blk.dstr b 2 + (if Blk.dfmtCode b = 5 then 0 else i3 * Blk.dstr b 3)
  if Blk.xpose b then engAddr (Blk.dst b + i1 * e + i0 * Blk.dstr b 1 + far)
  else engAddr (Blk.dst b + i0 * e + i1 * Blk.dstr b 1 + far)

/-- A published row lies in device memory or a scratchpad, which its translation shows (R114). -/
def publishCheck (b : Blk) (a n : Nat) : Engine Unit := do
  if Blk.kind b ≠ 5 || Blk.dstl b then pure ()
  else do
    let ps ← engParts a n .write
    if ps.any fun p => p.1.mt == 1 || p.1.mt == 2 then stopEngine (.reject 2) else pure ()

/-- Write a row: a PUBLISH in one access (R114). -/
def writeWhole (b : Blk) (a : Nat) (bs : List PByte) : Engine Unit := do
  modify fun e => { e with whole := Blk.kind b == 5 }
  writeDest 0 (Blk.dstl b) a bs
  modify fun e => { e with whole := false }

/-- Write the elements of a transposed row one by one (R112). -/
def writeSpread (b : Blk) (i1 i2 i3 : Nat) : Nat → List PElem → Engine Unit
  | _, [] => pure ()
  | i0, e :: es => do
    writeDest 0 (Blk.dstl b) (Blk.dstElem b i0 i1 i2 i3) (packRow (Blk.dfmt b).bits [e])
    writeSpread b i1 i2 i3 (i0 + 1) es

/-- One row of a COPY or PUBLISH. -/
def copyRow (b : Blk) (i1 i2 i3 : Nat) : Engine Unit := do
  let c0 := Blk.count b 0
  let n := if i1 < Blk.bound b 1 then Nat.min c0 (Blk.bound b 0) else 0
  let w := (Blk.dfmt b).bits
  publishCheck b (Blk.dstElem b 0 i1 i2 i3) (c0 * w / 8)
  let bs ← readSource (Blk.srcl b) (Blk.srcRow b i1 i2 i3) ((n * (Blk.sfmt b).bits + 7) / 8)
  let (es, ss) ← convRow b (Blk.scaleVal b) (i1 + Blk.count b 1 * (i2 + Blk.count b 2 * i3)) n bs
  if Blk.xpose b then writeSpread b i1 i2 i3 0 es
  else writeWhole b (Blk.dstElem b 0 i1 i2 i3) (packRow w es)
  modify fun e => { e with count := e.count + c0, scales := e.scales ++ ss }

/-- The byte of a destination as it stands: the place of a 4-bit value, or of a scale, whose neighbour keeps its bits. -/
def destByte (loc : Bool) (a : Nat) : Engine Byte := do
  let e ← get
  let pa ← (if loc then pure (spad e.rq.core a) else do
    let ps ← engParts a 1 .write
    pure ((ps.head?.map (·.1.pa)).getD 0) : Engine Nat)
  let d ← access 1 0 do
    let e ← get
    pure (.bytes [(e.s.byte pa, false)])
  pure ((d.theBytes.head?.map (·.1)).getD 0)

/-- Scales packed at 12 bits each (R46), with the poison of the bytes they lie in. -/
def packScales (ss : List PElem) (n : Nat) : List PByte :=
  let v := ss.foldr (fun s a => s.1 % 4096 + 4096 * a) 0
  (leBytes n v).mapIdx fun j b => (b, (ss.getD (8 * j / 12) (0, false)).2 || (ss.getD ((8 * j + 7) / 12) (0, false)).2)

/-- Write the scale plane of an FP4 destination: the scales formed, and past the last block the padding of its group. A
byte shared with a scale that was not formed keeps its other half. -/
def flushScales (b : Blk) : Engine Unit := do
  let e ← get
  let n := e.scales.length
  if n = 0 then pure () else
  let all := decide (n = Blk.count b 0 / 8 * Blk.count b 1 * Blk.count b 2)
  let o := Blk.dstrN b 3
  let half := n % 2 == 1 && !all
  let keep ← (if half then (fun (o : Byte) => o.toNat / 16) <$> destByte true (o + 12 * n / 8) else pure 0)
  let ss := if half then e.scales ++ [(keep, false)] else e.scales
  let bs := packScales ss (if all then Blk.planeLen b else (12 * n + 7) / 8)
  writeDest 1 true o bs

/-- Run, then do `fin` whatever the outcome. -/
def andThen (m fin : Engine Unit) : Engine Unit := do
  let r ← (tryCatch (do m; pure none) fun h => pure (some h) : Engine (Option Halt))
  match r with
  | some .notYet => stopEngine .notYet
  | some .pause => stopEngine .pause
  | some h => do
    fin
    stopEngine h
  | none => fin

/-- COPY and PUBLISH over their rows in walk order (R112). -/
def copyAll (b : Blk) : Engine Unit :=
  if Blk.count b 0 = 0 then pure () else
  andThen
    (each (fun i3 => each (fun i2 => each (fun i1 => copyRow b i1 i2 i3) 0 (Blk.count b 1)) 0 (Blk.count b 2)) 0 (Blk.count b 3))
    (flushScales b)

/-! ## IMEM and template images (R118, R119) -/

/-- The 4-byte words of an image, and its whole templates. -/
def imageWords : Nat → List PByte → List (List Byte × Bool)
  | 0, _ => []
  | n + 1, bs => ((bs.take 4).map (·.1), (bs.take 4).any (·.2)) :: imageWords n (bs.drop 4)
def imageTemplates : Nat → Nat → List PByte → List (Nat × BitVec 128 × Bool)
  | 0, _, _ => []
  | n + 1, t, bs =>
    (t, BitVec.ofNat 128 (leNat ((bs.take 16).map (·.1))), (bs.take 16).any (·.2)) :: imageTemplates n (t + 1) (bs.drop 16)

/-- Bytes written into IMEM by software: an image that they touch is no longer held (R385). -/
def Core.writeImem (c : Core) (o : Nat) (bs : List PByte) : Core :=
  { c.placeWords o (imageWords (bs.length / 4) bs) with
    images := c.images.filter fun i => !overlaps i (0, o, bs.length) }

/-- Install what has been read of an image: whole words of IMEM, whole templates. -/
def installImage (b : Blk) : Engine Unit :=
  modify fun e =>
    if Blk.dspace b = 1 then
      let o := Blk.dst b % 2 ^ 18
      { e with
        s := e.s.modCore e.rq.core fun c => c.writeImem o e.img
        dst := noteBytes e.dst o e.img
        wrote := e.wrote || !e.img.isEmpty }
    else
      let m := e.img.length / 16
      let n := Blk.dst b % 64
      let t : Tid := ⟨e.rq.core, e.rq.ctx, if bit (Blk.dst b) 6 then .xp else .ap⟩
      { e with
        s := e.s.modHalf t fun h => h.withTemplates (imageTemplates m n e.img)
        dst := noteBytes e.dst (16 * n) (e.img.take (16 * m))
        count := 4 * m
        wrote := e.wrote || decide (0 < m) }

def imageRow (b : Blk) (i1 : Nat) : Engine Unit := do
  let bs ← readSource (Blk.srcl b) (Blk.srcRow b i1 0 0) (4 * Blk.count b 0) .execute
  modify fun e => { e with img := e.img ++ bs, count := e.count + Blk.count b 0 }

def copyImage (b : Blk) : Engine Unit := andThen (each (imageRow b) 0 (Blk.count b 1)) (installImage b)

/-! ## Index lists (R115 to R117, R423) -/

/-- An entry of a local list of 4-byte values. -/
def listEntry (o n : Nat) : Engine PElem := do
  let bs ← engRead true (o + 4 * n) 4
  pure (leNat (bs.map (·.1)), bs.any (·.2))

def nullIdx : Nat := 0xFFFFFFFF

def Blk.rowDst (b : Blk) (n : Nat) : Nat := engAddr (Blk.dst b + n * Blk.dstr b 1)

/-- Write the elements of row `n` of a GATHER, RREAD or POOL. An odd number of 4-bit elements leaves the other half of the last
byte as it is. -/
def putRow (b : Blk) (n : Nat) (es : List PElem) : Engine Unit := do
  let w := (Blk.dfmt b).bits
  let a := Blk.rowDst b n
  if w = 4 ∧ es.length % 2 = 1 then do
    let o ← destByte (Blk.dstl b) (engAddr (a + es.length / 2 : Nat))
    writeDest 0 (Blk.dstl b) a (packRow 4 (es ++ [(o.toNat / 16, false)]))
  else writeDest 0 (Blk.dstl b) a (packRow w es)

/-- Write row `n` of a GATHER or RREAD from the source row read for it. -/
def writeRow (b : Blk) (n : Nat) (bs : List PByte) : Engine Unit := do
  let (es, _) ← convRow b (Blk.scaleVal b) 0 (Blk.count b 0) bs
  putRow b n es

/-- Write row `n` for a null index as +0 codes, and for a poisoned one as poisoned (R115, R423). -/
def writeNull (b : Blk) (n : Nat) : Engine Unit := putRow b n (padElems (Blk.count b 0) [])
def writeOpen (b : Blk) (n : Nat) : Engine Unit := do
  let w := (Blk.dfmt b).bits
  let bs ← openRow ((Blk.count b 0 * w + 7) / 8)
  putRow b n ((unpack w (Blk.count b 0) (bs.map (·.1))).map fun c => (c, true))

/-- Read `n` source bytes of a row that an index names. The indices were checked at issue; one that has changed since, and names a
local row past the end of the scratchpad, ends the command with reason 5 (R81; log entry 82). -/
def readIndexed (b : Blk) (row : Nat) (off n : Nat) : Engine (List PByte) := do
  let a := engAddr (Blk.src b + row * Blk.sstr b 1 + off)
  if Blk.srcl b ∧ 0x200000 < a + n then stopEngine (.reject 5)
  else readSource (Blk.srcl b) a n

/-- GATHER's row `n` (R115). -/
def gatherRow (b : Blk) (n : Nat) : Engine Unit := do
  let i ← listEntry (Blk.idxAt b) n
  if i.2 then writeOpen b n
  else if i.1 = nullIdx then writeNull b n
  else do
    let bs ← readIndexed b i.1 0 (Blk.rowIn b)
    writeRow b n bs
  modify fun e => { e with count := e.count + 1 }

def gatherAll (b : Blk) : Engine Unit := each (gatherRow b) 0 (Blk.count b 1)

/-! ## RREAD (R116) -/

/-- The scratchpad and offset that an RREAD entry names, and the bytes of its row. -/
def rreadCore (i : Nat) : Nat := bits i 28 21
def rreadOff (i : Nat) : Nat := bits i 20 0

/-- Why an entry of an RREAD cannot be read. -/
def rreadHalt (b : Blk) (i : Nat) (e : Eng) : Option Halt :=
  let pa := spad (rreadCore i) (rreadOff i)
  if bits i 31 29 ≠ 0 then some (.reject 2)
  else if 0x200000 < rreadOff i + Blk.rowIn b ∨ rreadOff i % Nat.max 1 ((Blk.sfmt b).bits / 8) ≠ 0 then some (.reject 5)
  else if !e.s.windowOk e.rq.ten pa pa .read then
    some (.fault (faultDesc e.s e.rq i (Blk.rowIn b) .read { cls := 2, sub := 1, lvl := 7, fpa := pa }))
  else if (e.s.linkCut e.rq.core pa).isSome then some .link
  else none

/-- The rows of an RREAD from row `n` on: null and poisoned ones are written at once, the requests of the others are sent. The
rows still to arrive, and why the command stops where it does. -/
def rreadRows (b : Blk) : Nat → Nat → Engine (SMap Nat × Option Halt)
  | _, 0 => pure ([], none)
  | n, k + 1 => do
    let i ← listEntry (Blk.idxAt b) n
    let now := i.2 || i.1 == nullIdx
    let r ← (tryCatch (do
      if i.2 then writeOpen b n
      else if i.1 = nullIdx then writeNull b n
      else match rreadHalt b i.1 (← get) with
        | some h => stopEngine h
        | none => pure ()
      pure none) fun h => pure (some h) : Engine (Option Halt))
    match r with
    | some .notYet => stopEngine .notYet
    | some h => pure ([], some h)
    | none => do
      modify fun e => { e with count := e.count + 1 }
      let (rs, h) ← rreadRows b (n + 1) k
      pure (if now then rs else (n, i.1) :: rs, h)

/-! ## POOL (R117) -/

/-- An index and its weight, each with its poison. -/
abbrev Entry2 := PElem × PElem

def bagEntries (b : Blk) (k : Nat) : Nat → Engine (List Entry2)
  | 0 => pure []
  | n + 1 => do
    let i ← listEntry (Blk.idxAt b) k
    let w ← listEntry (Blk.wgtAt b) k
    let es ← bagEntries b (k + 1) n
    pure ((i, w) :: es)

/-- Element `j` of a source row. -/
def poolElem (b : Blk) (row j : Nat) : Engine PElem := do
  let w := (Blk.sfmt b).bits
  let bs ← readIndexed b row (j * w / 8) (Nat.max 1 (w / 8))
  let v := leNat (bs.map (·.1))
  pure (if w = 4 then bits v (4 * (j % 2) + 3) (4 * (j % 2)) else v, bs.any (·.2))

/-- The sum of a bag at element `j`, as an FP32 code (R117). -/
def poolSum (b : Blk) (j : Nat) : List Entry2 → PElem → Engine PElem
  | [], acc => pure acc
  | (i, w) :: es, acc => do
    if i.1 = nullIdx ∨ i.2 then poolSum b j es acc
    else
      let x ← poolElem b i.1 j
      let sum := Num.add false ((floatVal f32F w.1).mul (fmtVal (Blk.sfmt b) x.1)) (floatVal f32F acc.1)
      poolSum b j es (floatCode f32F .ne sum, acc.2 || x.2 || w.2)

def poolElems (b : Blk) (es : List Entry2) (j : Nat) : Nat → Engine (List PElem)
  | 0 => pure []
  | n + 1 => do
    let a ← poolSum b j es (0, false)
    let as ← poolElems b es (j + 1) n
    pure ((fmtCode (Blk.dfmt b) .ne (floatVal f32F a.1), a.2) :: as)

/-- POOL's bag `n`: a poisoned index poisons the whole row (R423). -/
def poolBag (b : Blk) (n : Nat) : Engine Unit := do
  let es ← bagEntries b (n * Blk.count b 1) (Blk.count b 1)
  let out ← poolElems b es 0 (Blk.count b 0)
  if es.any fun e => e.1.2 then writeOpen b n
  else putRow b n out
  modify fun e => { e with count := e.count + 1 }

def poolAll (b : Blk) : Engine Unit := each (poolBag b) 0 (Blk.count b 2)

/-! ## CSR (R120, R121) -/

/-- Write value `k` of the values array. -/
def writeValue (b : Blk) (k : Nat) (v : PElem) : Engine Unit := do
  let w := (Blk.dfmt b).bits
  let a := engAddr (Blk.dst b + (k * w / 8 : Nat))
  if w = 4 then do
    let o ← destByte (Blk.dstl b) a
    writeDest 0 (Blk.dstl b) a [(BitVec.ofNat 8 (if k % 2 = 0 then v.1 % 16 + o.toNat / 16 * 16 else o.toNat % 16 + v.1 % 16 * 16), v.2)]
  else writeDest 0 (Blk.dstl b) a (packRow w [v])

def nat4 (v : Nat) : List PByte := (leBytes 4 v).map fun b => (b, false)

/-- The elements of a row from column `c` on: those kept are written as pairs. -/
def csrElems (b : Blk) : Nat → List PElem → Engine Unit
  | _, [] => pure ()
  | c, e :: es => do
    if (fmtVal (Blk.sfmt b) e.1).isZero && !e.2 then pure ()
    else do
      let k := (← get).count
      if Blk.cap b ≤ k then stopEngine .overrun
      else do
        writeValue b k (Blk.conv b (.fin false 1 0) e)
        writeDest 1 (Blk.dstl b) (engAddr (Blk.aux b 63 0 + 4 * k)) (nat4 c)
        modify fun e => { e with count := e.count + 1 }
    csrElems b (c + 1) es

/-- Phase 1 over the rows: the number of values kept before each row, and in all. -/
def csrRows (b : Blk) : Nat → Nat → Engine (List Nat)
  | _, 0 => do
    let e ← get
    pure [e.count]
  | r, n + 1 => do
    let before := (← get).count
    let bs ← readSource (Blk.srcl b) (engAddr (Blk.src b + r * Blk.sstr b 1)) (Blk.rowIn b)
    csrElems b 0 (rowElems (Blk.sfmt b).bits (Blk.count b 0) bs)
    let ks ← csrRows b (r + 1) n
    pure (before :: ks)

/-- Phase 2: the row pointers. -/
def csrPointers (b : Blk) : Nat → List Nat → Engine Unit
  | _, [] => pure ()
  | r, k :: ks => do
    writeDest 2 (Blk.dstl b) (engAddr (Blk.rowPtr b + 4 * r)) (nat4 k)
    csrPointers b (r + 1) ks

def csrAll (b : Blk) : Engine Unit := do
  let ks ← csrRows b 0 (Blk.count b 1)
  modify fun e => { e with ph2 := true }
  csrPointers b 0 ks

/-! ## Histograms and tables (R123) -/

/-- Valid bytes of block `i`. -/
def Blk.valid (b : Blk) (i : Nat) : Nat := if i + 1 = Blk.count b 0 then Blk.aux b 43 32 + 1 else 4096

def addCounts (m : SMap Nat) : List Nat → SMap Nat
  | [] => m
  | y :: ys => addCounts (m.set 0 y (m.get 0 y + 1)) ys

/-- Count the symbols of blocks from block `i` on. -/
def histBlocks (b : Blk) : Nat → Nat → SMap Nat → Engine (SMap Nat)
  | _, 0, m => pure m
  | i, n + 1, m => do
    let f := Blk.sfmt b
    let bs ← readSource true (Blk.src b + 4096 * i) (Blk.valid b i)
    let es := unpack f.bits (8 * bs.length / f.bits) (bs.map (·.1))
    modify fun e => { e with count := e.count + 1 }
    histBlocks b (i + 1) n (addCounts m (es.map fun e => (symOf f e).1))

def histAll (b : Blk) : Engine Unit := do
  let m ← histBlocks b 0 (Blk.count b 0) []
  let bad := (← get).pois
  writeDest 0 true (Blk.dst b) ((List.range (alphabet (Blk.sfmt b))).flatMap fun i =>
    (leBytes 4 (Nat.min 0xFFFFFFFF (m.get 0 i))).map fun x => (x, bad))

/-- A table block (Table 04-3). -/
def tableBlock (tid : Nat) (f : Fmt) (lens : List Nat) : List Byte :=
  let nz := (lens.filter (· != 0)).length
  let body := leBytes 4 tid ++ leBytes 1 f.code ++ leBytes 1 1 ++ leBytes 2 nz ++ List.replicate 8 0
    ++ padTo 128 (pack 4 lens) ++ List.replicate 364 0
  body ++ leBytes 4 (crc32c body)

def buildAll (b : Blk) : Engine Unit := do
  let f := Blk.dfmt b
  let bs ← readSource true (Blk.src b) (4 * alphabet f)
  let bad := bs.any (·.2)
  let t := tableBlock (Blk.aux b 63 32) f (buildLengths (unpack 32 (alphabet f) (bs.map (·.1))))
  writeDest 0 true (Blk.dst b) (t.map fun x => (x, bad))
  modify fun e => { e with count := 1 }

/-! ## Codec blocks of a command (R98 to R100, R122) -/

/-- Note the codec status of the first failing block. -/
def noteCodec (st i : Nat) : Engine Unit :=
  modify fun e => if st ≠ 0 ∧ e.codec = 0 then { e with codec := st, ares := i } else e

/-- Decode a block read: the 4096 bytes, and the codec status, 5 where poison came in, in the block or in the code
table, in error or not (R422; log entry 97). -/
def decodeRead (t : CodecTable) (bs : List PByte) : Engine (List PByte × Nat × Nat) := do
  let st := if t.bad || bs.any (·.2) then 5 else 4
  match (if st = 5 then none else decodeBlock t (bs.map (·.1))) with
  | some (raw, vlen) => pure (raw.map fun x => (x, false), 0, vlen)
  | none => do
    let o ← openRow 4096
    pure (o, st, 4095)

/-- Block `i` of a DECODE. -/
def decodeOne (b : Blk) (t : CodecTable) (i : Nat) : Engine Unit := do
  let d := 256 * Blk.dsz b
  let bs ← readSource (Blk.srcl b) (engAddr (Blk.src b + (i * d : Nat))) d
  let (raw, st, _) ← decodeRead t bs
  noteCodec st i
  writeDest 0 true (Blk.dst b + 4096 * i) raw
  modify fun e => { e with count := i + 1 }

/-- Block `i` of an ENCODE. Poisoned input poisons its compressed block (R99), and records no codec status: R99 names the blocks that
are decoded (log entry 97). -/
def encodeOne (b : Blk) (t : CodecTable) (i : Nat) : Engine Unit := do
  let bs ← readSource true (Blk.src b + 4096 * i) (Blk.valid b i)
  let bad := t.bad || bs.any (·.2)
  let (out, size) := encodeBlock t 4352 (bs.map (·.1))
  writeDest 0 (Blk.dstl b) (engAddr (Blk.dst b + (4352 * i : Nat))) (out.map fun x => (x, bad))
  modify fun e => { e with count := i + 1, ares := Nat.max e.ares size }

end Sys2Proof.Machine
end

