-- ==== Sys2Proof/Machine/CopyEvents.lean ====
section
/-! DEFINITION. Commands of the copy engine: starting, running, replies of remote rows, completion, the Almanac (R105 to R132). -/

namespace Sys2Proof.Machine
open Sys2Proof

/-! ## Starting (R128 to R130) -/

/-- Whether it is the turn of place `i` among `n` served in a round: it is the first from `turn` on that is ready. -/
def inTurn (n turn : Nat) (ready : Nat → Bool) (i : Nat) : Bool :=
  ((List.range n).map fun j => (turn + j) % n).find? ready == some i

/-- The place of a command's channel among those of a core (R103, R130): channels 0 to 3 of contexts 0 to 4. -/
def Cmd.place (q : Cmd) : Nat := 4 * q.ctx + q.chan
def Core.placeOf (c : Core) (id : Nat) : Nat := ((c.cmd id).map (·.place)).getD 20

/-- Whether a command is one that moves its data by beats: a running one of a kind other than RREAD, whose rows arrive, and the codec's, which
work block by block. -/
def Cmd.paced (q : Cmd) : Bool := q.phase == .running && !([3, 7, 8].contains (Blk.kind q.blk))

/-- Whether the codec command of a kind at a place has a block ready. -/
def Core.blocksReady (c : Core) (kind i : Nat) : Bool :=
  c.cmds.any fun q => q.place == i && q.phase == .running && Blk.kind q.blk == kind

/-- Whether a command could start: it is not held in the Almanac, and no earlier untimed command of its channel waits. -/
def Core.startable (c : Core) (q : Cmd) : Bool :=
  q.phase == .waiting && q.time.isNone
    && (Blk.timed q.blk || !(c.cmds.any fun r =>
      r.ctx == q.ctx && r.chan == q.chan && r.phase == .waiting && !Blk.timed r.blk && decide (r.id < q.id)))

/-- Whether the engine can start a command: the core is not frozen, fewer than 8 commands are active, and it is the turn of its
channel (R130). -/
def State.canStart (s : State) (k : Nat) (q : Cmd) : Bool :=
  let co := s.core k
  co.startable q && !s.frozen k && decide ((co.cmds.filter fun r => r.phase == .running).length < 8)
    && inTurn 20 co.cmdTurn (fun i => co.cmds.any fun r => r.place == i && co.startable r) q.place

/-- The turn passes on from a command's channel. -/
def State.passTurn (s : State) (k : Nat) (q : Cmd) : State := s.modCore k fun c => { c with cmdTurn := q.place + 1 }

/-- The requester of a command's accesses (Table 03-12), and who its errors are logged for. -/
def Cmd.rq (q : Cmd) (k : Nat) : Rq := ⟨k, q.ctx, q.ten, 2 + q.chan, q.chan⟩
def State.cmdSrc (s : State) (k : Nat) (q : Cmd) : Src :=
  { ten := q.ten, log := if q.ten = 16 then s.coreTenant k else some q.ten, core := k, ctx := q.ctx }

/-! ## Ending (R111, R125, R127) -/

/-- The status, reason and descriptor of an outcome. -/
def haltStatus : Option Halt → Nat × Nat × BitVec 256
  | none => (0, 0, 0)
  | some (.fault f) => (2, 0, f)
  | some .link => (6, 0, 0)
  | some (.reject r) => (1, r, 0)
  | some .overrun => (5, 0, 0)
  | some .notYet | some .pause => (0, 0, 0)

/-- What an engine reports for an outcome, without its CRCs. A codec failure makes status 3. Elements whose register chunk has not been
written do not count (R61, R127). -/
def Eng.result (e : Eng) (h : Option Halt) : CmdResult :=
  let (st, reason, f) := haltStatus h
  let st := if st = 0 ∧ e.codec ≠ 0 then 3 else st
  { status := st, reason := reason, codec := e.codec, pois := e.pois, ph2 := e.ph2 && st == 2,
    count := e.regs.put.foldl (fun n p => Nat.min n p.2.1) e.count, ares := e.ares,
    fault := f }

/-- A command that has ended: its CRCs are those of the source bytes and of the destination image, where they are asked for
and the status is neither 2 nor 4. -/
def Cmd.finish (q : Cmd) (r : CmdResult) (src dst : List Byte) : Cmd :=
  let crc := r.status != 2 && r.status != 4
  { q with
    phase := .ended
    rows := []
    srcRows := []
    img := []
    log := []
    beat := (0, 0)
    res := { r with
      scrc := if crc && Blk.crcs q.blk then crc32c src else 0
      dcrc := if crc && Blk.crcd q.blk then crc32c dst else 0 } }

/-- The source bytes and the destination image that an engine run leaves. -/
def Eng.srcBytes (e : Eng) : List Byte := e.read ++ regionBytes e.plane
def Eng.dstBytes (e : Eng) : List Byte := regionBytes e.dst ++ regionBytes e.dst2 ++ regionBytes e.dst3

/-- An engine about to work for a command. -/
def State.eng (s : State) (k : Nat) (q : Cmd) : Eng :=
  { s := s, rq := q.rq k, src := s.cmdSrc k q, pois := q.res.pois, wrote := q.wrote, codec := q.res.codec, ares := q.res.ares,
    count := q.res.count, dst := q.img, bad := q.bad }

/-- The outcome of a run: nothing has happened where an access must wait for a link. -/
def outcome {α : Type} (x : Except Halt α × Eng) : Option (Option Halt × Eng) :=
  match x with
  | (.error .notYet, _) | (.error .pause, _) => none
  | (.error h, e) => some (some h, e)
  | (.ok _, e) => some (none, e)

/-- Run a whole command. -/
def State.runCmd (s : State) (k : Nat) (q : Cmd) (m : Engine Unit) : State :=
  match outcome (runEngine m (s.eng k q)) with
  | none => s
  | some (h, e) => e.s.modCmd k q.id fun q => { q.finish (e.result h) e.srcBytes e.dstBytes with wrote := e.wrote }

/-- A step of the copy engine that runs a waiting command of a kind whole, while it moves no other command's data by beats (R130). -/
def State.engineStep (s : State) (k id : Nat) (kind : Nat) (spc : Nat) (m : Blk → Engine Unit) : State :=
  match (s.core k).cmd id with
  | some q =>
    if s.canStart k q && !((s.core k).cmds.any Cmd.paced) && Blk.kind q.blk == kind && Blk.dspace q.blk == spc then (s.passTurn k q).runCmd k q (m q.blk) else s
  | none => s

/-- `COPY` (R112). -/
def execCopy (k id : Nat) (s : State) : Out := .next (s.engineStep k id 1 0 copyAll)
/-- `COPY_TO_IMEM` (R118). -/
def execCopyToImem (k id : Nat) (s : State) : Out := .next (s.engineStep k id 1 1 copyImage)
/-- `COPY_TO_TEMPLATE_STORE` (R118). -/
def execCopyToTemplateStore (k id : Nat) (s : State) : Out := .next (s.engineStep k id 1 2 copyImage)
/-- `PUBLISH` (R114): each of its rows is written whole. -/
def execPublish (k id : Nat) (s : State) : Out := .next (s.engineStep k id 5 0 copyAll)
/-- `GATHER` (R115). -/
def execGather (k id : Nat) (s : State) : Out := .next (s.engineStep k id 2 0 gatherAll)
/-- `POOL` (R117). -/
def execPool (k id : Nat) (s : State) : Out := .next (s.engineStep k id 4 0 poolAll)
/-- `CSR` (R120). -/
def execCsr (k id : Nat) (s : State) : Out := .next (s.engineStep k id 6 0 csrAll)
/-- `HIST` (R123). -/
def execHist (k id : Nat) (s : State) : Out := .next (s.engineStep k id 9 0 histAll)
/-- `BUILD` (R123). -/
def execBuild (k id : Nat) (s : State) : Out := .next (s.engineStep k id 10 0 buildAll)

/-! ## RREAD (R116) -/

/-- An RREAD that waits for no more rows has ended. -/
def Cmd.settleRows (q : Cmd) : Cmd :=
  if q.rows.isEmpty then q.finish q.res (q.srcRows.flatMap (·.2)) (regionBytes q.img) else q

/-- `RREAD` (R116): every request is sent; rows without one are written. -/
def execRread (k id : Nat) (s : State) : Out :=
  .next <| match (s.core k).cmd id with
  | none => s
  | some q =>
    if !s.canStart k q || Blk.kind q.blk != 3 then s else
    let s := s.passTurn k q
    match runEngine (rreadRows q.blk 0 (Blk.count q.blk 1)) (s.eng k q) with
    | (.error _, _) => s
    | (.ok (rows, h), e) =>
      e.s.modCmd k id fun q => Cmd.settleRows { q with
        phase := .running, rows := rows, res := e.result h, wrote := e.wrote, img := e.dst }

/-- The row of an RREAD arrives: it is read at its core, converted and written. A row that a later one overlaps in the destination stands
or not as their replies arrive (log entry 123). -/
def replyRow (b : Blk) (pa n : Nat) : Engine Unit := do
  let e ← get
  let bs ← engAct fun s => s.readAt e.src .read pa (Blk.rowIn b)
  let bs := e.taint bs
  modify fun e => { e with pois := e.pois || bs.any (·.2), read := e.read ++ bs.map (·.1) }
  writeRow b n bs

/-- A row whose reply has been written, or that stopped the command: of several rows that do, the lowest counts. Its source bytes are those that
the command got of it (R125). -/
def Cmd.gotRow (q : Cmd) (n : Nat) (h : Option Halt) (e : Eng) : Cmd :=
  let q := { q with wrote := e.wrote, img := e.dst, rows := q.rows.erase n, res := { q.res with pois := e.pois } }
  Cmd.settleRows <| match h with
  | none => { q with srcRows := q.srcRows.put n e.read }
  | some h =>
    if n < q.res.count then
      { q with
        rows := q.rows.filter fun r => decide (r.1 < n)
        srcRows := q.srcRows.filter fun r => decide (r.1 < n)
        res := { ({ e with count := n } : Eng).result (some h) with pois := e.pois } }
    else q

/-- The row of a reply that has come is written. -/
def State.replyRow (s : State) (k n : Nat) (q : Cmd) : State :=
  match outcome (runEngine (Sys2Proof.Machine.replyRow q.blk (spad (rreadCore (q.rows.get 0 n)) (rreadOff (q.rows.get 0 n))) n) (s.eng k q)) with
  | none => s
  | some (h, e) => e.s.modCmd k q.id fun q => q.gotRow n h e

/-- `RREAD_REPLY` (R116): the reply of a remote row arrives. A freeze of the core that holds the row delays its reply (R129);
one of the issuing core holds it (R325). Where rows overlap in the destination, the last to arrive stands, which is the model's choice (log entry
123). -/
def execRreadReply (k id n : Nat) (s : State) : Out :=
  .next <| match (s.core k).cmd id with
  | none => s
  | some q =>
    if q.phase != .running || !q.rows.has n then s else
    let i := q.rows.get 0 n
    let t := rreadCore i
    if s.farCut k t then s
    else if s.frozen t then s.holdAt t (.reply k id n)
    else if s.pathHolds k (spad t (rreadOff i)) (Blk.rowIn q.blk) then s
    else if s.frozen k then s.holdAt k (.reply k id n)
    else s.replyRow k n q

/-! ## Codec commands (R122) -/

/-- A command that works block by block starts; one of no blocks ends. -/
def State.startBlocks (s : State) (k id kind : Nat) : State :=
  match (s.core k).cmd id with
  | some q =>
    if s.canStart k q && Blk.kind q.blk == kind then
      (s.passTurn k q).modCmd k id fun q => if Blk.count q.blk 0 = 0 then q.finish {} [] [] else { q with phase := .running }
    else s
  | none => s

/-- `DECODE` (R122). -/
def execDecode (k id : Nat) (s : State) : Out := .next (s.startBlocks k id 7)
/-- `ENCODE` (R122). -/
def execEncode (k id : Nat) (s : State) : Out := .next (s.startBlocks k id 8)

/-- A running codec command that has worked on a block. -/
def Cmd.didBlock (q : Cmd) (h : Option Halt) (e : Eng) : Cmd :=
  let q := { q with
    block := q.block + 1, srcRows := q.srcRows.put q.block e.read, img := e.dst, wrote := e.wrote, res := e.result h
    log := [], beat := (0, 0) }
  if h.isSome || q.block == Blk.count q.blk 0 then q.finish q.res (q.srcRows.flatMap (·.2)) (regionBytes q.img) else q

/-- Whether a command of a kind is in the midst of a block, which a pipe of the codec does not interleave with another (R101). -/
def Core.midBlock (c : Core) (kind : Nat) : Bool := c.cmds.any fun q => q.phase == .running && Blk.kind q.blk == kind && !q.log.isEmpty

/-- One block of a running codec command. -/
def State.codecCmd (s : State) (k id kind : Nat) (one : Blk → CodecTable → Nat → Engine Unit) : State :=
  match (s.core k).cmd id with
  | none => s
  | some q =>
    match q.table with
    | none => s
    | some t =>
      if q.phase != .running || Blk.kind q.blk != kind || s.frozen k then s else
      match outcome (runEngine (one q.blk t q.block) (s.eng k q)) with
      | none => s
      | some (h, e) => e.s.modCmd k id fun q => q.didBlock h e

/-! ## Completion and the Almanac -/

/-- `COPY_COMPLETION` (R105, R106, R126): a command that has ended completes; in a later cycle, where a word of this one has already read what
that changes (R317). -/
def execCopyCompletion (k id : Nat) (s : State) : Out :=
  .next <| match (s.core k).cmd id with
  | some q =>
    if q.phase != .ended then s
    else if s.frozen k then s.holdAt k (.completion k id)
    else if (s.core k).sampledAt == some (s.coreCc k) then s
    else s.completeCmd k q
  | none => s

/-- `ALMANAC_RELEASE` (R128): GTC has reached the TIME of the entry that comes first. -/
def execAlmanacRelease (k id : Nat) (s : State) : Out :=
  .next <| match (s.core k).cmd id with
  | some q =>
    match q.time with
    | some t =>
      let first := !((s.core k).cmds.any fun r => match r.time with
        | some u => decide (u < t) || (u == t && decide (r.id < id))
        | none => false)
      if first && decide (t ≤ s.gtc) && !s.frozen k then s.modCmd k id fun q => { q with time := none } else s
    | none => s
  | none => s

end Sys2Proof.Machine
end

