-- ==== Sys2Proof/Machine/StreamEvents.lean ====
section
/-! DEFINITION. Pattern engines: generating, filling and draining lines, masks, elements between ports, codec blocks (06, R101
to R104). -/

namespace Sys2Proof.Machine
open Sys2Proof

/-! ## Stopping (R145, R156, R161, R405) -/

/-- An engine stops at an element: of a source the lines before the `i`-th remain, and its fetch position returns to where it
stopped; of a failed sink the lines before the `i`-th still drain. -/
def Port.cutAt (p : Port) (i : Nat) (pos : Pos) : Port :=
  if Conf.sink p.cfg then { p with fpos := if i = 0 then pos else p.fpos, fltLines := i } else
  { p with
    lines := p.lines.take i
    fpos := pos
    next := match p.lines[i]? with
      | some l => l.frm
      | none => p.next }

/-- Elements of a port whose lines are gone are not sent. -/
def State.dropFrom (s : State) (k x n i : Nat) : State :=
  let p := s.port k x n
  if Conf.sink p.cfg then s else match p.lines[i]? with
  | some l => s.unsend k x n l.gen
  | none => s

/-- Park an engine at an element (R161): the port is queued for service, once, or the host is told (R405). -/
def State.parkPort (s : State) (k x n i : Nat) (pos : Pos) (f : BitVec 256) : State :=
  let s := (s.dropFrom k x n i).modPort k x n fun p => { p.cutAt i pos with park := true, fault := f, fltPos := pos }
  let ten := s.ctxTenant k x
  let log := if ten = 16 then s.coreTenant k else some ten
  if s.hostMode (log.getD 0) 2 then
    s.logError log { cls := 9, core := k, ctx := x, sys := ten == 16, d0 := n, fault := f }
  else s.modCore k fun c => { c with parkQ := c.parkQ.filter (· != (x, n)) ++ [(x, n)] }

/-- Put a port in FLT at an element (R162). -/
def State.failPort (s : State) (k x n i : Nat) (pos : Pos) (f : BitVec 256) : State :=
  (s.dropFrom k x n i).modPort k x n fun p => (p.cutAt i pos).fail pos f

/-- What stops an engine at an element: a fault to park on, or a cause. -/
inductive Halted where
  | park (f : BitVec 256)
  | flt (f : BitVec 256)
  | later

/-- Whether a port's engine works: a nest of the direction, its positions known, and not stopped. A failed sink goes on with the
lines before the element it failed at (R162); only a source's engine needs the mask, a sink's pushes have (R142). -/
def State.engineOn (s : State) (k x n : Nat) (sink : Bool) : Bool :=
  let p := s.port k x n
  p.act && Conf.sink p.cfg == sink && !p.park && !s.frozen k && p.restored == 0
    && (if sink then !p.flt || decide (0 < p.fltLines) else !p.flt && !p.needsLatch)

/-- Stop an engine at an element. -/
def State.haltPort (s : State) (k x n i : Nat) (pos : Pos) (h : Halted) (s0 : State) : State :=
  match h with
  | .park f => s.parkPort k x n i pos f
  | .flt f => s.failPort k x n i pos f
  | .later => s0

/-! ## Items (R136, R140, R145) -/

def Conf.itemBytes (c : Conf) : Nat := Nat.max 1 (c.fmt.bits / 8)

/-- VLEN of the last block of a codec stream's tensor (R100): of its header as memory holds it; the whole block where it cannot
be read or decoded (log entry 79). -/
def State.lastLen (s : State) (k x n : Nat) (c : Conf) : Nat :=
  let d := 256 * c.dsz
  let go : Engine (List PByte) := engRead false (engAddr (c.base + ((c.nblk - 1) * d : Nat))) d .source
  match runEngine go { s := s, rq := s.rq k x 7, src := s.src k x }, (s.port k x n).table with
  | (.ok bs, _), some t =>
    match (if t.bad || bs.any (·.2) then none else decodeBlock t (bs.map (·.1))) with
    | some (_, v) => v
    | none => 4095
  | _, _ => 4095

/-- Whether an offset of a codec stream's decoded tensor lies outside it (R100, R104). -/
def State.outsideTensor (s : State) (k x n : Nat) (c : Conf) (o : Int) : Bool :=
  decide (o < 0) || decide ((c.nblk : Int) * 4096 ≤ o)
    || (decide (((c.nblk : Int) - 1) * 4096 < o) && decide (((c.nblk : Int) - 1) * 4096 + s.lastLen k x n c < o))

/-- Translate one item's address, in half bytes, for an access kind. -/
def State.placeItem (s : State) (k x n : Nat) (c : Conf) (acc : AccessKind) (a : Int) : Except Halted Item × State :=
  let w := c.itemBytes
  let va := wrap 64 (a / 2)
  let nib := a % 2 != 0
  let mis := Halted.flt (causeWordOf va 5 0)
  if c.isCodec then
    if s.outsideTensor k x n c (a / 2) then (.ok { pa := none }, s)
    else if va % w ≠ 0 then (.error mis, s)
    else (.ok { pa := some va, nib := nib, va := va }, s)
  else if c.kind == 1 then
    if a < 0 ∨ 0x200000 < va + w then (.error mis, s) else (.ok { pa := some (spad k va), nib := nib, va := va }, s)
  else if va % w ≠ 0 then (.error mis, s)
  else
    match s.xlat (s.rq k x 6 n) va 0 w acc with
    | (.error f, s) => (.error (.park f), s)
    | (.ok p, s) =>
      match s.linkCut k p.pa with
      | some d => (.error (.flt (causeWordOf va 12 d)), s)
      | none => (.ok { pa := some p.pa, nib := nib, ord := (match p.ord with | .so => 0 | .rc => 1 | .un => 2), mt := p.mt, va := va }, s)

/-- The items of the element at a position, from item `i` on. -/
def State.placeFrom (s : State) (k x n : Nat) (c : Conf) (acc : AccessKind) (pos : Pos) : Nat → Nat → Except Halted (List Item) × State
  | _, 0 => (.ok [], s)
  | i, m + 1 =>
    let one : Except Halted Item × State := match c.itemAddr i pos with
      | some a => s.placeItem k x n c acc a
      | none => (.ok { pa := none }, s)
    match one with
    | (.error h, s) => (.error h, s)
    | (.ok it, s) =>
      match s.placeFrom k x n c acc pos (i + 1) m with
      | (.error h, s) => (.error h, s)
      | (.ok its, s) => (.ok (it :: its), s)

/-- The chunks of the register region that an element's items touch, in item order: where each begins, and the bytes touched
(R61). -/
def Conf.regChunks (c : Conf) (its : List Item) : List (Nat × List Nat) :=
  let bs := distinct (its.flatMap fun it => match it.pa with
    | some pa => if c.kind == 0 && inRegs pa then (List.range c.itemBytes).map (pa + ·) else []
    | none => [])
  (distinct (bs.map (· / 8))).map fun q =>
    let m := bs.filter (· / 8 == q)
    (m.foldl Nat.min (8 * q + 7), m)

/-- Whether a chunk is touched in an aligned half or as a whole. -/
def chunkWhole (q : Nat × List Nat) : Bool := q.2.length == 8 || (q.2.length == 4 && q.2.all fun b => b / 4 == q.1 / 4)

/-- The element at a position: its items, each translated; a register chunk that they touch in another way than R61 allows parks
the engine. -/
def State.placeItems (s : State) (k x n : Nat) (c : Conf) (acc : AccessKind) (pos : Pos) (m : Nat) : Except Halted (List Item) × State :=
  match s.placeFrom k x n c acc pos 0 m with
  | (.error h, s) => (.error h, s)
  | (.ok its, s) =>
    match (c.regChunks its).find? fun q => !chunkWhole q with
    | none => (.ok its, s)
    | some q =>
      match its.find? fun it => it.pa == some q.1 with
      | some it => (.error (.park (s.typeDesc (s.rq k x 6 n) it.va c.itemBytes acc q.1)), s)
      | none => (.ok its, s)

/-- The number of the tensor block at item `8 q` of an FP4 element, where its address names one (R137). -/
def Conf.scaleBlock (c : Conf) (pos : Pos) (q : Nat) : Option Int :=
  (c.itemAddr (8 * q) pos).map fun a => (a / 2 - if c.isCodec then 0 else c.base) / 4

/-- The local offset of a scale group that an FP4 element needs and that lies past the scratchpad (R137); a block below BASE is taken as one, which is
the model's choice (log entry 128). -/
def Conf.scaleMiss (c : Conf) (pos : Pos) (items : List Item) : Option Nat :=
  if c.fmtCode ≠ 5 then none else
  firstSome (fun q =>
    match (items.getD (8 * q) {pa := none}).pa, c.scaleBlock pos q with
    | some _, some b =>
      let o : Int := c.splane + 12 * (b / 8)
      if b < 0 ∨ 0x200000 < o + 12 then some (wrap 64 o) else none
    | _, _ => none) (List.range (c.count 0 / 8))

/-- The scale of block `q` of an element, from the local plane: its code and poison. A block that starts at no multiple of 4
from BASE has no stated scale (log entry 2). -/
def State.streamScale (s : State) (k : Nat) (c : Conf) (pos : Pos) (items : List Item) (q : Nat) : PElem × State :=
  match (items.getD (8 * q) {pa := none}).pa, c.scaleBlock pos q, c.itemAddr (8 * q) pos with
  | some _, some b, some a =>
    if (a - (if c.isCodec then 0 else 2 * (c.base : Int))) % 8 ≠ 0 then
      let (bs, s) := s.openBytes 2
      ((leNat bs % 4096, false), s)
    else
      let b := b.toNat
      let o := spad k (c.splane + 12 * (b / 8) + 12 * (b % 8) / 8)
      let lo := 12 * (b % 8) % 8
      ((bits (s.nat o 2) (lo + 11) lo, s.badIn o 2), s.look none o 2)
  | _, _, _ => ((0, false), s)

/-! ## An element as it is built -/

/-- An element of 256 bytes with the poison of its chunks. -/
structure Built where
  v : Nat := 0
  bad : Nat := 0

def orBit (m i : Nat) : Nat := if bit m i then m else m + 2 ^ i

/-- Put `w` bits at a bit position. -/
def Built.put (b : Built) (lo w v : Nat) (bad : Bool) : Built :=
  { v := setBits b.v (lo + w - 1) lo v
    bad := if bad then orBit (orBit b.bad (lo / 64)) ((lo + w - 1) / 64) else b.bad }

/-- Read an item and place it; `regs` holds the register bytes read for the element. -/
def State.readItem (s : State) (r : Src) (c : Conf) (regs : SMap Byte) (i : Nat) (it : Item) (b : Built) : Built × State :=
  match it.pa with
  | none => (b, s)
  | some pa =>
    let (bs, s) :=
      if c.kind == 1 then (s.rowAt pa c.itemBytes, s.look none pa c.itemBytes)
      else if inRegs pa then ((List.range c.itemBytes).map (fun j => (regs.get 0 (pa + j), false)), s)
      else s.readAt r .source pa c.itemBytes
    let v := leNat (bs.map (·.1))
    let w := c.fmt.bits
    (b.put (w * i) w (if w = 4 then (if it.nib then v / 16 else v % 16) else v) (bs.any (·.2)), s)

def State.readItems (s : State) (r : Src) (c : Conf) (regs : SMap Byte) : Nat → List Item → Built → Built × State
  | _, [], b => (b, s)
  | i, it :: its, b =>
    let (b, s) := s.readItem r c regs i it b
    s.readItems r c regs (i + 1) its b

/-- Read register chunks, one access each, in order (R61). -/
def State.readChunks (s : State) : List (Nat × List Nat) → SMap Byte → SMap Byte × State
  | [], m => (m, s)
  | q :: qs, m =>
    let (bs, s) := s.readRegs [q]
    s.readChunks qs (noteBytes m q.1 bs)

/-- Read items of an element, over what has been built of it (R145 to R147). -/
def State.readElem (s : State) (r : Src) (c : Conf) (its : List Item) (b : Built := {}) : Built × State :=
  let (regs, s) := s.readChunks (c.regChunks its) []
  s.readItems r c regs 0 its b

/-! ## An element word by word (R147, R354) -/

/-- The aligned words that an element's items touch, in item order. -/
def wordsOfItems (its : List Item) : List Nat := distinct (its.filterMap fun it => it.pa.map (· / 8))

/-- Of an element's items, those that lie in some words; the others stand for nothing. -/
def itemsIn (ws : List Nat) (its : List Item) : List Item :=
  its.map fun it => if it.pa.any fun pa => ws.contains (pa / 8) then it else { it with pa := none }

/-- The items that `m` more accesses of a line reach, past the words that it has read or written, and their number of words. -/
def Line.next (l : Line) (its : List Item) (m : Nat) : List Item × Nat :=
  let ws := ((wordsOfItems its).drop l.got).take m
  (itemsIn ws its, ws.length)

/-- The items of a line that are left. -/
def Line.left (l : Line) (its : List Item) : List Item :=
  if l.got = 0 then its else itemsIn ((wordsOfItems its).drop l.got) its

def Line.built (l : Line) : Built := ⟨l.part.toNat, l.partBad.toNat⟩

/-- Place the scales of an FP4 element (R137). -/
def State.putScales (s : State) (k : Nat) (c : Conf) (pos : Pos) (items : List Item) : Nat → Built → Built × State
  | 0, b => (b, s)
  | q + 1, b =>
    let (b, s) := s.putScales k c pos items q b
    let (x, s) := s.streamScale k c pos items q
    (b.put (1024 + 12 * q) 12 x.1 x.2, s)

/-! ## Forks and peers (R153 to R155) -/

/-- Elements that are coming to a port, and whether it has a line free of elements and reservations (R153). -/
def State.coming (s : State) (t : Nat × Nat × Nat) : Nat :=
  (s.elems.filter fun e => e.toCore == t.1 && e.toCtx == t.2.1 && e.toSp == t.2.2 && !e.isEnd).length
def State.hasLine (s : State) (t : Nat × Nat × Nat) : Bool :=
  let p := s.port t.1 t.2.1 t.2.2
  p.peerSource && decide (p.lines.length + s.coming t < Conf.ring p.cfg)

/-- How sending stands: the target takes an element, or its link is down, or it waits. -/
inductive Sending where | to (t : Nat × Nat × Nat) | cut | wait

def State.sending (s : State) (k x n : Nat) : Sending :=
  match s.target k x n with
  | none => .wait
  | some t =>
    if !s.dev.bridge.up && t.1 / 128 != k / 128 then .cut
    else if s.farCut k t.1 || !s.hasLine t then .wait
    else .to t

/-- An element of a port, reserved at its target. -/
def mkElem (id k x n : Nat) (t : Nat × Nat × Nat) (v : BitVec 2048) (bad : BitVec 32) (ready : Bool) : Elem :=
  { id := id, core := k, ctx := x, sp := n, toCore := t.1, toCtx := t.2.1, toSp := t.2.2, data := v, bad := bad, isEnd := false,
    ready := ready }

/-- Whether a position comes at or after another in nest order. -/
def Pos.atOrAfter (p q : Pos) : Bool :=
  let key := fun (r : Pos) => (((r.i5 * 65536 + r.i4) * 65536 + r.i3) * 65536 + r.i2) * 65536 + r.i1
  decide (key q ≤ key p)

/-- End a fork at the end of the nest (R155). -/
def State.nestEnd (s : State) (k x n : Nat) : State :=
  let p := s.port k x n
  if Conf.atEnd p.cfg p.fpos then s.endFork k x n else s

/-! ## Generating (R140 to R145, R149) -/

/-- Reserve a line for an element, at its target too where it is sent. -/
def State.reserve (s : State) (k x n : Nat) (items : List Item) (t : Option (Nat × Nat × Nat)) : State :=
  let p := s.port k x n
  let (id, s) := s.newId
  let s := match t with
    | some t => { s with elems := s.elems ++ [mkElem id k x n t 0 0 false] }
    | none => s
  (s.modPort k x n fun q => { q with
    lines := q.lines ++ [{ pos := p.fpos, frm := p.next, full := false, gen := id, items := items }]
    fpos := Conf.after p.cfg p.mask p.fpos
    next := Conf.succ p.cfg p.fpos
    sendFrom := if t.isSome then {} else q.sendFrom }).nestEnd k x n

/-- Whether the next element of a source goes to its fork target too (R155). -/
def Port.forks (p : Port) : Bool := Conf.pval p.cfg && p.fpos.atOrAfter p.sendFrom

/-- Whether a port has an element to generate now, and a line free for it, at its target too (R149, R155). -/
def State.canGenerate (s : State) (k x n : Nat) : Bool :=
  let p := s.port k x n
  let c := p.cfg
  s.engineOn k x n false && !Conf.isPeer c && !p.ended && !Conf.atEnd c p.fpos && Conf.keeps c p.mask p.fpos
    && decide (p.lines.length < Conf.ring c) && (!p.forks || match s.sending k x n with
      | .wait => false
      | _ => true)

/-- Generate the addresses of a port's next element. For a scale group past the scratchpad the cause word holds the group's local offset, which is
the model's choice (log entry 128). -/
def State.generate (s : State) (k x n : Nat) : State :=
  let p := s.port k x n
  let c := p.cfg
  let go := fun (t : Option (Nat × Nat × Nat)) =>
    match s.placeItems k x n c .source p.fpos (Conf.count c 0) with
    | (.error h, s1) => s1.haltPort k x n p.lines.length p.fpos h s
    | (.ok items, s) =>
      match Conf.scaleMiss c p.fpos items with
      | some o => s.failPort k x n p.lines.length p.fpos (causeWordOf o 5 0)
      | none => s.reserve k x n items t
  if p.forks then
    match s.sending k x n with
    | .to t => go (some t)
    | .cut => s.failPort k x n p.lines.length p.fpos (causeWordOf (Conf.elemVa c p.fpos) 12 0)
    | .wait => s
  else go none

/-- `STREAM_ELEMENT_GENERATE` (R149): the addresses of the next element of a port are generated into a free line. The engines serve the
ports round-robin, in the order of contexts 0 to 4 and ports 0 to 15, with one element in a cycle. -/
def execStreamElementGenerate (k x n : Nat) (s : State) : Out :=
  .next <|
    let i := 16 * x + n
    if (s.core k).genAt = some (s.coreCc k) || !inTurn 80 (s.core k).genTurn (fun j => s.canGenerate k (j / 16) (j % 16)) i
    then s
    else (s.generate k (i / 16) (i % 16)).modCore k fun c => { c with genTurn := i + 1, genAt := some (s.coreCc k) }

/-! ## Filling (R146, R147, R163) -/

/-- Change the `i`-th line in use of a port. -/
def Port.setLine (p : Port) (i : Nat) (l : Line) : Port := { p with lines := p.lines.take i ++ l :: p.lines.drop (i + 1) }

/-- An element's data, which its line now holds. -/
def Elem.fill (e : Elem) (id : Nat) (v : BitVec 2048) (bad : BitVec 32) : Elem :=
  if e.id == id && !e.ready then { e with data := v, bad := bad, ready := true } else e

/-- A line that is full with an element, which goes to the fork target too. -/
def State.fillLine (s : State) (k x n i : Nat) (l : Line) (b : Built) : State :=
  let p := s.port k x n
  let v := BitVec.ofNat 2048 b.v
  let bad := BitVec.ofNat 32 b.bad
  let s := s.storeChunks none (spad k (p.lineOf i)) v bad 32
  let s := { s with elems := s.elems.map fun (e : Elem) => e.fill l.gen v bad }
  s.modPort k x n fun p => p.setLine i { pos := l.pos, full := true, gen := l.gen }

/-- Items of a codec line that can be placed from the block now decoded, in order (R104). -/
def State.codecItems (s : State) (k : Nat) (c : Conf) (blk : Option Nat) : Nat → List Item → Built → Nat × Built
  | i, [], b => (i, b)
  | i, it :: its, b =>
    match it.pa with
    | none => s.codecItems k c blk (i + 1) its b
    | some a =>
      if blk ≠ some (a / 4096) then (i, b) else
      let pa := spad k (c.bufl + a % 4096)
      let v := s.nat pa c.itemBytes
      let w := c.fmt.bits
      s.codecItems k c blk (i + 1) its (b.put (w * i) w (if w = 4 then (if it.nib then v / 16 else v % 16) else v) (s.badIn pa c.itemBytes))

/-- Fill a codec line as far as the decoded block goes; what is read of the decode area is a read of the stream (R224). -/
def State.fillCodec (s : State) (k x n i : Nat) (l : Line) : State :=
  let p := s.port k x n
  let (got, b) := s.codecItems k p.cfg p.block l.got (l.items.drop l.got) l.built
  let s := ((l.items.take got).drop l.got).foldl (fun s it => match it.pa with
    | some a => s.look none (spad k (Conf.bufl p.cfg + a % 4096)) (Conf.itemBytes p.cfg)
    | none => s) s
  if got < l.items.length then
    s.modPort k x n fun p => p.setLine i { l with got := got, part := BitVec.ofNat 2048 b.v, partBad := BitVec.ofNat 32 b.bad }
  else
    let (b, s) := if Conf.fmtCode p.cfg = 5 then s.putScales k p.cfg l.pos l.items (Conf.count p.cfg 0 / 8) b else (b, s)
    s.fillLine k x n i l b

/-- The first of a line's items, of `n` bytes each, that a link, the freeze of its core or a write in the outbound path (R355,
R420) now keeps from its home: whether a link is down. -/
def State.itemsCut (s : State) (k n : Nat) (its : List Item) : Option Halted :=
  firstSome (fun it => match it.pa with
    | some pa => match s.linkCut k pa with
      | some d => some (.flt (causeWordOf it.va 12 d))
      | none => if s.notNow k pa n then some .later else none
    | none => none) its

/-- Whether the `i`-th line in use of a port is one that its source still fills from memory, and is free to: accesses to SO pages perform
in element order (R147). -/
def State.mayFetch (s : State) (k x n i : Nat) (l : Line) : Bool :=
  let p := s.port k x n
  !l.full && p.act && !Conf.sink p.cfg && !Conf.isPeer p.cfg && !s.frozen k && !Conf.isCodec p.cfg
    && !(l.items.any (·.ord == 0) && (p.lines.take i).any fun m => !m.full && m.items.any (·.ord == 0))

/-- Up to `m` accesses of a line that a source fills are made (R147, R354). -/
def State.fetchPart (s : State) (k x n i m : Nat) : State :=
  match (s.port k x n).lines[i]? with
  | none => s
  | some l =>
    let c := (s.port k x n).cfg
    if !s.mayFetch k x n i l then s else
    match s.itemsCut k (Conf.itemBytes c) (l.left l.items) with
    | some h => s.haltPort k x n i l.pos h s
    | none =>
      let (its, g) := l.next l.items m
      let (b, s) := s.readElem (s.src k x) c its l.built
      s.modPort k x n fun p => p.setLine i { l with got := l.got + g, part := BitVec.ofNat 2048 b.v, partBad := BitVec.ofNat 32 b.bad }

/-- `STREAM_LINE_FULL` (R146): the items of the `i`-th line in use have arrived. A codec source builds its elements in order. -/
def execStreamLineFull (k x n i : Nat) (s : State) : Out :=
  .next <|
    let p := s.port k x n
    let c := p.cfg
    match p.lines[i]? with
    | none => s
    | some l =>
      if l.full || !p.act || Conf.sink c || Conf.isPeer c || s.frozen k then s
      else if Conf.isCodec c then (if (p.lines.take i).all (·.full) then s.fillCodec k x n i l else s)
      else if !s.mayFetch k x n i l then s
      else
        match s.itemsCut k (Conf.itemBytes c) (l.left l.items) with
        | some h => s.haltPort k x n i l.pos h s
        | none =>
          let (b, s) := s.readElem (s.src k x) c (l.left l.items) l.built
          let (b, s) := if Conf.fmtCode c = 5 then s.putScales k c l.pos l.items (Conf.count c 0 / 8) b else (b, s)
          s.fillLine k x n i l b

/-! ## Codec blocks of a stream (R101, R104) -/

/-- The first line that is not full, and the block that its next item needs and the decode area does not hold. -/
def Port.wants (p : Port) : Option (Nat × Line × Nat) :=
  let i := (p.lines.takeWhile (·.full)).length
  match p.lines[i]? with
  | none => none
  | some l =>
    match (l.items.drop l.got).find? fun it => it.pa.isSome with
    | some it => let b := (it.pa.getD 0) / 4096; if p.block = some b then none else some (i, l, b)
    | none => none

/-- Decode the block that a codec source needs next into lines 0 to 15 of its buffer. A fault parks it at the element. -/
def State.codecPort (s : State) (k x n : Nat) : State :=
  let p := s.port k x n
  let c := p.cfg
  match p.wants, p.table with
  | some (i, l, blk), some t =>
    if !p.act || !Conf.isCodec c || s.frozen k then s else
    let d := 256 * Conf.dsz c
    let go : Engine (List PByte × Nat × Nat) := do
      let bs ← engRead false (engAddr (Conf.base c + (blk * d : Nat))) d .source
      decodeRead t bs
    match runEngine go { s := s, rq := s.rq k x 7, src := s.src k x } with
    | (.error (.fault f), e) => e.s.parkPort k x n i l.pos f
    | (.error .notYet, _) => s
    | (.error _, e) => e.s.failPort k x n i l.pos (causeWordOf (Conf.base c + blk * d) 12 (if s.dev.bridge.up then 1 else 0))
    | (.ok (raw, st, _), e) =>
      (e.s.storeRow none (spad k (Conf.bufl c)) raw).modPort k x n fun p =>
        { p with block := some blk, cst := if p.cst = 0 then st else p.cst }
  | _, _ => s

/-- The places of the requesters of the decode pipe in its order (R103; log entry 81): the ports 0 to 15 of each context, then the
copy channels 0 to 3 of each. -/
def decodePlaces : Nat := 100
/-- Whether the requester at a place has a block ready to decode. -/
def State.decodeReady (s : State) (k i : Nat) : Bool :=
  if i < 80 then
    let p := s.port k (i / 16) (i % 16)
    p.act && Conf.isCodec p.cfg && p.wants.isSome
  else (s.core k).blocksReady 7 (i - 80)

/-- Whether a command is one that the codec works on: a running one of a kind with its table (R122). -/
def Core.codecRuns (c : Core) (id kind : Nat) : Bool := match c.cmd id with
  | some q => q.phase == .running && Blk.kind q.blk == kind && q.table.isSome
  | none => false

/-- `CODEC_DECODE_BLOCK` (R101, R103): one compressed block of the requester whose turn it is is expanded. -/
def execCodecDecodeBlock (u : CodecUser) (s : State) : Out :=
  let go := fun (k i : Nat) (s' : State) =>
    if inTurn decodePlaces (s.core k).decTurn (s.decodeReady k) i && !s.frozen k && !(s.core k).midBlock 7 then
      s'.modCore k fun c => { c with decTurn := i + 1 }
    else s
  .next <| match u with
  | .cmd k id => if (s.core k).codecRuns id 7 then go k (80 + (s.core k).placeOf id) (s.codecCmd k id 7 decodeOne) else s
  | .port k x n => go k (16 * (x % 5) + n % 16) (s.codecPort k (x % 5) (n % 16))

/-- `CODEC_ENCODE_BLOCK` (R102, R103): one raw block of the ENCODE whose turn it is is compressed; no stream feeds the encoder. -/
def execCodecEncodeBlock (u : CodecUser) (s : State) : Out :=
  .next <| match u with
  | .cmd k id =>
    let i := (s.core k).placeOf id
    if (s.core k).codecRuns id 8 && inTurn 20 (s.core k).encTurn ((s.core k).blocksReady 8) i && !s.frozen k && !(s.core k).midBlock 8 then
      (s.codecCmd k id 8 encodeOne).modCore k fun c => { c with encTurn := i + 1 }
    else s
  | .port _ _ _ => s

/-! ## Draining (R146, R147, R154) -/

/-- The bytes of an item of a drained line, with its poison: a 4-bit item leaves the other half of its byte, `o`. -/
def Conf.itemRow (c : Conf) (i : Nat) (it : Item) (v : Nat) (bad : BitVec 32) (o : Nat) : List PByte :=
  let w := c.fmt.bits
  let x := bits v (w * i + w - 1) (w * i)
  let bs := if w = 4 then leBytes 1 (if it.nib then o % 16 + x * 16 else x + o / 16 * 16) else leBytes (w / 8) x
  bs.map fun y => (y, bad.getLsbD (w * i / 64))

/-- Write an item of a drained line; register chunks are written apart. -/
def State.writeItem (s : State) (r : Src) (c : Conf) (i : Nat) (it : Item) (v : Nat) (bad : BitVec 32) : State :=
  match it.pa with
  | none => s
  | some pa =>
    let row := c.itemRow i it v bad (s.byte pa).toNat
    if c.kind == 1 then s.storeRow none pa row
    else if inRegs pa then s
    else (s.writeAt r .sink pa row).2

def State.writeItems (s : State) (r : Src) (c : Conf) (v : Nat) (bad : BitVec 32) : Nat → List Item → State
  | _, [] => s
  | i, it :: its => (s.writeItem r c i it v bad).writeItems r c v bad (i + 1) its

/-- The register bytes that an element's items write, over those that the registers hold. -/
def Conf.regImage (c : Conf) (v : Nat) : Nat → List Item → SMap Byte → SMap Byte
  | _, [], m => m
  | i, it :: its, m => c.regImage v (i + 1) its (match it.pa with
    | some pa => if inRegs pa then noteBytes m pa (c.itemRow i it v 0 (m.get 0 pa).toNat) else m
    | none => m)

/-- Write an element (R146, R147): a register chunk in one access (R61). -/
def State.writeElem (s : State) (r : Src) (c : Conf) (v : Nat) (bad : BitVec 32) (its : List Item) : State :=
  let qs := c.regChunks its
  let old := qs.foldl (fun m q => noteBytes m (q.1 / 8 * 8) ((leBytes 8 (s.regValue (regAt (q.1 / 8 * 8 - regBase)))).map fun b => (b, false))) []
  let m := c.regImage v 0 its old
  qs.foldl (fun s q => s.regWrite (q.1 - regBase) q.2.length (leNat ((List.range q.2.length).map fun j => m.get 0 (q.1 + j))))
    (s.writeItems r c v bad 0 its)

/-- The head line of a ring becomes empty; a sink's next element to drain is that of the next line. -/
def Port.freeHead (p : Port) : Port :=
  let ls := p.lines.tail
  { p with
    lines := ls
    head := (p.head + 1) % Nat.max 1 (Conf.ring p.cfg)
    fpos := if Conf.sink p.cfg then (ls.head?.map (·.pos)).getD p.cpos else p.fpos
    fltLines := p.fltLines - 1 }

/-- The items of a line that drains, translated as its first word is written. -/
def State.drainItems (s : State) (k x n : Nat) (l : Line) : Except Halted (List Item) × State :=
  let c := (s.port k x n).cfg
  if l.got ≠ 0 then (.ok l.items, s) else s.placeItems k x n c .sink l.pos (Conf.count c 0)

/-- Write those of a draining line's items that `pick` leaves, and then do `fin`. -/
def State.drainWith (s : State) (k x n : Nat) (l : Line) (pick : List Item → List Item) (fin : List Item → State → State) : State :=
  let p := s.port k x n
  let c := p.cfg
  match s.drainItems k x n l with
  | (.error h, s1) => s1.haltPort k x n 0 l.pos h s
  | (.ok items, s1) =>
    match s1.itemsCut k (Conf.itemBytes p.cfg) (l.left items) with
    | some h => s1.haltPort k x n 0 l.pos h s
    | none =>
      let pa := spad k (p.lineOf 0)
      let v := leNat (s1.bytes pa 256)
      let s2 := s1.look none pa 256
      fin items (s2.writeElem (s2.src k x) c v (s2.lineBad pa) (pick items))

/-- Drain the head line of a sink into memory. A restored line for which the mask keeps no position goes nowhere (log entry 108); an
FP4 sink writes codes, and no scale plane (log entry 109). -/
def State.drainLine (s : State) (k x n : Nat) (l : Line) : State :=
  if Conf.atEnd (s.port k x n).cfg l.pos then s.modPort k x n Port.freeHead else
  s.drainWith k x n l l.left fun _ s => s.modPort k x n Port.freeHead

/-- Up to `m` accesses of the line that a sink drains are made (R147, R354). -/
def State.drainPart (s : State) (k x n m : Nat) : State :=
  match (s.port k x n).lines with
  | [] => s
  | l :: _ =>
    if !s.engineOn k x n true || Conf.isPeer (s.port k x n).cfg || Conf.atEnd (s.port k x n).cfg l.pos then s else
    s.drainWith k x n l (fun its => (l.next its m).1) fun its s =>
      let (id, s) := s.newId
      s.modPort k x n fun p => p.setLine 0
        { l with got := l.got + (l.next its m).2, items := its, gen := if l.got = 0 then id else l.gen }

/-- Send the next line of a peer sink, or its end marker (R154). A failed sink sends the lines before the element it failed at. -/
def State.sendLine (s : State) (k x n : Nat) : State :=
  let p := s.port k x n
  let m := (s.elems.filter fun e => e.of k x n && !e.isEnd).length
  if p.flt && decide (p.fltLines ≤ m) then s else
  match p.lines[m]? with
  | none => if p.ended && !p.endSent then (s.sendMarker k x n).modPort k x n fun p => { p with endSent := true } else s
  | some l =>
    match s.sending k x n with
    | .wait => s
    | .cut => s.failPort k x n m l.pos (causeWordOf (Conf.elemVa p.cfg l.pos) 12 0)
    | .to t =>
      let pa := spad k (p.lineOf m)
      let (id, s) := s.newId
      let e := mkElem id k x n t (vecOf (s.bytes pa 256)) (s.lineBad pa) true
      ({ s with elems := s.elems ++ [e] } : State).look none pa 256

/-- `STREAM_DRAIN` (R146): the head line of a sink is drained. -/
def execStreamDrain (k x n : Nat) (s : State) : Out :=
  .next <|
    if !s.engineOn k x n true then s
    else if Conf.isPeer (s.port k x n).cfg then s.sendLine k x n
    else match (s.port k x n).lines with
      | l :: _ => s.drainLine k x n l
      | [] => s

/-- Whether a port's engine needs a mask bit now (R142, R160): a port restored with lines at once, parked or failed as it may be, unless
a poisoned mask has blocked them; a source where it has an element to generate and a line for it. A sink needs one at a push. -/
def Port.wantsMask (p : Port) : Bool :=
  p.act && p.needsLatch && !p.blocked && (p.restored != 0 || (!Conf.sink p.cfg && !p.park && !p.flt && !p.ended && !Conf.atEnd p.cfg p.fpos
    && decide (p.lines.length < Conf.ring p.cfg)))

/-- `MASK_LATCH` (R142): the engine latches the mask where it needs a bit of it. -/
def execMaskLatch (k x n : Nat) (s : State) : Out :=
  .next <|
    let p := s.port k x n
    let g := (s.ctx k x).g.get {} (Conf.mreg p.cfg)
    if !p.wantsMask || s.frozen k || !g.full then s
    else
      let s := s.modPort k x n fun p => p.takeMask g.v g.bad
      if Conf.sink p.cfg then s else s.nestEnd k x n

/-! ## Elements on their way (R153 to R155) -/

/-- Whether an earlier element or marker of the same port is still on its way. -/
def State.behind (s : State) (e : Elem) : Bool :=
  s.elems.any fun f => f.of e.core e.ctx e.sp && decide (f.id < e.id)

def State.dropElem (s : State) (id : Nat) : State := { s with elems := s.elems.filter fun e => e.id != id }

/-- The head line of a port from which a peer sink has sent its element is freed (R154). -/
def State.freeLine (s : State) (k x n : Nat) : State :=
  if (s.port k x n).act && Conf.sink (s.port k x n).cfg then s.modPort k x n Port.freeHead else s

/-- The target of an element takes it, and discards it where SEND has ended it (R151; log entry 80); the line of a peer sink is
freed (R154), once its core is not frozen (R149, R420). -/
def State.accept (s : State) (e : Elem) : State :=
  let p := s.port e.toCore e.toCtx e.toSp
  let s := s.dropElem e.id
  let s := if p.ended then s else
    (s.storeChunks none (spad e.toCore (p.lineOf p.lines.length)) e.data e.bad 32).modPort e.toCore e.toCtx e.toSp fun p =>
      { p with lines := p.lines ++ [{ pos := p.cpos, full := true }] }
  if s.frozen e.core then s.holdAt e.core (.ctl e.core (.freed e.ctx e.sp)) else s.freeLine e.core e.ctx e.sp

/-- Whether what is on its way still has a context to reach: one that no step holds any more takes nothing. -/
def State.lostTarget (s : State) (e : Elem) : Bool := (s.ctx e.toCore e.toCtx).bind.isNone

/-- `PEER_ELEMENT_ARRIVAL` (R153): an element reaches its target port, in the order of its sender. -/
def execPeerElementArrival (id : Nat) (s : State) : Out :=
  .next <| match s.elems.find? fun e => e.id == id with
  | none => s
  | some e =>
    let p := s.port e.toCore e.toCtx e.toSp
    if e.isEnd || !e.ready || s.behind e || s.farCut e.core e.toCore then s
    else if s.lostTarget e then s.dropElem id
    else if !p.peerSource || decide (Conf.ring p.cfg ≤ p.lines.length) then s
    else if s.frozen e.toCore then s.holdAt e.toCore (.element id)
    else s.accept e

/-- A port takes the end marker. -/
def State.takeEnd (s : State) (e : Elem) : State :=
  (s.dropElem e.id).modPort e.toCore e.toCtx e.toSp fun p => { p with endGot := true, ended := p.ended || p.lines.isEmpty }

/-- `END_MARKER_ARRIVAL` (R153): the end marker reaches its target port, which ends once its elements have been popped. -/
def execEndMarkerArrival (id : Nat) (s : State) : Out :=
  .next <| match s.elems.find? fun e => e.id == id with
  | none => s
  | some e =>
    let p := s.port e.toCore e.toCtx e.toSp
    if !e.isEnd || s.behind e || s.farCut e.core e.toCore then s
    else if s.lostTarget e then s.dropElem id
    else if !p.peerSource then s
    else if s.frozen e.toCore then s.holdAt e.toCore (.marker id)
    else s.takeEnd e

end Sys2Proof.Machine
end

