-- ==== Sys2Proof/Machine/Beats.lean ====
section
/-! DEFINITION. Copy commands that move their data in 256-byte beats, several at once, access by access (R130, R354, R367). -/

namespace Sys2Proof.Machine
open Sys2Proof

/-! ## What a command does -/

/-- What a command of a kind that moves its data by beats does: the whole of it, or of a codec command its next block. -/
def Cmd.work (q : Cmd) : Option (Engine Unit) :=
  match Blk.kind q.blk, q.table with
  | 1, _ => some (if Blk.dspace q.blk = 0 then copyAll q.blk else copyImage q.blk)
  | 2, _ => some (gatherAll q.blk)
  | 4, _ => some (poolAll q.blk)
  | 5, _ => some (copyAll q.blk)
  | 6, _ => some (csrAll q.blk)
  | 7, some t => some (decodeOne q.blk t q.block)
  | 8, some t => some (encodeOne q.blk t q.block)
  | 9, _ => some (histAll q.blk)
  | 10, _ => some (buildAll q.blk)
  | _, _ => none

/-- Whether the transfer of a command of the system touches the register region: such a command runs whole (R61). -/
def State.usesRegs (s : State) (k : Nat) (q : Cmd) (m : Engine Unit) : Bool :=
  q.ten == 16 && let u := (m.run { s.eng k q with regs := { probe := true } }).2.regs
    !u.rd.isEmpty || !u.wr.isEmpty

/-! ## Turns (R103, R130) -/

/-- Whether the codec's pipe serves a running command of a kind now: it goes on with a block, or its turn has come (R101, R103). -/
def State.pipeServes (s : State) (k : Nat) (q : Cmd) : Bool :=
  let co := s.core k
  !q.log.isEmpty || (!co.midBlock (Blk.kind q.blk) &&
    if Blk.kind q.blk = 7 then inTurn decodePlaces co.decTurn (s.decodeReady k) (80 + q.place)
    else inTurn 20 co.encTurn (co.blocksReady 8) q.place)

/-- Whether a command can take a beat. -/
def State.inRound (s : State) (k : Nat) (q : Cmd) : Bool :=
  q.paced || (q.phase == .running && (Blk.kind q.blk == 7 || Blk.kind q.blk == 8) && s.pipeServes k q)

/-- The command in whose beat the engine is: it goes on with one that has begun, or takes the next of the round (R130). -/
def State.beatOf (s : State) (k : Nat) : Option Nat :=
  let co := s.core k
  let ids := (co.cmds.filter (s.inRound k)).map (·.id)
  match co.inBeat.filter ids.contains with
  | some i => some i
  | none => (ids.find? fun i => decide (co.beatTurn < i)).orElse fun _ => ids.head?

/-- The beat of a command is over: the next of the round has the next. -/
def Core.endBeat (c : Core) (id : Nat) : Core := { c with inBeat := none, beatTurn := id }

/-! ## A turn -/

/-- A turn ends within a command: what it has found is kept. Where it stopped for want of room in the beat, or an access must wait, the beat
is over. -/
def pauseCmd (k id : Nat) (e : Eng) (done : Bool) : State :=
  let (n, s) := e.s.newId
  let s := s.modCmd k id fun q => { q with
    log := q.log ++ e.made.reverse
    wrote := e.wrote
    gen := if e.made.any (fun d => !d.theParts.isEmpty) then n else q.gen
    beat := match done, e.pace with
      | false, some p => (p.rd, p.wr)
      | _, _ => (0, 0) }
  s.modCore k fun c => if done then c.endBeat id else { c with inBeat := some id }

/-- A command's work is over: it ends, or goes on with its next block. -/
def endWork (k : Nat) (q : Cmd) (h : Option Halt) (e : Eng) : State :=
  let s := (e.s.modCmd k q.id fun q => if Blk.kind q.blk = 7 ∨ Blk.kind q.blk = 8 then q.didBlock h e
    else { q.finish (e.result h) e.srcBytes e.dstBytes with wrote := e.wrote }).modCore k (·.endBeat q.id)
  match Blk.kind q.blk with
  | 7 => s.modCore k fun c => { c with decTurn := 80 + q.place + 1 }
  | 8 => s.modCore k fun c => { c with encTurn := q.place + 1 }
  | _ => s

/-- Up to `n` accesses of a command in its beat, past those that its log holds. -/
def State.runBeat (s : State) (k n : Nat) (q : Cmd) (m : Engine Unit) : State :=
  match m.run { s.eng k q with log := q.log, pace := some ⟨n, q.beat.1, q.beat.2⟩ } with
  | (.error .pause, e) => pauseCmd k q.id e (e.pace.any fun p => p.left != 0)
  | (.error .notYet, e) => pauseCmd k q.id e true
  | (.error h, e) => endWork k q (some h) e
  | (.ok _, e) => endWork k q none e

/-- A turn of the copy engine for a command: it starts one that waits, where its turn to start has come; or makes up to `n` accesses of
one that is active and whose beat it is (R130). -/
def State.beat (s : State) (k id n : Nat) : State :=
  match (s.core k).cmd id with
  | none => s
  | some q =>
    match q.work with
    | none => s
    | some m =>
      if s.canStart k q then
        if Blk.kind q.blk = 7 ∨ Blk.kind q.blk = 8 ∨ s.usesRegs k q m then s
        else (s.passTurn k q).modCmd k id fun q => { q with phase := .running }
      else if s.frozen k || s.beatOf k != some id || (q.log.isEmpty && q.phase == .running && s.usesRegs k q m) then s
      else s.runBeat k n q m

end Sys2Proof.Machine
end

