-- ==== Sys2Proof/Machine/ApCtl.lean ====
section
/-! DEFINITION. Branches and hardware loops of the AP (R209 to R211). -/

namespace Sys2Proof.Machine
open Sys2Proof

/-- Go to a target, which must be a multiple of 4 (R209). -/
def goTo (target : Nat) : Exec Next :=
  if target % 4 = 0 then pure (some target) else misaligned target

/-- The offset `pc + sext(IMM32)`, modulo 2^64 (R209). -/
def relTarget (pc : Nat) (off : BitVec 32) : Nat := (BitVec.ofNat 64 pc + off.signExtend 64).toNat

/-- A loop's start (R210): `n` iterations, its end relative to the group's offset. -/
def loopBody (n : Nat) (off : BitVec 32) : Exec Next := do
  let s ← get
  let e : Int := (s.cur.pc : Int) + off.toInt
  if e % 4 ≠ 0 ∨ e ≤ s.cur.pcn then illegal
  else if 4 ≤ s.me.apLoops.length then illegal
  else if n = 0 then pure (some e.toNat)
  else do
    set (s.modMe fun c => { c with apLoops := ⟨s.cur.pcn, e.toNat, n⟩ :: c.apLoops })
    pure none

/-- `BR` (R209). -/
def execBr (h : ApHdr) (off : BitVec 32) (s : State) : Out := apWord h false (goTo (relTarget s.cur.pc off)) s
/-- The body of JMPR and RET (R209). -/
def jumpReg (ra : BitVec 5) (off : BitVec 32) : Exec Next := do
  let a ← needA ra 1
  goTo (a.v + off.signExtend 64).toNat
/-- `JMPR` (R209). -/
def execJmpr (h : ApHdr) (ra : BitVec 5) (off : BitVec 32) (s : State) : Out := apWord h false (jumpReg ra off) s
/-- `CALL` (R209). -/
def execCall (h : ApHdr) (rd : BitVec 5) (off : BitVec 32) (s : State) : Out :=
  apWord h false (do
    writeA rd { v := BitVec.ofNat 64 s.cur.pcn }
    goTo (relTarget s.cur.pc off)) s
/-- `RET` (R209). -/
def execRet (h : ApHdr) (ra : BitVec 5) (s : State) : Out := apWord h false (jumpReg ra 0) s
/-- `LOOP` with its count in a register (R210). -/
def execLoop (h : ApHdr) (ra : BitVec 5) (off : BitVec 32) (s : State) : Out :=
  apWord h false (do
    let a ← needA ra 1
    loopBody a.v.toNat off) s
/-- `LOOP` with an immediate count (R210). -/
def execLoopImmediate (h : ApHdr) (off : BitVec 32) (limm : BitVec 16) (s : State) : Out :=
  apWord h false (loopBody limm.toNat off) s
/-- `LBRK` (R211). -/
def execLbrk (h : ApHdr) (s : State) : Out :=
  apWord h false (do
    let s ← get
    match s.me.apLoops with
    | [] => illegal
    | l :: ls => do
      set (s.modMe fun c => { c with apLoops := ls })
      pure (some l.fin)) s

end Sys2Proof.Machine
end

