-- ==== Sys2Proof/Machine/ApInt.lean ====
section
/-! DEFINITION. Integer, logic, move and select forms of the AP (R204 to R207). -/

namespace Sys2Proof.Machine
open Sys2Proof

/-- Quotients and remainders of IntDiv on 64 bits (R36). -/
def divS (a b : BitVec 64) : BitVec 64 := if b = 0 then -1 else a.sdiv b
def remS (a b : BitVec 64) : BitVec 64 := if b = 0 then a else a.srem b
def divN (a b : BitVec 64) : BitVec 64 := if b = 0 then -1 else a / b
def remN (a b : BitVec 64) : BitVec 64 := if b = 0 then a else a % b

/-- A two-operand form (R204): poison traps (R202), the taint is the or of the taints read (R203). -/
def binA (rd ra : BitVec 5) (o : Op2) (f : BitVec 64 → BitVec 64 → BitVec 64) : Exec Next := do
  let a ← needA ra 1
  let b ← needOp2 o
  writeA rd { v := f a.v b.v, taint := a.taint || b.taint }
  pure none

/-- A one-operand form (R205). -/
def unA (rd ra : BitVec 5) (f : BitVec 64 → BitVec 64) : Exec Next := do
  let a ← needA ra 1
  writeA rd { v := f a.v, taint := a.taint }
  pure none

/-! ## The results of Tables 09-2 and R205 -/

def aluAdd (a b : BitVec 64) : BitVec 64 := a + b
def aluSub (a b : BitVec 64) : BitVec 64 := a - b
def aluMul (a b : BitVec 64) : BitVec 64 := a * b
def aluMulh (a b : BitVec 64) : BitVec 64 := BitVec.ofInt 64 (a.toInt * b.toInt / 2 ^ 64)
def aluMulhn (a b : BitVec 64) : BitVec 64 := BitVec.ofNat 64 (a.toNat * b.toNat / 2 ^ 64)
def aluDiv (a b : BitVec 64) : BitVec 64 := divS a b
def aluDivn (a b : BitVec 64) : BitVec 64 := divN a b
def aluRem (a b : BitVec 64) : BitVec 64 := remS a b
def aluRemn (a b : BitVec 64) : BitVec 64 := remN a b
def aluAdds (a b : BitVec 64) : BitVec 64 := BitVec.ofInt 64 (satS 64 (a.toInt + b.toInt))
def aluSubs (a b : BitVec 64) : BitVec 64 := BitVec.ofInt 64 (satS 64 (a.toInt - b.toInt))
def aluAddsn (a b : BitVec 64) : BitVec 64 := BitVec.ofInt 64 (satN 64 ((a.toNat : Int) + b.toNat))
def aluSubsn (a b : BitVec 64) : BitVec 64 := BitVec.ofInt 64 (satN 64 ((a.toNat : Int) - b.toNat))
def aluAnd (a b : BitVec 64) : BitVec 64 := a &&& b
def aluOr (a b : BitVec 64) : BitVec 64 := a ||| b
def aluXor (a b : BitVec 64) : BitVec 64 := a ^^^ b
def aluAndn (a b : BitVec 64) : BitVec 64 := a &&& ~~~b
def aluOrn (a b : BitVec 64) : BitVec 64 := a ||| ~~~b
def aluShl (a b : BitVec 64) : BitVec 64 := a <<< (b.toNat % 64)
def aluShr (a b : BitVec 64) : BitVec 64 := a >>> (b.toNat % 64)
def aluSar (a b : BitVec 64) : BitVec 64 := a.sshiftRight (b.toNat % 64)
def aluRol (a b : BitVec 64) : BitVec 64 := a.rotateLeft (b.toNat % 64)
def aluRor (a b : BitVec 64) : BitVec 64 := a.rotateRight (b.toNat % 64)
def aluMin (a b : BitVec 64) : BitVec 64 := if a.slt b then a else b
def aluMax (a b : BitVec 64) : BitVec 64 := if a.slt b then b else a
def aluMinn (a b : BitVec 64) : BitVec 64 := if a.ult b then a else b
def aluMaxn (a b : BitVec 64) : BitVec 64 := if a.ult b then b else a
def aluAbs (a : BitVec 64) : BitVec 64 := if a.msb then -a else a
def aluClz (a : BitVec 64) : BitVec 64 := BitVec.ofNat 64 (clzNat 64 a.toNat)
def aluCtz (a : BitVec 64) : BitVec 64 := BitVec.ofNat 64 (ctzNat 64 a.toNat)
def aluPopc (a : BitVec 64) : BitVec 64 := BitVec.ofNat 64 (popcNat 64 a.toNat)
def aluBswap (a : BitVec 64) : BitVec 64 := BitVec.ofNat 64 (leNat (leBytes 8 a.toNat).reverse)

/-- The field forms (R206): `len` bits from `pos`. -/
def fieldN (a : BitVec 64) (pos len : Nat) : BitVec 64 := BitVec.ofNat 64 (bits a.toNat (pos + len - 1) pos)
def fieldS (a : BitVec 64) (pos len : Nat) : BitVec 64 := BitVec.ofInt 64 (sgn len (bits a.toNat (pos + len - 1) pos))
def insertField (t b : BitVec 64) (pos len : Nat) : BitVec 64 :=
  BitVec.ofNat 64 (setBits t.toNat (pos + len - 1) pos b.toNat)

/-! ## Meanings -/

/-- `ADD` (R204). -/
def execAdd (h : ApHdr) (rd ra : BitVec 5) (o : Op2) (s : State) : Out := apWord h false (binA rd ra o aluAdd) s
/-- `SUB` (R204). -/
def execSub (h : ApHdr) (rd ra : BitVec 5) (o : Op2) (s : State) : Out := apWord h false (binA rd ra o aluSub) s
/-- `MUL` (R204). -/
def execMul (h : ApHdr) (rd ra : BitVec 5) (o : Op2) (s : State) : Out := apWord h false (binA rd ra o aluMul) s
/-- `MULH` (R204). -/
def execMulh (h : ApHdr) (rd ra : BitVec 5) (o : Op2) (s : State) : Out := apWord h false (binA rd ra o aluMulh) s
/-- `MULHN` (R204). -/
def execMulhn (h : ApHdr) (rd ra : BitVec 5) (o : Op2) (s : State) : Out := apWord h false (binA rd ra o aluMulhn) s
/-- `DIV` (R204). -/
def execDiv (h : ApHdr) (rd ra : BitVec 5) (o : Op2) (s : State) : Out := apWord h false (binA rd ra o aluDiv) s
/-- `DIVN` (R204). -/
def execDivn (h : ApHdr) (rd ra : BitVec 5) (o : Op2) (s : State) : Out := apWord h false (binA rd ra o aluDivn) s
/-- `REM` (R204). -/
def execRem (h : ApHdr) (rd ra : BitVec 5) (o : Op2) (s : State) : Out := apWord h false (binA rd ra o aluRem) s
/-- `REMN` (R204). -/
def execRemn (h : ApHdr) (rd ra : BitVec 5) (o : Op2) (s : State) : Out := apWord h false (binA rd ra o aluRemn) s
/-- `ADDS` (R204). -/
def execAdds (h : ApHdr) (rd ra : BitVec 5) (o : Op2) (s : State) : Out := apWord h false (binA rd ra o aluAdds) s
/-- `SUBS` (R204). -/
def execSubs (h : ApHdr) (rd ra : BitVec 5) (o : Op2) (s : State) : Out := apWord h false (binA rd ra o aluSubs) s
/-- `ADDSN` (R204). -/
def execAddsn (h : ApHdr) (rd ra : BitVec 5) (o : Op2) (s : State) : Out := apWord h false (binA rd ra o aluAddsn) s
/-- `SUBSN` (R204). -/
def execSubsn (h : ApHdr) (rd ra : BitVec 5) (o : Op2) (s : State) : Out := apWord h false (binA rd ra o aluSubsn) s
/-- `AND` (R204). -/
def execAnd (h : ApHdr) (rd ra : BitVec 5) (o : Op2) (s : State) : Out := apWord h false (binA rd ra o aluAnd) s
/-- `OR` (R204). -/
def execOr (h : ApHdr) (rd ra : BitVec 5) (o : Op2) (s : State) : Out := apWord h false (binA rd ra o aluOr) s
/-- `XOR` (R204). -/
def execXor (h : ApHdr) (rd ra : BitVec 5) (o : Op2) (s : State) : Out := apWord h false (binA rd ra o aluXor) s
/-- `ANDN` (R204). -/
def execAndn (h : ApHdr) (rd ra : BitVec 5) (o : Op2) (s : State) : Out := apWord h false (binA rd ra o aluAndn) s
/-- `ORN` (R204). -/
def execOrn (h : ApHdr) (rd ra : BitVec 5) (o : Op2) (s : State) : Out := apWord h false (binA rd ra o aluOrn) s
/-- `SHL` (R204). -/
def execShl (h : ApHdr) (rd ra : BitVec 5) (o : Op2) (s : State) : Out := apWord h false (binA rd ra o aluShl) s
/-- `SHR` (R204). -/
def execShr (h : ApHdr) (rd ra : BitVec 5) (o : Op2) (s : State) : Out := apWord h false (binA rd ra o aluShr) s
/-- `SAR` (R204). -/
def execSar (h : ApHdr) (rd ra : BitVec 5) (o : Op2) (s : State) : Out := apWord h false (binA rd ra o aluSar) s
/-- `ROL` (R204). -/
def execRol (h : ApHdr) (rd ra : BitVec 5) (o : Op2) (s : State) : Out := apWord h false (binA rd ra o aluRol) s
/-- `ROR` (R204). -/
def execRor (h : ApHdr) (rd ra : BitVec 5) (o : Op2) (s : State) : Out := apWord h false (binA rd ra o aluRor) s
/-- `MIN` (R204). -/
def execMin (h : ApHdr) (rd ra : BitVec 5) (o : Op2) (s : State) : Out := apWord h false (binA rd ra o aluMin) s
/-- `MAX` (R204). -/
def execMax (h : ApHdr) (rd ra : BitVec 5) (o : Op2) (s : State) : Out := apWord h false (binA rd ra o aluMax) s
/-- `MINN` (R204). -/
def execMinn (h : ApHdr) (rd ra : BitVec 5) (o : Op2) (s : State) : Out := apWord h false (binA rd ra o aluMinn) s
/-- `MAXN` (R204). -/
def execMaxn (h : ApHdr) (rd ra : BitVec 5) (o : Op2) (s : State) : Out := apWord h false (binA rd ra o aluMaxn) s
/-- `ABS` (R205). -/
def execAbs (h : ApHdr) (rd ra : BitVec 5) (s : State) : Out := apWord h false (unA rd ra aluAbs) s
/-- `CLZ` (R205). -/
def execClz (h : ApHdr) (rd ra : BitVec 5) (s : State) : Out := apWord h false (unA rd ra aluClz) s
/-- `CTZ` (R205). -/
def execCtz (h : ApHdr) (rd ra : BitVec 5) (s : State) : Out := apWord h false (unA rd ra aluCtz) s
/-- `POPC` (R205). -/
def execPopc (h : ApHdr) (rd ra : BitVec 5) (s : State) : Out := apWord h false (unA rd ra aluPopc) s
/-- `BSWAP` (R205). -/
def execBswap (h : ApHdr) (rd ra : BitVec 5) (s : State) : Out := apWord h false (unA rd ra aluBswap) s
/-- `EXTS` (R206). -/
def execExts (h : ApHdr) (rd ra : BitVec 5) (pos lenm1 : BitVec 6) (s : State) : Out :=
  apWord h false (unA rd ra fun a => fieldS a pos.toNat (lenm1.toNat + 1)) s
/-- `EXTN` (R206). -/
def execExtn (h : ApHdr) (rd ra : BitVec 5) (pos lenm1 : BitVec 6) (s : State) : Out :=
  apWord h false (unA rd ra fun a => fieldN a pos.toNat (lenm1.toNat + 1)) s
/-- `INS` (R206). It computes on RD, as MOVHI does (log entry 130). -/
def execIns (h : ApHdr) (rd : BitVec 5) (o : Op2) (pos lenm1 : BitVec 6) (s : State) : Out :=
  apWord h false (do
    let t ← needA rd 0
    let b ← needOp2 o
    writeA rd { v := insertField t.v b.v pos.toNat (lenm1.toNat + 1), taint := t.taint || b.taint }
    pure none) s
/-- `MOVI` (R207). -/
def execMovi (h : ApHdr) (rd : BitVec 5) (imm : BitVec 32) (s : State) : Out :=
  apWord h false (do writeA rd { v := imm.signExtend 64 }; pure none) s
/-- `MOVHI` (R207): the low half of RD stays. It computes on RD, and so traps where that is poisoned (R202): the model's choice (log entry 130). -/
def execMovhi (h : ApHdr) (rd : BitVec 5) (imm : BitVec 32) (s : State) : Out :=
  apWord h false (do
    let a ← needA rd 0
    writeA rd { v := imm ++ a.v.extractLsb' 0 32, taint := a.taint }
    pure none) s

/-- The body of SEL (R207): the poison of the selected source only (R202), the taint of both. -/
def selBody (rd ra : BitVec 5) (o : Op2) (pa : BitVec 3) : Exec Next := do
  let p ← needP pa 15
  let a ← readA ra
  let b ← readOp2 o
  let r := if p then a else b
  writeA rd { r with taint := a.taint || b.taint }
  pure none
/-- `SEL` (R207). -/
def execSel (h : ApHdr) (rd ra : BitVec 5) (o : Op2) (pa : BitVec 3) (s : State) : Out :=
  apWord h false (selBody rd ra o pa) s
/-- `NOP` (R207): token masks alone. -/
def execNop (h : ApHdr) (s : State) : Out := apWord h false (pure none) s

end Sys2Proof.Machine
end

