-- ==== Sys2Proof/Machine/ApPred.lean ====
section
/-! DEFINITION. Predicate forms of the AP (R208). -/

namespace Sys2Proof.Machine
open Sys2Proof

/-- A form that sets a predicate from a register and an operand. -/
def predForm (pd : BitVec 3) (ra : BitVec 5) (o : Op2) (f : BitVec 64 → BitVec 64 → Bool) : Exec Next := do
  let a ← needA ra 1
  let b ← needOp2 o
  writeP pd { v := f a.v b.v }
  pure none

/-- A form that sets a predicate from two predicates. -/
def predLogic (pd pa pb : BitVec 3) (f : Bool → Bool → Bool) : Exec Next := do
  let a ← needP pa 15
  let b ← needP pb 15
  writeP pd { v := f a b }
  pure none

/-- `PCMP` (R208). -/
def execPcmp (h : ApHdr) (ra : BitVec 5) (o : Op2) (pd : BitVec 3) (cc : Cond) (s : State) : Out :=
  apWord h false (predForm pd ra o fun a b => condHolds cc a.toInt b.toInt) s
/-- `PCMPN` (R208). -/
def execPcmpn (h : ApHdr) (ra : BitVec 5) (o : Op2) (pd : BitVec 3) (cc : Cond) (s : State) : Out :=
  apWord h false (predForm pd ra o fun a b => condHolds cc a.toNat b.toNat) s
/-- `PAND` (R208). -/
def execPand (h : ApHdr) (pd pa pb : BitVec 3) (s : State) : Out := apWord h false (predLogic pd pa pb and) s
/-- `POR` (R208). -/
def execPor (h : ApHdr) (pd pa pb : BitVec 3) (s : State) : Out := apWord h false (predLogic pd pa pb or) s
/-- `PXOR` (R208). -/
def execPxor (h : ApHdr) (pd pa pb : BitVec 3) (s : State) : Out := apWord h false (predLogic pd pa pb xor) s
/-- `PNOT` (R208). -/
def execPnot (h : ApHdr) (pd pa : BitVec 3) (s : State) : Out := apWord h false (predLogic pd pa pa fun a _ => !a) s
/-- `PSET` (R208). -/
def execPset (h : ApHdr) (ra : BitVec 5) (pd : BitVec 3) (s : State) : Out :=
  apWord h false (predForm pd ra (.imm 0) fun a _ => a != 0) s
/-- `PTST` (R208). -/
def execPtst (h : ApHdr) (ra : BitVec 5) (o : Op2) (pd : BitVec 3) (s : State) : Out :=
  apWord h false (predForm pd ra o fun a b => a &&& b != 0) s

end Sys2Proof.Machine
end

