-- ==== Sys2Proof/Decode.lean ====
section
/-! DEFINITION. Decoding and encoding of operation words and of the groups of IMEM words that carry them
(08_instruction_encoding). -/

namespace Sys2Proof

/-! ## Fields of a word, given by their widths from the top -/

/-- The fields of `x`, from the top, of the widths `ws`. -/
def split : List Nat → Nat → List Nat
  | [], _ => []
  | w :: ws, x => (x / 2 ^ ws.sum) % 2 ^ w :: split ws x

/-- The word whose fields, from the top, of the widths `ws`, hold `vs`. -/
def join : List Nat → List Nat → Nat
  | _ :: ws, v :: vs => v * 2 ^ ws.sum + join ws vs
  | _, _ => 0

/-- Table 08-4, from bit 127 down. -/
def apWidths : List Nat := [8, 1, 3, 4, 5, 5, 5, 1, 32, 5, 5, 54]

/-- Table 08-5, from bit 127 down. -/
def xpWidths : List Nat := [8, 4, 12, 12, 12, 12, 4, 5, 5, 54]

/-- The fields of an AP operation word (Table 08-4). -/
structure ApF where
  opc : Nat
  psense : Nat
  pred : Nat
  rd : Nat
  ra : Nat
  rb : Nat
  bimm : Nat
  imm : Nat
  popm : Nat
  pushm : Nat
  lo : Nat
  deriving DecidableEq, Repr

/-- The fields of an XP operation word (Table 08-5). -/
structure XpF where
  opc : Nat
  lmask : Nat
  dst : Nat
  s1 : Nat
  s2 : Nat
  s3 : Nat
  popm : Nat
  pushm : Nat
  lo : Nat
  deriving DecidableEq, Repr

/-- The fields of an AP word; none when the reserved bits [115:112] are not zero. -/
def apFields (w : Nat) : Option ApF :=
  match split apWidths w with
  | [opc, ps, pr, 0, rd, ra, rb, bi, im, po, pu, lo] => some ⟨opc, ps, pr, rd, ra, rb, bi, im, po, pu, lo⟩
  | _ => none

/-- The fields of an XP word; none when the reserved bits [67:64] are not zero or LMASK is 8 to 15. -/
def xpFields (w : Nat) : Option XpF :=
  match split xpWidths w with
  | [opc, lm, d, a, b, c, 0, po, pu, lo] =>
    if lm < 8 then some ⟨opc, lm, d, a, b, c, po, pu, lo⟩ else none
  | _ => none

def ApF.h (f : ApF) : ApHdr :=
  ⟨f.psense == 1, BitVec.ofNat 3 f.pred, BitVec.ofNat 5 f.popm, BitVec.ofNat 5 f.pushm⟩
def ApF.rdv (f : ApF) : BitVec 5 := BitVec.ofNat 5 f.rd
def ApF.rav (f : ApF) : BitVec 5 := BitVec.ofNat 5 f.ra

/-- The second operand (R199); BIMM = 1 with RB not zero is refused (R191). -/
def ApF.op2 (f : ApF) : Option Op2 :=
  if f.bimm = 0 then some (.reg (BitVec.ofNat 5 f.rb))
  else if f.rb = 0 then some (.imm (BitVec.ofNat 32 f.imm)) else none

/-- An address or branch offset: IMM32 with RB and BIMM zero. -/
def ApF.off (f : ApF) : Option (BitVec 32) :=
  if f.rb = 0 ∧ f.bimm = 0 then some (BitVec.ofNat 32 f.imm) else none

/-- A data register RB and an offset IMM32, with BIMM zero. -/
def ApF.rbOff (f : ApF) : Option (BitVec 5 × BitVec 32) :=
  if f.bimm = 0 then some (BitVec.ofNat 5 f.rb, BitVec.ofNat 32 f.imm) else none

/-- IMM32 with BIMM one and RB zero (R207). -/
def ApF.immB (f : ApF) : Option (BitVec 32) :=
  if f.rb = 0 ∧ f.bimm = 1 then some (BitVec.ofNat 32 f.imm) else none

/-- RB alone. -/
def ApF.rbOnly (f : ApF) : Option (BitVec 5) :=
  if f.bimm = 0 ∧ f.imm = 0 then some (BitVec.ofNat 5 f.rb) else none

/-- RB, BIMM and IMM32 all zero. -/
abbrev ApF.noSnd (f : ApF) : Prop := f.rb = 0 ∧ f.bimm = 0 ∧ f.imm = 0

def XpF.h (f : XpF) : XpHdr := ⟨BitVec.ofNat 3 f.lmask, BitVec.ofNat 5 f.popm, BitVec.ofNat 5 f.pushm⟩

/-- A 12-bit operand field (R167). -/
def Opnd.ofCode (x : Nat) : Opnd :=
  match split [1, 1, 2, 8] x with
  | [r, t, l, i] => ⟨r == 1, t == 1, Level.ofCode l, BitVec.ofNat 8 i⟩
  | _ => ⟨false, false, .main, 0⟩

def Opnd.code (o : Opnd) : Nat := join [1, 1, 2, 8] [o.rot.toNat, o.trap.toNat, o.lvl.code, o.idx.toNat]

/-- A class VM destination: level main, bit [10] zero (R167, Table 10-1). -/
def VmOp.ofCode? (x : Nat) : Option VmOp :=
  match split [1, 1, 2, 8] x with
  | [r, 0, 0, i] => some ⟨r == 1, BitVec.ofNat 8 i⟩
  | _ => none

def VmOp.code (o : VmOp) : Nat := join [1, 1, 2, 8] [o.rot.toNat, 0, 0, o.idx.toNat]

/-- A class X, M or G register field: level 00b, bit [11] zero, an index below `lim`. Bit [10] is ignored in class X and M
(Table 10-1) and shall be zero in a class G destination (R293). -/
def regField (x lim : Nat) (dst : Bool) : Option Nat :=
  match split [1, 1, 2, 8] x with
  | [0, t, 0, i] => if i < lim ∧ (dst = true → t = 0) then some i else none
  | _ => none

/-- A class G source (R293). -/
def GSrc.ofCode? (x : Nat) : Option GSrc :=
  match split [1, 1, 2, 8] x with
  | [0, t, 0, i] => if i < 8 then some ⟨t == 1, BitVec.ofNat 3 i⟩ else none
  | _ => none

def GSrc.code (g : GSrc) : Nat := join [1, 1, 2, 8] [0, g.trap.toNat, 0, g.g.toNat]

/-- SRC2, XIMM and IMM of a scalar form (R266). -/
def xop2Fields (s2 lo : Nat) : Option XOp2 :=
  match split [21, 1, 32] lo with
  | [0, 0, _] => (regField s2 16 false).map fun x => .reg (BitVec.ofNat 4 x)
  | [0, 1, v] => if s2 = 0 then some (.imm (BitVec.ofNat 32 v)) else none
  | _ => none

def XOp2.s2 : XOp2 → Nat
  | .reg x => x.toNat
  | .imm _ => 0

def XOp2.lo : XOp2 → Nat
  | .reg _ => 0
  | .imm v => join [21, 1, 32] [0, 1, v.toNat]

/-- SRC1, COND and PORT of XBRC and XBEND (Table 10-9): the field that COND does not use is zero; of PORT this is the model's choice (log entry
132). -/
def BrTest.ofFields? (s1 cond port : Nat) : Option BrTest :=
  match cond with
  | 0 => if port = 0 then (regField s1 16 false).map fun x => .zero (BitVec.ofNat 4 x) else none
  | 1 => if port = 0 then (regField s1 16 false).map fun x => .nz (BitVec.ofNat 4 x) else none
  | 2 => if port = 0 then (regField s1 16 false).map fun x => .neg (BitVec.ofNat 4 x) else none
  | 3 => if port = 0 then (regField s1 16 false).map fun x => .nneg (BitVec.ofNat 4 x) else none
  | 4 => if s1 = 0 then some (.ended (BitVec.ofNat 4 port)) else none
  | 5 => if s1 = 0 then some (.nend (BitVec.ofNat 4 port)) else none
  | 6 => if s1 = 0 ∧ port = 0 then some .always else none
  | _ => none

def BrTest.s1 : BrTest → Nat
  | .zero x | .nz x | .neg x | .nneg x => x.toNat
  | _ => 0

def BrTest.cond : BrTest → Nat
  | .zero _ => 0 | .nz _ => 1 | .neg _ => 2 | .nneg _ => 3 | .ended _ => 4 | .nend _ => 5 | .always => 6

def BrTest.port : BrTest → Nat
  | .ended p | .nend p => p.toNat
  | _ => 0

/-- SRC2 and the fields ORI, BSX, MSK, GREG, MBASE and GTE of a weight load (Table 12-1). -/
def MwldOpts.ofFields? (s2 lo : Nat) : Option MwldOpts :=
  match split [11, 1, 1, 1, 3, 3, 6, 2, 1, 25] lo with
  | [0, ori, bsx, msk, 0, g, mb, 0, gte, 0] =>
    let band : Option (Option (BitVec 4)) :=
      if bsx = 1 then (regField s2 16 false).map fun x => some (BitVec.ofNat 4 x)
      else if s2 = 0 then some none else none
    let mask : Option (Option MaskUse) :=
      if msk = 1 then some (some ⟨BitVec.ofNat 3 g, gte == 1, BitVec.ofNat 6 mb⟩)
      else if g = 0 ∧ mb = 0 ∧ gte = 0 then some none else none
    band.bind fun b => mask.bind fun m => some ⟨ori == 1, b, m⟩
  | _ => none

def MwldOpts.s2 (w : MwldOpts) : Nat :=
  match w.band with
  | some x => x.toNat
  | none => 0

def MwldOpts.lo (w : MwldOpts) : Nat :=
  let m := w.mask.getD ⟨0, false, 0⟩
  join [11, 1, 1, 1, 3, 3, 6, 2, 1, 25]
    [0, w.rowMajor.toNat, w.band.isSome.toNat, w.mask.isSome.toNat, 0, m.g.toNat, m.mbase.toNat, 0, m.gte.toNat, 0]

/-! ## Parsing a word, form by form -/

/-- The fields of `NOP` (R207). -/
def parseNop (f : ApF) : Option Instr :=
  if f.rd = 0 ∧ f.ra = 0 ∧ f.noSnd then (if f.lo = 0 then some (.nop f.h) else none) else none
/-- The fields of `ADD` (R204). -/
def parseAdd (f : ApF) : Option Instr :=
  if f.lo = 0 then (f.op2).bind fun o => some (.add f.h f.rdv f.rav o) else none
/-- The fields of `SUB` (R204). -/
def parseSub (f : ApF) : Option Instr :=
  if f.lo = 0 then (f.op2).bind fun o => some (.sub f.h f.rdv f.rav o) else none
/-- The fields of `MUL` (R204). -/
def parseMul (f : ApF) : Option Instr :=
  if f.lo = 0 then (f.op2).bind fun o => some (.mul f.h f.rdv f.rav o) else none
/-- The fields of `MULH` (R204). -/
def parseMulh (f : ApF) : Option Instr :=
  if f.lo = 0 then (f.op2).bind fun o => some (.mulh f.h f.rdv f.rav o) else none
/-- The fields of `MULHN` (R204). -/
def parseMulhn (f : ApF) : Option Instr :=
  if f.lo = 0 then (f.op2).bind fun o => some (.mulhn f.h f.rdv f.rav o) else none
/-- The fields of `DIV` (R204). -/
def parseDiv (f : ApF) : Option Instr :=
  if f.lo = 0 then (f.op2).bind fun o => some (.div f.h f.rdv f.rav o) else none
/-- The fields of `DIVN` (R204). -/
def parseDivn (f : ApF) : Option Instr :=
  if f.lo = 0 then (f.op2).bind fun o => some (.divn f.h f.rdv f.rav o) else none
/-- The fields of `REM` (R204). -/
def parseRem (f : ApF) : Option Instr :=
  if f.lo = 0 then (f.op2).bind fun o => some (.rem f.h f.rdv f.rav o) else none
/-- The fields of `REMN` (R204). -/
def parseRemn (f : ApF) : Option Instr :=
  if f.lo = 0 then (f.op2).bind fun o => some (.remn f.h f.rdv f.rav o) else none
/-- The fields of `ADDS` (R204). -/
def parseAdds (f : ApF) : Option Instr :=
  if f.lo = 0 then (f.op2).bind fun o => some (.adds f.h f.rdv f.rav o) else none
/-- The fields of `SUBS` (R204). -/
def parseSubs (f : ApF) : Option Instr :=
  if f.lo = 0 then (f.op2).bind fun o => some (.subs f.h f.rdv f.rav o) else none
/-- The fields of `ADDSN` (R204). -/
def parseAddsn (f : ApF) : Option Instr :=
  if f.lo = 0 then (f.op2).bind fun o => some (.addsn f.h f.rdv f.rav o) else none
/-- The fields of `SUBSN` (R204). -/
def parseSubsn (f : ApF) : Option Instr :=
  if f.lo = 0 then (f.op2).bind fun o => some (.subsn f.h f.rdv f.rav o) else none
/-- The fields of `AND` (R204). -/
def parseAnd (f : ApF) : Option Instr :=
  if f.lo = 0 then (f.op2).bind fun o => some (.and f.h f.rdv f.rav o) else none
/-- The fields of `OR` (R204). -/
def parseOr (f : ApF) : Option Instr :=
  if f.lo = 0 then (f.op2).bind fun o => some (.or f.h f.rdv f.rav o) else none
/-- The fields of `XOR` (R204). -/
def parseXor (f : ApF) : Option Instr :=
  if f.lo = 0 then (f.op2).bind fun o => some (.xor f.h f.rdv f.rav o) else none
/-- The fields of `ANDN` (R204). -/
def parseAndn (f : ApF) : Option Instr :=
  if f.lo = 0 then (f.op2).bind fun o => some (.andn f.h f.rdv f.rav o) else none
/-- The fields of `ORN` (R204). -/
def parseOrn (f : ApF) : Option Instr :=
  if f.lo = 0 then (f.op2).bind fun o => some (.orn f.h f.rdv f.rav o) else none
/-- The fields of `SHL` (R204). -/
def parseShl (f : ApF) : Option Instr :=
  if f.lo = 0 then (f.op2).bind fun o => some (.shl f.h f.rdv f.rav o) else none
/-- The fields of `SHR` (R204). -/
def parseShr (f : ApF) : Option Instr :=
  if f.lo = 0 then (f.op2).bind fun o => some (.shr f.h f.rdv f.rav o) else none
/-- The fields of `SAR` (R204). -/
def parseSar (f : ApF) : Option Instr :=
  if f.lo = 0 then (f.op2).bind fun o => some (.sar f.h f.rdv f.rav o) else none
/-- The fields of `ROL` (R204). -/
def parseRol (f : ApF) : Option Instr :=
  if f.lo = 0 then (f.op2).bind fun o => some (.rol f.h f.rdv f.rav o) else none
/-- The fields of `ROR` (R204). -/
def parseRor (f : ApF) : Option Instr :=
  if f.lo = 0 then (f.op2).bind fun o => some (.ror f.h f.rdv f.rav o) else none
/-- The fields of `MIN` (R204). -/
def parseMin (f : ApF) : Option Instr :=
  if f.lo = 0 then (f.op2).bind fun o => some (.min f.h f.rdv f.rav o) else none
/-- The fields of `MAX` (R204). -/
def parseMax (f : ApF) : Option Instr :=
  if f.lo = 0 then (f.op2).bind fun o => some (.max f.h f.rdv f.rav o) else none
/-- The fields of `MINN` (R204). -/
def parseMinn (f : ApF) : Option Instr :=
  if f.lo = 0 then (f.op2).bind fun o => some (.minn f.h f.rdv f.rav o) else none
/-- The fields of `MAXN` (R204). -/
def parseMaxn (f : ApF) : Option Instr :=
  if f.lo = 0 then (f.op2).bind fun o => some (.maxn f.h f.rdv f.rav o) else none
/-- The fields of `ABS` (R205). -/
def parseAbs (f : ApF) : Option Instr :=
  if f.noSnd then (if f.lo = 0 then some (.abs f.h f.rdv f.rav) else none) else none
/-- The fields of `CLZ` (R205). -/
def parseClz (f : ApF) : Option Instr :=
  if f.noSnd then (if f.lo = 0 then some (.clz f.h f.rdv f.rav) else none) else none
/-- The fields of `CTZ` (R205). -/
def parseCtz (f : ApF) : Option Instr :=
  if f.noSnd then (if f.lo = 0 then some (.ctz f.h f.rdv f.rav) else none) else none
/-- The fields of `POPC` (R205). -/
def parsePopc (f : ApF) : Option Instr :=
  if f.noSnd then (if f.lo = 0 then some (.popc f.h f.rdv f.rav) else none) else none
/-- The fields of `BSWAP` (R205). -/
def parseBswap (f : ApF) : Option Instr :=
  if f.noSnd then (if f.lo = 0 then some (.bswap f.h f.rdv f.rav) else none) else none
/-- The fields of `EXTS` (R206). -/
def parseExts (f : ApF) : Option Instr :=
  if f.noSnd then (match split [18, 6, 6, 24] f.lo with
    | [0, pos, lenm1, 0] => some (.exts f.h f.rdv f.rav (BitVec.ofNat 6 pos) (BitVec.ofNat 6 lenm1))
    | _ => none) else none
/-- The fields of `EXTN` (R206). -/
def parseExtn (f : ApF) : Option Instr :=
  if f.noSnd then (match split [18, 6, 6, 24] f.lo with
    | [0, pos, lenm1, 0] => some (.extn f.h f.rdv f.rav (BitVec.ofNat 6 pos) (BitVec.ofNat 6 lenm1))
    | _ => none) else none
/-- The fields of `INS` (R206). -/
def parseIns (f : ApF) : Option Instr :=
  if f.ra = 0 then (match split [18, 6, 6, 24] f.lo with
    | [0, pos, lenm1, 0] => (f.op2).bind fun o => some (.ins f.h f.rdv o (BitVec.ofNat 6 pos) (BitVec.ofNat 6 lenm1))
    | _ => none) else none
/-- The fields of `MOVI` (R207). -/
def parseMovi (f : ApF) : Option Instr :=
  if f.ra = 0 then (if f.lo = 0 then (f.immB).bind fun imm => some (.movi f.h f.rdv imm) else none) else none
/-- The fields of `MOVHI` (R207). -/
def parseMovhi (f : ApF) : Option Instr :=
  if f.ra = 0 then (if f.lo = 0 then (f.immB).bind fun imm => some (.movhi f.h f.rdv imm) else none) else none
/-- The fields of `SEL` (R207). -/
def parseSel (f : ApF) : Option Instr :=
  match split [14, 3, 37] f.lo with
    | [0, pa, 0] => (f.op2).bind fun o => some (.sel f.h f.rdv f.rav o (BitVec.ofNat 3 pa))
    | _ => none
/-- The fields of `PCMP` (R208). -/
def parsePcmp (f : ApF) : Option Instr :=
  if f.rd = 0 then (match split [11, 3, 6, 3, 31] f.lo with
    | [0, pd, 0, cc, 0] => (f.op2).bind fun o => (Cond.ofCode? cc).bind fun cc' => some (.pcmp f.h f.rav o (BitVec.ofNat 3 pd) cc')
    | _ => none) else none
/-- The fields of `PCMPN` (R208). -/
def parsePcmpn (f : ApF) : Option Instr :=
  if f.rd = 0 then (match split [11, 3, 6, 3, 31] f.lo with
    | [0, pd, 0, cc, 0] => (f.op2).bind fun o => (Cond.ofCode? cc).bind fun cc' => some (.pcmpn f.h f.rav o (BitVec.ofNat 3 pd) cc')
    | _ => none) else none
/-- The fields of `PAND` (R208). -/
def parsePand (f : ApF) : Option Instr :=
  if f.rd = 0 ∧ f.ra = 0 ∧ f.noSnd then (match split [11, 3, 3, 3, 34] f.lo with
    | [0, pd, pa, pb, 0] => some (.pand f.h (BitVec.ofNat 3 pd) (BitVec.ofNat 3 pa) (BitVec.ofNat 3 pb))
    | _ => none) else none
/-- The fields of `POR` (R208). -/
def parsePor (f : ApF) : Option Instr :=
  if f.rd = 0 ∧ f.ra = 0 ∧ f.noSnd then (match split [11, 3, 3, 3, 34] f.lo with
    | [0, pd, pa, pb, 0] => some (.por f.h (BitVec.ofNat 3 pd) (BitVec.ofNat 3 pa) (BitVec.ofNat 3 pb))
    | _ => none) else none
/-- The fields of `PXOR` (R208). -/
def parsePxor (f : ApF) : Option Instr :=
  if f.rd = 0 ∧ f.ra = 0 ∧ f.noSnd then (match split [11, 3, 3, 3, 34] f.lo with
    | [0, pd, pa, pb, 0] => some (.pxor f.h (BitVec.ofNat 3 pd) (BitVec.ofNat 3 pa) (BitVec.ofNat 3 pb))
    | _ => none) else none
/-- The fields of `PNOT` (R208). -/
def parsePnot (f : ApF) : Option Instr :=
  if f.rd = 0 ∧ f.ra = 0 ∧ f.noSnd then (match split [11, 3, 3, 37] f.lo with
    | [0, pd, pa, 0] => some (.pnot f.h (BitVec.ofNat 3 pd) (BitVec.ofNat 3 pa))
    | _ => none) else none
/-- The fields of `PSET` (R208). -/
def parsePset (f : ApF) : Option Instr :=
  if f.rd = 0 ∧ f.noSnd then (match split [11, 3, 40] f.lo with
    | [0, pd, 0] => some (.pset f.h f.rav (BitVec.ofNat 3 pd))
    | _ => none) else none
/-- The fields of `PTST` (R208). -/
def parsePtst (f : ApF) : Option Instr :=
  if f.rd = 0 then (match split [11, 3, 40] f.lo with
    | [0, pd, 0] => (f.op2).bind fun o => some (.ptst f.h f.rav o (BitVec.ofNat 3 pd))
    | _ => none) else none
/-- The fields of `BR` (R209). -/
def parseBr (f : ApF) : Option Instr :=
  if f.rd = 0 ∧ f.ra = 0 then (if f.lo = 0 then (f.off).bind fun off => some (.br f.h off) else none) else none
/-- The fields of `JMPR` (R209). -/
def parseJmpr (f : ApF) : Option Instr :=
  if f.rd = 0 then (if f.lo = 0 then (f.off).bind fun off => some (.jmpr f.h f.rav off) else none) else none
/-- The fields of `CALL` (R209). -/
def parseCall (f : ApF) : Option Instr :=
  if f.ra = 0 then (if f.lo = 0 then (f.off).bind fun off => some (.call f.h f.rdv off) else none) else none
/-- The fields of `RET` (R209). -/
def parseRet (f : ApF) : Option Instr :=
  if f.rd = 0 ∧ f.noSnd then (if f.lo = 0 then some (.ret f.h f.rav) else none) else none
/-- The fields of `LOOP` (R210); LIMM is ignored (log entry 6). -/
def parseLoop (f : ApF) : Option Instr :=
  if f.rd = 0 then (match split [37, 1, 16] f.lo with
    | [0, 0, _] => (f.off).bind fun off => some (.loop f.h f.rav off)
    | _ => none) else none
/-- The fields of `LOOP_IMMEDIATE` (R210). -/
def parseLoopImmediate (f : ApF) : Option Instr :=
  if f.rd = 0 ∧ f.ra = 0 then (match split [37, 1, 16] f.lo with
    | [0, 1, limm] => (f.off).bind fun off => some (.loopImmediate f.h off (BitVec.ofNat 16 limm))
    | _ => none) else none
/-- The fields of `LBRK` (R211). -/
def parseLbrk (f : ApF) : Option Instr :=
  if f.rd = 0 ∧ f.ra = 0 ∧ f.noSnd then (if f.lo = 0 then some (.lbrk f.h) else none) else none
/-- The fields of `LD` (R213). -/
def parseLd (f : ApF) : Option Instr :=
  match split [4, 50] f.lo with
    | [ty, 0] => (f.off).bind fun off => (AccTy.ofCode? ty).bind fun ty' => some (.ld f.h f.rdv f.rav off ty')
    | _ => none
/-- The fields of `ST` (R213). -/
def parseSt (f : ApF) : Option Instr :=
  if f.rd = 0 then (match split [4, 50] f.lo with
    | [ty, 0] => (f.rbOff).bind fun q => (AccTy.ofCode? ty).bind fun ty' => some (.st f.h f.rav q.1 q.2 ty')
    | _ => none) else none
/-- The fields of `LDC` (R215). -/
def parseLdc (f : ApF) : Option Instr :=
  match split [4, 50] f.lo with
    | [ty, 0] => (f.off).bind fun off => (AccTy.ofCode? ty).bind fun ty' => some (.ldc f.h f.rdv f.rav off ty')
    | _ => none
/-- The fields of `LDACQ` (R216). -/
def parseLdacq (f : ApF) : Option Instr :=
  match split [4, 4, 3, 43] f.lo with
    | [ty, 0, sc, 0] => (f.off).bind fun off => (AccTy.ofCode? ty).bind fun ty' => (Scope.ofCode? sc).bind fun sc' => some (.ldacq f.h f.rdv f.rav off ty' sc')
    | _ => none
/-- The fields of `STREL` (R216). -/
def parseStrel (f : ApF) : Option Instr :=
  if f.rd = 0 then (match split [4, 4, 3, 43] f.lo with
    | [ty, 0, sc, 0] => (f.rbOff).bind fun q => (AccTy.ofCode? ty).bind fun ty' => (Scope.ofCode? sc).bind fun sc' => some (.strel f.h f.rav q.1 q.2 ty' sc')
    | _ => none) else none
/-- The fields of `LDS` (R214). -/
def parseLds (f : ApF) : Option Instr :=
  match split [4, 50] f.lo with
    | [ty, 0] => (f.off).bind fun off => (AccTy.ofCode? ty).bind fun ty' => some (.lds f.h f.rdv f.rav off ty')
    | _ => none
/-- The fields of `STS` (R214). -/
def parseSts (f : ApF) : Option Instr :=
  if f.rd = 0 then (match split [4, 50] f.lo with
    | [ty, 0] => (f.rbOff).bind fun q => (AccTy.ofCode? ty).bind fun ty' => some (.sts f.h f.rav q.1 q.2 ty')
    | _ => none) else none
/-- The fields of `ASWAP` (R218). -/
def parseAswap (f : ApF) : Option Instr :=
  match split [4, 50] f.lo with
    | [ty, 0] => (f.rbOff).bind fun q => (AccTy.ofCode? ty).bind fun ty' => some (.aswap f.h f.rdv f.rav q.1 q.2 ty')
    | _ => none
/-- The fields of `ACAS` (R219). -/
def parseAcas (f : ApF) : Option Instr :=
  match split [4, 7, 3, 40] f.lo with
    | [ty, 0, pd, 0] => (f.rbOff).bind fun q => (AccTy.ofCode? ty).bind fun ty' => some (.acas f.h f.rdv f.rav q.1 q.2 ty' (BitVec.ofNat 3 pd))
    | _ => none
/-- The fields of `AADD` (R218). -/
def parseAadd (f : ApF) : Option Instr :=
  match split [4, 50] f.lo with
    | [ty, 0] => (f.rbOff).bind fun q => (AccTy.ofCode? ty).bind fun ty' => some (.aadd f.h f.rdv f.rav q.1 q.2 ty')
    | _ => none
/-- The fields of `AAND` (R218). -/
def parseAand (f : ApF) : Option Instr :=
  match split [4, 50] f.lo with
    | [ty, 0] => (f.rbOff).bind fun q => (AccTy.ofCode? ty).bind fun ty' => some (.aand f.h f.rdv f.rav q.1 q.2 ty')
    | _ => none
/-- The fields of `AOR` (R218). -/
def parseAor (f : ApF) : Option Instr :=
  match split [4, 50] f.lo with
    | [ty, 0] => (f.rbOff).bind fun q => (AccTy.ofCode? ty).bind fun ty' => some (.aor f.h f.rdv f.rav q.1 q.2 ty')
    | _ => none
/-- The fields of `AXOR` (R218). -/
def parseAxor (f : ApF) : Option Instr :=
  match split [4, 50] f.lo with
    | [ty, 0] => (f.rbOff).bind fun q => (AccTy.ofCode? ty).bind fun ty' => some (.axor f.h f.rdv f.rav q.1 q.2 ty')
    | _ => none
/-- The fields of `AMIN` (R218). -/
def parseAmin (f : ApF) : Option Instr :=
  match split [4, 50] f.lo with
    | [ty, 0] => (f.rbOff).bind fun q => (AccTy.ofCode? ty).bind fun ty' => some (.amin f.h f.rdv f.rav q.1 q.2 ty')
    | _ => none
/-- The fields of `AMAX` (R218). -/
def parseAmax (f : ApF) : Option Instr :=
  match split [4, 50] f.lo with
    | [ty, 0] => (f.rbOff).bind fun q => (AccTy.ofCode? ty).bind fun ty' => some (.amax f.h f.rdv f.rav q.1 q.2 ty')
    | _ => none
/-- The fields of `AMINN` (R218). -/
def parseAminn (f : ApF) : Option Instr :=
  match split [4, 50] f.lo with
    | [ty, 0] => (f.rbOff).bind fun q => (AccTy.ofCode? ty).bind fun ty' => some (.aminn f.h f.rdv f.rav q.1 q.2 ty')
    | _ => none
/-- The fields of `AMAXN` (R218). -/
def parseAmaxn (f : ApF) : Option Instr :=
  match split [4, 50] f.lo with
    | [ty, 0] => (f.rbOff).bind fun q => (AccTy.ofCode? ty).bind fun ty' => some (.amaxn f.h f.rdv f.rav q.1 q.2 ty')
    | _ => none
/-- The fields of `AMINP` (R220). -/
def parseAminp (f : ApF) : Option Instr :=
  match split [11, 3, 40] f.lo with
    | [0, pd, 0] => (f.rbOff).bind fun q => some (.aminp f.h f.rdv f.rav q.1 q.2 (BitVec.ofNat 3 pd))
    | _ => none
/-- The fields of `FENCE_ACQ` (R222). -/
def parseFenceAcq (f : ApF) : Option Instr :=
  if f.rd = 0 ∧ f.ra = 0 ∧ f.noSnd then (match split [8, 3, 43] f.lo with
    | [0, sc, 0] => (Scope.ofCode? sc).bind fun sc' => some (.fenceAcq f.h sc')
    | _ => none) else none
/-- The fields of `FENCE_REL` (R222). -/
def parseFenceRel (f : ApF) : Option Instr :=
  if f.rd = 0 ∧ f.ra = 0 ∧ f.noSnd then (match split [8, 3, 43] f.lo with
    | [0, sc, 0] => (Scope.ofCode? sc).bind fun sc' => some (.fenceRel f.h sc')
    | _ => none) else none
/-- The fields of `FENCE_SC` (R222). -/
def parseFenceSc (f : ApF) : Option Instr :=
  if f.rd = 0 ∧ f.ra = 0 ∧ f.noSnd then (match split [8, 3, 43] f.lo with
    | [0, sc, 0] => (Scope.ofCode? sc).bind fun sc' => some (.fenceSc f.h sc')
    | _ => none) else none
/-- The fields of `SLB` (R223). -/
def parseSlb (f : ApF) : Option Instr :=
  match split [22, 32] f.lo with
    | [0, fboff] => (f.off).bind fun off => some (.slb f.h f.rdv f.rav off (BitVec.ofNat 32 fboff))
    | _ => none
/-- The fields of `SLC` (R226). -/
def parseSlc (f : ApF) : Option Instr :=
  if f.rd = 0 ∧ f.ra = 0 ∧ f.noSnd then (if f.lo = 0 then some (.slc f.h) else none) else none
/-- The fields of `SLX` (R227). -/
def parseSlx (f : ApF) : Option Instr :=
  if f.rd = 0 ∧ f.ra = 0 ∧ f.noSnd then (match split [46, 8] f.lo with
    | [0, xcode] => some (.slx f.h (BitVec.ofNat 8 xcode))
    | _ => none) else none
/-- The fields of `IFENCE` (R189). -/
def parseIfence (f : ApF) : Option Instr :=
  if f.rd = 0 ∧ f.ra = 0 ∧ f.noSnd then (if f.lo = 0 then some (.ifence f.h) else none) else none
/-- The fields of `SCFG` (R229). -/
def parseScfg (f : ApF) : Option Instr :=
  if f.rd = 0 ∧ f.ra = 0 then (match split [11, 4, 3, 36] f.lo with
    | [0, sp, word, 0] => (f.op2).bind fun o => some (.scfg f.h o (BitVec.ofNat 4 sp) (BitVec.ofNat 3 word))
    | _ => none) else none
/-- The fields of `SGO` (R231). -/
def parseSgo (f : ApF) : Option Instr :=
  if f.rd = 0 ∧ f.ra = 0 ∧ f.noSnd then (match split [11, 4, 39] f.lo with
    | [0, sp, 0] => some (.sgo f.h (BitVec.ofNat 4 sp))
    | _ => none) else none
/-- The fields of `SREW_START` (R232). -/
def parseSrewStart (f : ApF) : Option Instr :=
  if f.rd = 0 ∧ f.ra = 0 ∧ f.noSnd then (match split [11, 4, 3, 1, 35] f.lo with
    | [0, sp, 0, 0, 0] => some (.srewStart f.h (BitVec.ofNat 4 sp))
    | _ => none) else none
/-- The fields of `SREW_MARK` (R232). -/
def parseSrewMark (f : ApF) : Option Instr :=
  if f.rd = 0 ∧ f.ra = 0 ∧ f.noSnd then (match split [11, 4, 3, 1, 35] f.lo with
    | [0, sp, 0, 1, 0] => some (.srewMark f.h (BitVec.ofNat 4 sp))
    | _ => none) else none
/-- The fields of `SMARK` (R232). -/
def parseSmark (f : ApF) : Option Instr :=
  if f.rd = 0 ∧ f.ra = 0 ∧ f.noSnd then (match split [11, 4, 39] f.lo with
    | [0, sp, 0] => some (.smark f.h (BitVec.ofNat 4 sp))
    | _ => none) else none
/-- The fields of `SFORK` (R230). -/
def parseSfork (f : ApF) : Option Instr :=
  if f.rd = 0 ∧ f.noSnd then (match split [11, 4, 4, 4, 31] f.lo with
    | [0, sp, 0, pport, 0] => some (.sfork f.h f.rav (BitVec.ofNat 4 sp) (BitVec.ofNat 4 pport))
    | _ => none) else none
/-- The fields of `SEND` (R233). -/
def parseSend (f : ApF) : Option Instr :=
  if f.rd = 0 ∧ f.ra = 0 ∧ f.noSnd then (match split [11, 4, 39] f.lo with
    | [0, sp, 0] => some (.send f.h (BitVec.ofNat 4 sp))
    | _ => none) else none
/-- The fields of `SSAVE` (R234). -/
def parseSsave (f : ApF) : Option Instr :=
  if f.rd = 0 then (match split [11, 4, 39] f.lo with
    | [0, sp, 0] => (f.off).bind fun off => some (.ssave f.h f.rav off (BitVec.ofNat 4 sp))
    | _ => none) else none
/-- The fields of `SSAVEB` (R234). -/
def parseSsaveb (f : ApF) : Option Instr :=
  if f.rd = 0 then (match split [11, 4, 39] f.lo with
    | [0, sp, 0] => (f.off).bind fun off => some (.ssaveb f.h f.rav off (BitVec.ofNat 4 sp))
    | _ => none) else none
/-- The fields of `SRSTR` (R235). -/
def parseSrstr (f : ApF) : Option Instr :=
  if f.rd = 0 then (match split [11, 4, 39] f.lo with
    | [0, sp, 0] => (f.off).bind fun off => some (.srstr f.h f.rav off (BitVec.ofNat 4 sp))
    | _ => none) else none
/-- The fields of `SQRY` (R236). -/
def parseSqry (f : ApF) : Option Instr :=
  if f.ra = 0 ∧ f.noSnd then (match split [11, 4, 39] f.lo with
    | [0, sp, 0] => some (.sqry f.h f.rdv (BitVec.ofNat 4 sp))
    | _ => none) else none
/-- The fields of `SMASK` (R237). -/
def parseSmask (f : ApF) : Option Instr :=
  if f.rd = 0 ∧ f.ra = 0 ∧ f.noSnd then (match split [11, 4, 3, 6, 30] f.lo with
    | [0, sp, g, mbase, 0] => some (.smask f.h (BitVec.ofNat 4 sp) (BitVec.ofNat 3 g) (BitVec.ofNat 6 mbase))
    | _ => none) else none
/-- The fields of `GRD` (R238). -/
def parseGrd (f : ApF) : Option Instr :=
  if f.ra = 0 ∧ f.noSnd then (match split [15, 3, 36] f.lo with
    | [0, g, 0] => some (.grd f.h f.rdv (BitVec.ofNat 3 g))
    | _ => none) else none
/-- The fields of `CPY` (R315). -/
def parseCpy (f : ApF) : Option Instr :=
  if f.lo = 0 then (f.off).bind fun off => some (.cpy f.h f.rdv f.rav off) else none
/-- The fields of `CPYI` (R316). -/
def parseCpyi (f : ApF) : Option Instr :=
  if f.lo = 0 then (f.rbOff).bind fun q => some (.cpyi f.h f.rdv f.rav q.1 q.2) else none
/-- The fields of `WMRD` (R318). -/
def parseWmrd (f : ApF) : Option Instr :=
  if f.ra = 0 ∧ f.noSnd then (match split [11, 1, 2, 40] f.lo with
    | [0, nxt, chan, 0] => some (.wmrd f.h f.rdv (nxt == 1) (BitVec.ofNat 2 chan))
    | _ => none) else none
/-- The fields of `CPQ` (R319). -/
def parseCpq (f : ApF) : Option Instr :=
  if f.ra = 0 ∧ f.noSnd then (match split [12, 2, 40] f.lo with
    | [0, chan, 0] => some (.cpq f.h f.rdv (BitVec.ofNat 2 chan))
    | _ => none) else none
/-- The fields of `TWAIT` (R320). -/
def parseTwait (f : ApF) : Option Instr :=
  if f.ra = 0 then (match split [11, 1, 42] f.lo with
    | [0, all, 0] => (f.op2).bind fun o => some (.twait f.h f.rdv o (all == 1))
    | _ => none) else none
/-- The fields of `TFFR` (R321). -/
def parseTffr (f : ApF) : Option Instr :=
  if f.ra = 0 then (match split [11, 1, 42] f.lo with
    | [0, clr, 0] => (f.op2).bind fun o => some (.tffr f.h f.rdv o (clr == 1))
    | _ => none) else none
/-- The fields of `WAIT` (R323). -/
def parseWait (f : ApF) : Option Instr :=
  match split [11, 1, 2, 40] f.lo with
    | [0, all, ncm1, 0] => (f.rbOff).bind fun q => some (.wait f.h f.rdv f.rav q.1 q.2 (all == 1) (BitVec.ofNat 2 ncm1))
    | _ => none
/-- The fields of `BINIT` (R328). -/
def parseBinit (f : ApF) : Option Instr :=
  if f.rd = 0 then (if f.lo = 0 then (f.op2).bind fun o => some (.binit f.h f.rav o) else none) else none
/-- The fields of `BARR` (R329). -/
def parseBarr (f : ApF) : Option Instr :=
  if f.noSnd then (match split [8, 3, 43] f.lo with
    | [0, sc, 0] => (Scope.ofCode? sc).bind fun sc' => some (.barr f.h f.rdv f.rav sc')
    | _ => none) else none
/-- The fields of `BARRX` (R330). -/
def parseBarrx (f : ApF) : Option Instr :=
  if f.rd = 0 then (match split [8, 3, 43] f.lo with
    | [0, sc, 0] => (f.rbOnly).bind fun rb => (Scope.ofCode? sc).bind fun sc' => some (.barrx f.h f.rav rb sc')
    | _ => none) else none
/-- The fields of `BWAIT` (R331). -/
def parseBwait (f : ApF) : Option Instr :=
  if f.rd = 0 then (match split [8, 3, 43] f.lo with
    | [0, sc, 0] => (f.op2).bind fun o => (Scope.ofCode? sc).bind fun sc' => some (.bwait f.h f.rav o sc')
    | _ => none) else none
/-- The fields of `WLCFG` (R333). -/
def parseWlcfg (f : ApF) : Option Instr :=
  if f.rd = 0 then (if f.lo = 0 then (f.rbOnly).bind fun rb => some (.wlcfg f.h f.rav rb) else none) else none
/-- The fields of `WLPUSH` (R334). -/
def parseWlpush (f : ApF) : Option Instr :=
  if f.rd = 0 ∧ f.ra = 0 then (if f.lo = 0 then (f.op2).bind fun o => some (.wlpush f.h o) else none) else none
/-- The fields of `WLINS` (R334). -/
def parseWlins (f : ApF) : Option Instr :=
  if f.rd = 0 ∧ f.ra = 0 then (match split [11, 3, 40] f.lo with
    | [0, pd, 0] => (f.op2).bind fun o => some (.wlins f.h o (BitVec.ofNat 3 pd))
    | _ => none) else none
/-- The fields of `WLCLR` (R335). -/
def parseWlclr (f : ApF) : Option Instr :=
  if f.rd = 0 ∧ f.ra = 0 ∧ f.noSnd then (if f.lo = 0 then some (.wlclr f.h) else none) else none
/-- The fields of `WLCNT` (R335). -/
def parseWlcnt (f : ApF) : Option Instr :=
  if f.ra = 0 ∧ f.noSnd then (if f.lo = 0 then some (.wlcnt f.h f.rdv) else none) else none
/-- The fields of `CHLINK` (R338). -/
def parseChlink (f : ApF) : Option Instr :=
  if f.rd = 0 ∧ f.noSnd then (match split [12, 2, 40] f.lo with
    | [0, chan, 0] => some (.chlink f.h f.rav (BitVec.ofNat 2 chan))
    | _ => none) else none
/-- The fields of `CHKICK` (R338). -/
def parseChkick (f : ApF) : Option Instr :=
  if f.rd = 0 ∧ f.ra = 0 ∧ f.noSnd then (match split [8, 3, 1, 2, 40] f.lo with
    | [0, sc, 0, chan, 0] => (Scope.ofCode? sc).bind fun sc' => some (.chkick f.h sc' (BitVec.ofNat 2 chan))
    | _ => none) else none
/-- The fields of `CHQ` (R338). -/
def parseChq (f : ApF) : Option Instr :=
  if f.ra = 0 ∧ f.noSnd then (match split [12, 2, 40] f.lo with
    | [0, chan, 0] => some (.chq f.h f.rdv (BitVec.ofNat 2 chan))
    | _ => none) else none
/-- The fields of `JPOST` (R339). -/
def parseJpost (f : ApF) : Option Instr :=
  match split [8, 3, 43] f.lo with
    | [0, sc, 0] => (f.rbOff).bind fun q => (Scope.ofCode? sc).bind fun sc' => some (.jpost f.h f.rdv f.rav q.1 q.2 sc')
    | _ => none
/-- The fields of `FORK` (R340). -/
def parseFork (f : ApF) : Option Instr :=
  if f.rd = 0 then (match split [11, 1, 42] f.lo with
    | [0, 0, 0] => (f.off).bind fun off => some (.fork f.h f.rav off)
    | _ => none) else none
/-- The fields of `FORK_ENTRY` (R340). -/
def parseForkEntry (f : ApF) : Option Instr :=
  if f.rd = 0 ∧ f.ra = 0 ∧ f.noSnd then (match split [11, 1, 42] f.lo with
    | [0, 1, 0] => some (.forkEntry f.h)
    | _ => none) else none
/-- The fields of `RDV` (R341). -/
def parseRdv (f : ApF) : Option Instr :=
  if f.rd = 0 ∧ f.ra = 0 ∧ f.noSnd then (if f.lo = 0 then some (.rdv f.h) else none) else none
/-- The fields of `YIELD` (R344). -/
def parseYield (f : ApF) : Option Instr :=
  if f.rd = 0 ∧ f.ra = 0 ∧ f.noSnd then (if f.lo = 0 then some (.yield f.h) else none) else none
/-- The fields of `TRAP` (R345). -/
def parseTrap (f : ApF) : Option Instr :=
  if f.rd = 0 ∧ f.ra = 0 ∧ f.noSnd then (match split [38, 16] f.lo with
    | [0, code] => some (.trap f.h (BitVec.ofNat 16 code))
    | _ => none) else none
/-- The fields of `ERET` (R346). -/
def parseEret (f : ApF) : Option Instr :=
  if f.rd = 0 ∧ f.ra = 0 ∧ f.noSnd then (match split [12, 2, 40] f.lo with
    | [0, tctx, 0] => some (.eret f.h (BitVec.ofNat 2 tctx))
    | _ => none) else none
/-- The fields of `RDSR` (R347). -/
def parseRdsr (f : ApF) : Option Instr :=
  if f.ra = 0 ∧ f.noSnd then (match split [14, 8, 32] f.lo with
    | [0, srn, 0] => some (.rdsr f.h f.rdv (BitVec.ofNat 8 srn))
    | _ => none) else none
/-- The fields of `WRSR` (R347). -/
def parseWrsr (f : ApF) : Option Instr :=
  if f.rd = 0 ∧ f.noSnd then (match split [14, 8, 32] f.lo with
    | [0, srn, 0] => some (.wrsr f.h f.rav (BitVec.ofNat 8 srn))
    | _ => none) else none
/-- The fields of `GTCRD` (R348). -/
def parseGtcrd (f : ApF) : Option Instr :=
  if f.ra = 0 ∧ f.noSnd then (if f.lo = 0 then some (.gtcrd f.h f.rdv) else none) else none
/-- The fields of `AP_DONE` (R343). -/
def parseApDone (f : ApF) : Option Instr :=
  if f.rd = 0 ∧ f.ra = 0 ∧ f.noSnd then (if f.lo = 0 then some (.apDone f.h) else none) else none

/-- Table 08-8: the AP opcode map. -/
def parseAp (f : ApF) : Option Instr :=
  match f.opc with
  | 0x01 => parseNop f
  | 0x02 => parseAdd f
  | 0x03 => parseSub f
  | 0x04 => parseMul f
  | 0x05 => parseMulh f
  | 0x06 => parseMulhn f
  | 0x07 => parseDiv f
  | 0x08 => parseDivn f
  | 0x09 => parseRem f
  | 0x0A => parseRemn f
  | 0x0B => parseAdds f
  | 0x0C => parseSubs f
  | 0x0D => parseAddsn f
  | 0x0E => parseSubsn f
  | 0x10 => parseAnd f
  | 0x11 => parseOr f
  | 0x12 => parseXor f
  | 0x13 => parseAndn f
  | 0x14 => parseOrn f
  | 0x18 => parseShl f
  | 0x19 => parseShr f
  | 0x1A => parseSar f
  | 0x1B => parseRol f
  | 0x1C => parseRor f
  | 0x20 => parseMin f
  | 0x21 => parseMax f
  | 0x22 => parseMinn f
  | 0x23 => parseMaxn f
  | 0x24 => parseAbs f
  | 0x28 => parseClz f
  | 0x29 => parseCtz f
  | 0x2A => parsePopc f
  | 0x2B => parseBswap f
  | 0x30 => parseExts f
  | 0x31 => parseExtn f
  | 0x32 => parseIns f
  | 0x34 => parseMovi f
  | 0x35 => parseMovhi f
  | 0x38 => parseSel f
  | 0x70 => parsePcmp f
  | 0x71 => parsePcmpn f
  | 0x72 => parsePand f
  | 0x73 => parsePor f
  | 0x74 => parsePxor f
  | 0x75 => parsePnot f
  | 0x76 => parsePset f
  | 0x77 => parsePtst f
  | 0x60 => parseBr f
  | 0x61 => parseJmpr f
  | 0x62 => parseCall f
  | 0x63 => parseRet f
  | 0x64 => (parseLoop f).orElse fun _ => parseLoopImmediate f
  | 0x65 => parseLbrk f
  | 0x40 => parseLd f
  | 0x41 => parseSt f
  | 0x42 => parseLdc f
  | 0x43 => parseLdacq f
  | 0x44 => parseStrel f
  | 0x45 => parseLds f
  | 0x46 => parseSts f
  | 0x48 => parseAswap f
  | 0x49 => parseAcas f
  | 0x4A => parseAadd f
  | 0x4B => parseAand f
  | 0x4C => parseAor f
  | 0x4D => parseAxor f
  | 0x4E => parseAmin f
  | 0x4F => parseAmax f
  | 0x50 => parseAminn f
  | 0x51 => parseAmaxn f
  | 0x52 => parseAminp f
  | 0xC0 => parseFenceAcq f
  | 0xC1 => parseFenceRel f
  | 0xC2 => parseFenceSc f
  | 0xC4 => parseSlb f
  | 0xC5 => parseSlc f
  | 0xC6 => parseSlx f
  | 0xC8 => parseIfence f
  | 0x80 => parseScfg f
  | 0x81 => parseSgo f
  | 0x82 => (parseSrewStart f).orElse fun _ => parseSrewMark f
  | 0x83 => parseSmark f
  | 0x84 => parseSfork f
  | 0x85 => parseSend f
  | 0x86 => parseSsave f
  | 0x87 => parseSsaveb f
  | 0x88 => parseSrstr f
  | 0x89 => parseSqry f
  | 0x8A => parseSmask f
  | 0x8B => parseGrd f
  | 0xA0 => parseCpy f
  | 0xA1 => parseCpyi f
  | 0xA2 => parseWmrd f
  | 0xA3 => parseCpq f
  | 0xA4 => parseTwait f
  | 0xA5 => parseTffr f
  | 0xA8 => parseWait f
  | 0xAA => parseBinit f
  | 0xAB => parseBarr f
  | 0xAC => parseBarrx f
  | 0xAD => parseBwait f
  | 0xB0 => parseWlcfg f
  | 0xB1 => parseWlpush f
  | 0xB2 => parseWlins f
  | 0xB3 => parseWlclr f
  | 0xB4 => parseWlcnt f
  | 0xB8 => parseChlink f
  | 0xB9 => parseChkick f
  | 0xBA => parseChq f
  | 0xBB => parseJpost f
  | 0xE0 => (parseFork f).orElse fun _ => parseForkEntry f
  | 0xE1 => parseRdv f
  | 0xE2 => parseYield f
  | 0xE3 => parseTrap f
  | 0xE4 => parseEret f
  | 0xE5 => parseRdsr f
  | 0xE6 => parseWrsr f
  | 0xE7 => parseGtcrd f
  | 0xE8 => parseApDone f
  | _ => none

/-- The fields of `VADD` (R245). -/
def parseVadd (f : XpF) : Option Instr :=
  if f.s3 = 0 then (match split [4, 50] f.lo with
    | [ty, 0] => (Fmt.ofCode? ty).bind fun ty' => some (.vadd f.h (Opnd.ofCode f.dst) (Opnd.ofCode f.s1) (Opnd.ofCode f.s2) ty')
    | _ => none) else none
/-- The fields of `VSUB` (R245). -/
def parseVsub (f : XpF) : Option Instr :=
  if f.s3 = 0 then (match split [4, 50] f.lo with
    | [ty, 0] => (Fmt.ofCode? ty).bind fun ty' => some (.vsub f.h (Opnd.ofCode f.dst) (Opnd.ofCode f.s1) (Opnd.ofCode f.s2) ty')
    | _ => none) else none
/-- The fields of `VMUL` (R245). -/
def parseVmul (f : XpF) : Option Instr :=
  if f.s3 = 0 then (match split [4, 50] f.lo with
    | [ty, 0] => (Fmt.ofCode? ty).bind fun ty' => some (.vmul f.h (Opnd.ofCode f.dst) (Opnd.ofCode f.s1) (Opnd.ofCode f.s2) ty')
    | _ => none) else none
/-- The fields of `VMULH` (R245). -/
def parseVmulh (f : XpF) : Option Instr :=
  if f.s3 = 0 then (match split [4, 50] f.lo with
    | [ty, 0] => (Fmt.ofCode? ty).bind fun ty' => some (.vmulh f.h (Opnd.ofCode f.dst) (Opnd.ofCode f.s1) (Opnd.ofCode f.s2) ty')
    | _ => none) else none
/-- The fields of `VMULHN` (R245). -/
def parseVmulhn (f : XpF) : Option Instr :=
  if f.s3 = 0 then (match split [4, 50] f.lo with
    | [ty, 0] => (Fmt.ofCode? ty).bind fun ty' => some (.vmulhn f.h (Opnd.ofCode f.dst) (Opnd.ofCode f.s1) (Opnd.ofCode f.s2) ty')
    | _ => none) else none
/-- The fields of `VADDS` (R245). -/
def parseVadds (f : XpF) : Option Instr :=
  if f.s3 = 0 then (match split [4, 50] f.lo with
    | [ty, 0] => (Fmt.ofCode? ty).bind fun ty' => some (.vadds f.h (Opnd.ofCode f.dst) (Opnd.ofCode f.s1) (Opnd.ofCode f.s2) ty')
    | _ => none) else none
/-- The fields of `VSUBS` (R245). -/
def parseVsubs (f : XpF) : Option Instr :=
  if f.s3 = 0 then (match split [4, 50] f.lo with
    | [ty, 0] => (Fmt.ofCode? ty).bind fun ty' => some (.vsubs f.h (Opnd.ofCode f.dst) (Opnd.ofCode f.s1) (Opnd.ofCode f.s2) ty')
    | _ => none) else none
/-- The fields of `VADDSN` (R245). -/
def parseVaddsn (f : XpF) : Option Instr :=
  if f.s3 = 0 then (match split [4, 50] f.lo with
    | [ty, 0] => (Fmt.ofCode? ty).bind fun ty' => some (.vaddsn f.h (Opnd.ofCode f.dst) (Opnd.ofCode f.s1) (Opnd.ofCode f.s2) ty')
    | _ => none) else none
/-- The fields of `VSUBSN` (R245). -/
def parseVsubsn (f : XpF) : Option Instr :=
  if f.s3 = 0 then (match split [4, 50] f.lo with
    | [ty, 0] => (Fmt.ofCode? ty).bind fun ty' => some (.vsubsn f.h (Opnd.ofCode f.dst) (Opnd.ofCode f.s1) (Opnd.ofCode f.s2) ty')
    | _ => none) else none
/-- The fields of `VMAD` (R245). -/
def parseVmad (f : XpF) : Option Instr :=
  match split [4, 50] f.lo with
    | [ty, 0] => (Fmt.ofCode? ty).bind fun ty' => some (.vmad f.h (Opnd.ofCode f.dst) (Opnd.ofCode f.s1) (Opnd.ofCode f.s2) (Opnd.ofCode f.s3) ty')
    | _ => none
/-- The fields of `VABS` (R245). -/
def parseVabs (f : XpF) : Option Instr :=
  if f.s2 = 0 ∧ f.s3 = 0 then (match split [4, 50] f.lo with
    | [ty, 0] => (Fmt.ofCode? ty).bind fun ty' => some (.vabs f.h (Opnd.ofCode f.dst) (Opnd.ofCode f.s1) ty')
    | _ => none) else none
/-- The fields of `VAND` (R245). -/
def parseVand (f : XpF) : Option Instr :=
  if f.s3 = 0 then (match split [4, 50] f.lo with
    | [ty, 0] => (Fmt.ofCode? ty).bind fun ty' => some (.vand f.h (Opnd.ofCode f.dst) (Opnd.ofCode f.s1) (Opnd.ofCode f.s2) ty')
    | _ => none) else none
/-- The fields of `VOR` (R245). -/
def parseVor (f : XpF) : Option Instr :=
  if f.s3 = 0 then (match split [4, 50] f.lo with
    | [ty, 0] => (Fmt.ofCode? ty).bind fun ty' => some (.vor f.h (Opnd.ofCode f.dst) (Opnd.ofCode f.s1) (Opnd.ofCode f.s2) ty')
    | _ => none) else none
/-- The fields of `VXOR` (R245). -/
def parseVxor (f : XpF) : Option Instr :=
  if f.s3 = 0 then (match split [4, 50] f.lo with
    | [ty, 0] => (Fmt.ofCode? ty).bind fun ty' => some (.vxor f.h (Opnd.ofCode f.dst) (Opnd.ofCode f.s1) (Opnd.ofCode f.s2) ty')
    | _ => none) else none
/-- The fields of `VANDN` (R245). -/
def parseVandn (f : XpF) : Option Instr :=
  if f.s3 = 0 then (match split [4, 50] f.lo with
    | [ty, 0] => (Fmt.ofCode? ty).bind fun ty' => some (.vandn f.h (Opnd.ofCode f.dst) (Opnd.ofCode f.s1) (Opnd.ofCode f.s2) ty')
    | _ => none) else none
/-- The fields of `VSHL` (R245). -/
def parseVshl (f : XpF) : Option Instr :=
  if f.s3 = 0 then (match split [4, 50] f.lo with
    | [ty, 0] => (Fmt.ofCode? ty).bind fun ty' => some (.vshl f.h (Opnd.ofCode f.dst) (Opnd.ofCode f.s1) (Opnd.ofCode f.s2) ty')
    | _ => none) else none
/-- The fields of `VSHR` (R245). -/
def parseVshr (f : XpF) : Option Instr :=
  if f.s3 = 0 then (match split [4, 50] f.lo with
    | [ty, 0] => (Fmt.ofCode? ty).bind fun ty' => some (.vshr f.h (Opnd.ofCode f.dst) (Opnd.ofCode f.s1) (Opnd.ofCode f.s2) ty')
    | _ => none) else none
/-- The fields of `VSAR` (R245). -/
def parseVsar (f : XpF) : Option Instr :=
  if f.s3 = 0 then (match split [4, 50] f.lo with
    | [ty, 0] => (Fmt.ofCode? ty).bind fun ty' => some (.vsar f.h (Opnd.ofCode f.dst) (Opnd.ofCode f.s1) (Opnd.ofCode f.s2) ty')
    | _ => none) else none
/-- The fields of `VCLZ` (R245). -/
def parseVclz (f : XpF) : Option Instr :=
  if f.s2 = 0 ∧ f.s3 = 0 then (match split [4, 50] f.lo with
    | [ty, 0] => (Fmt.ofCode? ty).bind fun ty' => some (.vclz f.h (Opnd.ofCode f.dst) (Opnd.ofCode f.s1) ty')
    | _ => none) else none
/-- The fields of `VPOPC` (R245). -/
def parseVpopc (f : XpF) : Option Instr :=
  if f.s2 = 0 ∧ f.s3 = 0 then (match split [4, 50] f.lo with
    | [ty, 0] => (Fmt.ofCode? ty).bind fun ty' => some (.vpopc f.h (Opnd.ofCode f.dst) (Opnd.ofCode f.s1) ty')
    | _ => none) else none
/-- The fields of `VMIN` (R245). -/
def parseVmin (f : XpF) : Option Instr :=
  if f.s3 = 0 then (match split [4, 50] f.lo with
    | [ty, 0] => (Fmt.ofCode? ty).bind fun ty' => some (.vmin f.h (Opnd.ofCode f.dst) (Opnd.ofCode f.s1) (Opnd.ofCode f.s2) ty')
    | _ => none) else none
/-- The fields of `VMAX` (R245). -/
def parseVmax (f : XpF) : Option Instr :=
  if f.s3 = 0 then (match split [4, 50] f.lo with
    | [ty, 0] => (Fmt.ofCode? ty).bind fun ty' => some (.vmax f.h (Opnd.ofCode f.dst) (Opnd.ofCode f.s1) (Opnd.ofCode f.s2) ty')
    | _ => none) else none
/-- The fields of `VMINN` (R245). -/
def parseVminn (f : XpF) : Option Instr :=
  if f.s3 = 0 then (match split [4, 50] f.lo with
    | [ty, 0] => (Fmt.ofCode? ty).bind fun ty' => some (.vminn f.h (Opnd.ofCode f.dst) (Opnd.ofCode f.s1) (Opnd.ofCode f.s2) ty')
    | _ => none) else none
/-- The fields of `VMAXN` (R245). -/
def parseVmaxn (f : XpF) : Option Instr :=
  if f.s3 = 0 then (match split [4, 50] f.lo with
    | [ty, 0] => (Fmt.ofCode? ty).bind fun ty' => some (.vmaxn f.h (Opnd.ofCode f.dst) (Opnd.ofCode f.s1) (Opnd.ofCode f.s2) ty')
    | _ => none) else none
/-- The fields of `VCMP` (R246). -/
def parseVcmp (f : XpF) : Option Instr :=
  if f.s3 = 0 then (match split [4, 7, 3, 40] f.lo with
    | [12, 0, cc, 0] => (regField f.dst 8 false).bind fun d => (Cond.ofCode? cc).bind fun cc' => some (.vcmp f.h (BitVec.ofNat 3 d) (Opnd.ofCode f.s1) (Opnd.ofCode f.s2) cc')
    | _ => none) else none
/-- The fields of `VCMPN` (R246). -/
def parseVcmpn (f : XpF) : Option Instr :=
  if f.s3 = 0 then (match split [4, 7, 3, 40] f.lo with
    | [13, 0, cc, 0] => (regField f.dst 8 false).bind fun d => (Cond.ofCode? cc).bind fun cc' => some (.vcmpn f.h (BitVec.ofNat 3 d) (Opnd.ofCode f.s1) (Opnd.ofCode f.s2) cc')
    | _ => none) else none
/-- The fields of `VSEL` (R247). -/
def parseVsel (f : XpF) : Option Instr :=
  if f.lo = 0 then (regField f.s3 8 false).bind fun c => some (.vsel f.h (Opnd.ofCode f.dst) (Opnd.ofCode f.s1) (Opnd.ofCode f.s2) (BitVec.ofNat 3 c)) else none
/-- The fields of `VDOT4` (R248). -/
def parseVdot4 (f : XpF) : Option Instr :=
  if f.lo = 0 then some (.vdot4 f.h (Opnd.ofCode f.dst) (Opnd.ofCode f.s1) (Opnd.ofCode f.s2) (Opnd.ofCode f.s3)) else none
/-- The fields of `VDOT4N` (R248). -/
def parseVdot4n (f : XpF) : Option Instr :=
  if f.lo = 0 then some (.vdot4n f.h (Opnd.ofCode f.dst) (Opnd.ofCode f.s1) (Opnd.ofCode f.s2) (Opnd.ofCode f.s3)) else none
/-- The fields of `VDOT4S` (R248). -/
def parseVdot4s (f : XpF) : Option Instr :=
  if f.lo = 0 then some (.vdot4s f.h (Opnd.ofCode f.dst) (Opnd.ofCode f.s1) (Opnd.ofCode f.s2) (Opnd.ofCode f.s3)) else none
/-- The fields of `VDOT4SN` (R248). -/
def parseVdot4sn (f : XpF) : Option Instr :=
  if f.lo = 0 then some (.vdot4sn f.h (Opnd.ofCode f.dst) (Opnd.ofCode f.s1) (Opnd.ofCode f.s2) (Opnd.ofCode f.s3)) else none
/-- The fields of `VFADD` (R249). -/
def parseVfadd (f : XpF) : Option Instr :=
  if f.s3 = 0 then (if f.lo = 0 then some (.vfadd f.h (Opnd.ofCode f.dst) (Opnd.ofCode f.s1) (Opnd.ofCode f.s2)) else none) else none
/-- The fields of `VFADDZR` (R249). -/
def parseVfaddzr (f : XpF) : Option Instr :=
  if f.s3 = 0 then (if f.lo = 0 then some (.vfaddzr f.h (Opnd.ofCode f.dst) (Opnd.ofCode f.s1) (Opnd.ofCode f.s2)) else none) else none
/-- The fields of `VFADDFL` (R249). -/
def parseVfaddfl (f : XpF) : Option Instr :=
  if f.s3 = 0 then (if f.lo = 0 then some (.vfaddfl f.h (Opnd.ofCode f.dst) (Opnd.ofCode f.s1) (Opnd.ofCode f.s2)) else none) else none
/-- The fields of `VFADDCL` (R249). -/
def parseVfaddcl (f : XpF) : Option Instr :=
  if f.s3 = 0 then (if f.lo = 0 then some (.vfaddcl f.h (Opnd.ofCode f.dst) (Opnd.ofCode f.s1) (Opnd.ofCode f.s2)) else none) else none
/-- The fields of `VFSUB` (R249). -/
def parseVfsub (f : XpF) : Option Instr :=
  if f.s3 = 0 then (if f.lo = 0 then some (.vfsub f.h (Opnd.ofCode f.dst) (Opnd.ofCode f.s1) (Opnd.ofCode f.s2)) else none) else none
/-- The fields of `VFSUBZR` (R249). -/
def parseVfsubzr (f : XpF) : Option Instr :=
  if f.s3 = 0 then (if f.lo = 0 then some (.vfsubzr f.h (Opnd.ofCode f.dst) (Opnd.ofCode f.s1) (Opnd.ofCode f.s2)) else none) else none
/-- The fields of `VFSUBFL` (R249). -/
def parseVfsubfl (f : XpF) : Option Instr :=
  if f.s3 = 0 then (if f.lo = 0 then some (.vfsubfl f.h (Opnd.ofCode f.dst) (Opnd.ofCode f.s1) (Opnd.ofCode f.s2)) else none) else none
/-- The fields of `VFSUBCL` (R249). -/
def parseVfsubcl (f : XpF) : Option Instr :=
  if f.s3 = 0 then (if f.lo = 0 then some (.vfsubcl f.h (Opnd.ofCode f.dst) (Opnd.ofCode f.s1) (Opnd.ofCode f.s2)) else none) else none
/-- The fields of `VFMUL` (R249). -/
def parseVfmul (f : XpF) : Option Instr :=
  if f.s3 = 0 then (if f.lo = 0 then some (.vfmul f.h (Opnd.ofCode f.dst) (Opnd.ofCode f.s1) (Opnd.ofCode f.s2)) else none) else none
/-- The fields of `VFMULZR` (R249). -/
def parseVfmulzr (f : XpF) : Option Instr :=
  if f.s3 = 0 then (if f.lo = 0 then some (.vfmulzr f.h (Opnd.ofCode f.dst) (Opnd.ofCode f.s1) (Opnd.ofCode f.s2)) else none) else none
/-- The fields of `VFMULFL` (R249). -/
def parseVfmulfl (f : XpF) : Option Instr :=
  if f.s3 = 0 then (if f.lo = 0 then some (.vfmulfl f.h (Opnd.ofCode f.dst) (Opnd.ofCode f.s1) (Opnd.ofCode f.s2)) else none) else none
/-- The fields of `VFMULCL` (R249). -/
def parseVfmulcl (f : XpF) : Option Instr :=
  if f.s3 = 0 then (if f.lo = 0 then some (.vfmulcl f.h (Opnd.ofCode f.dst) (Opnd.ofCode f.s1) (Opnd.ofCode f.s2)) else none) else none
/-- The fields of `VFMA` (R249). -/
def parseVfma (f : XpF) : Option Instr :=
  if f.lo = 0 then some (.vfma f.h (Opnd.ofCode f.dst) (Opnd.ofCode f.s1) (Opnd.ofCode f.s2) (Opnd.ofCode f.s3)) else none
/-- The fields of `VFMAZR` (R249). -/
def parseVfmazr (f : XpF) : Option Instr :=
  if f.lo = 0 then some (.vfmazr f.h (Opnd.ofCode f.dst) (Opnd.ofCode f.s1) (Opnd.ofCode f.s2) (Opnd.ofCode f.s3)) else none
/-- The fields of `VFMAFL` (R249). -/
def parseVfmafl (f : XpF) : Option Instr :=
  if f.lo = 0 then some (.vfmafl f.h (Opnd.ofCode f.dst) (Opnd.ofCode f.s1) (Opnd.ofCode f.s2) (Opnd.ofCode f.s3)) else none
/-- The fields of `VFMACL` (R249). -/
def parseVfmacl (f : XpF) : Option Instr :=
  if f.lo = 0 then some (.vfmacl f.h (Opnd.ofCode f.dst) (Opnd.ofCode f.s1) (Opnd.ofCode f.s2) (Opnd.ofCode f.s3)) else none
/-- The fields of `VFDIV` (R249). -/
def parseVfdiv (f : XpF) : Option Instr :=
  if f.s3 = 0 then (if f.lo = 0 then some (.vfdiv f.h (Opnd.ofCode f.dst) (Opnd.ofCode f.s1) (Opnd.ofCode f.s2)) else none) else none
/-- The fields of `VFDIVZR` (R249). -/
def parseVfdivzr (f : XpF) : Option Instr :=
  if f.s3 = 0 then (if f.lo = 0 then some (.vfdivzr f.h (Opnd.ofCode f.dst) (Opnd.ofCode f.s1) (Opnd.ofCode f.s2)) else none) else none
/-- The fields of `VFSQRT` (R249). -/
def parseVfsqrt (f : XpF) : Option Instr :=
  if f.s2 = 0 ∧ f.s3 = 0 then (if f.lo = 0 then some (.vfsqrt f.h (Opnd.ofCode f.dst) (Opnd.ofCode f.s1)) else none) else none
/-- The fields of `VFMIN` (R249). -/
def parseVfmin (f : XpF) : Option Instr :=
  if f.s3 = 0 then (if f.lo = 0 then some (.vfmin f.h (Opnd.ofCode f.dst) (Opnd.ofCode f.s1) (Opnd.ofCode f.s2)) else none) else none
/-- The fields of `VFMAX` (R249). -/
def parseVfmax (f : XpF) : Option Instr :=
  if f.s3 = 0 then (if f.lo = 0 then some (.vfmax f.h (Opnd.ofCode f.dst) (Opnd.ofCode f.s1) (Opnd.ofCode f.s2)) else none) else none
/-- The fields of `VFABS` (R249). -/
def parseVfabs (f : XpF) : Option Instr :=
  if f.s2 = 0 ∧ f.s3 = 0 then (if f.lo = 0 then some (.vfabs f.h (Opnd.ofCode f.dst) (Opnd.ofCode f.s1)) else none) else none
/-- The fields of `VFNEG` (R249). -/
def parseVfneg (f : XpF) : Option Instr :=
  if f.s2 = 0 ∧ f.s3 = 0 then (if f.lo = 0 then some (.vfneg f.h (Opnd.ofCode f.dst) (Opnd.ofCode f.s1)) else none) else none
/-- The fields of `VFCMP` (R250). -/
def parseVfcmp (f : XpF) : Option Instr :=
  if f.s3 = 0 then (match split [11, 3, 40] f.lo with
    | [0, cc, 0] => (regField f.dst 8 false).bind fun d => (Cond.ofCode? cc).bind fun cc' => some (.vfcmp f.h (BitVec.ofNat 3 d) (Opnd.ofCode f.s1) (Opnd.ofCode f.s2) cc')
    | _ => none) else none
/-- The fields of `VFEXP` (R251). -/
def parseVfexp (f : XpF) : Option Instr :=
  if f.s2 = 0 ∧ f.s3 = 0 then (if f.lo = 0 then some (.vfexp f.h (Opnd.ofCode f.dst) (Opnd.ofCode f.s1)) else none) else none
/-- The fields of `VFSCALE` (R252). -/
def parseVfscale (f : XpF) : Option Instr :=
  if f.s3 = 0 then (if f.lo = 0 then some (.vfscale f.h (Opnd.ofCode f.dst) (Opnd.ofCode f.s1) (Opnd.ofCode f.s2)) else none) else none
/-- The fields of `VFRINT` (R253). -/
def parseVfrint (f : XpF) : Option Instr :=
  if f.s2 = 0 ∧ f.s3 = 0 then (if f.lo = 0 then some (.vfrint f.h (Opnd.ofCode f.dst) (Opnd.ofCode f.s1)) else none) else none
/-- The fields of `VFRINTFL` (R253). -/
def parseVfrintfl (f : XpF) : Option Instr :=
  if f.s2 = 0 ∧ f.s3 = 0 then (if f.lo = 0 then some (.vfrintfl f.h (Opnd.ofCode f.dst) (Opnd.ofCode f.s1)) else none) else none
/-- The fields of `VCVT` (R254). -/
def parseVcvt (f : XpF) : Option Instr :=
  if f.s2 = 0 ∧ f.s3 = 0 then (match split [4, 4, 3, 3, 40] f.lo with
    | [ty, ty2, 0, part, 0] => (Fmt.ofCode? ty).bind fun ty' => (Fmt.ofCode? ty2).bind fun ty2' => some (.vcvt f.h (Opnd.ofCode f.dst) (Opnd.ofCode f.s1) ty' ty2' (BitVec.ofNat 3 part))
    | _ => none) else none
/-- The fields of `VCVTZR` (R254). -/
def parseVcvtzr (f : XpF) : Option Instr :=
  if f.s2 = 0 ∧ f.s3 = 0 then (match split [4, 4, 3, 3, 40] f.lo with
    | [ty, ty2, 0, part, 0] => (Fmt.ofCode? ty).bind fun ty' => (Fmt.ofCode? ty2).bind fun ty2' => some (.vcvtzr f.h (Opnd.ofCode f.dst) (Opnd.ofCode f.s1) ty' ty2' (BitVec.ofNat 3 part))
    | _ => none) else none
/-- The fields of `VCVTFL` (R254). -/
def parseVcvtfl (f : XpF) : Option Instr :=
  if f.s2 = 0 ∧ f.s3 = 0 then (match split [4, 4, 3, 3, 40] f.lo with
    | [ty, ty2, 0, part, 0] => (Fmt.ofCode? ty).bind fun ty' => (Fmt.ofCode? ty2).bind fun ty2' => some (.vcvtfl f.h (Opnd.ofCode f.dst) (Opnd.ofCode f.s1) ty' ty2' (BitVec.ofNat 3 part))
    | _ => none) else none
/-- The fields of `VCVTCL` (R254). -/
def parseVcvtcl (f : XpF) : Option Instr :=
  if f.s2 = 0 ∧ f.s3 = 0 then (match split [4, 4, 3, 3, 40] f.lo with
    | [ty, ty2, 0, part, 0] => (Fmt.ofCode? ty).bind fun ty' => (Fmt.ofCode? ty2).bind fun ty2' => some (.vcvtcl f.h (Opnd.ofCode f.dst) (Opnd.ofCode f.s1) ty' ty2' (BitVec.ofNat 3 part))
    | _ => none) else none
/-- The fields of `VNARS` (R256). -/
def parseVnars (f : XpF) : Option Instr :=
  if f.s2 = 0 ∧ f.s3 = 0 then (match split [4, 4, 3, 3, 40] f.lo with
    | [ty, ty2, 0, part, 0] => (Fmt.ofCode? ty).bind fun ty' => (Fmt.ofCode? ty2).bind fun ty2' => some (.vnars f.h (Opnd.ofCode f.dst) (Opnd.ofCode f.s1) ty' ty2' (BitVec.ofNat 3 part))
    | _ => none) else none
/-- The fields of `VNARW` (R256). -/
def parseVnarw (f : XpF) : Option Instr :=
  if f.s2 = 0 ∧ f.s3 = 0 then (match split [4, 4, 3, 3, 40] f.lo with
    | [ty, ty2, 0, part, 0] => (Fmt.ofCode? ty).bind fun ty' => (Fmt.ofCode? ty2).bind fun ty2' => some (.vnarw f.h (Opnd.ofCode f.dst) (Opnd.ofCode f.s1) ty' ty2' (BitVec.ofNat 3 part))
    | _ => none) else none
/-- The fields of `VQBLK` (R257). -/
def parseVqblk (f : XpF) : Option Instr :=
  if f.s2 = 0 ∧ f.s3 = 0 then (match split [4, 50] f.lo with
    | [5, 0] => some (.vqblk f.h (Opnd.ofCode f.dst) (Opnd.ofCode f.s1))
    | _ => none) else none
/-- The fields of `VDQBLK` (R258). -/
def parseVdqblk (f : XpF) : Option Instr :=
  if f.s2 = 0 ∧ f.s3 = 0 then (match split [4, 4, 46] f.lo with
    | [0, 5, 0] => some (.vdqblk f.h (Opnd.ofCode f.dst) (Opnd.ofCode f.s1))
    | _ => none) else none
/-- The fields of `VREDF` (R259). -/
def parseVredf (f : XpF) : Option Instr :=
  if f.s2 = 0 ∧ f.s3 = 0 then (if f.lo = 0 then (regField f.dst 16 false).bind fun d => some (.vredf f.h (BitVec.ofNat 4 d) (Opnd.ofCode f.s1)) else none) else none
/-- The fields of `VREDFMAX` (R259). -/
def parseVredfmax (f : XpF) : Option Instr :=
  if f.s2 = 0 ∧ f.s3 = 0 then (if f.lo = 0 then (regField f.dst 16 false).bind fun d => some (.vredfmax f.h (BitVec.ofNat 4 d) (Opnd.ofCode f.s1)) else none) else none
/-- The fields of `VREDFMIN` (R259). -/
def parseVredfmin (f : XpF) : Option Instr :=
  if f.s2 = 0 ∧ f.s3 = 0 then (if f.lo = 0 then (regField f.dst 16 false).bind fun d => some (.vredfmin f.h (BitVec.ofNat 4 d) (Opnd.ofCode f.s1)) else none) else none
/-- The fields of `VRED` (R259). -/
def parseVred (f : XpF) : Option Instr :=
  if f.s2 = 0 ∧ f.s3 = 0 then (match split [4, 50] f.lo with
    | [ty, 0] => (regField f.dst 16 false).bind fun d => (Fmt.ofCode? ty).bind fun ty' => some (.vred f.h (BitVec.ofNat 4 d) (Opnd.ofCode f.s1) ty')
    | _ => none) else none
/-- The fields of `VREDS` (R259). -/
def parseVreds (f : XpF) : Option Instr :=
  if f.s2 = 0 ∧ f.s3 = 0 then (match split [4, 50] f.lo with
    | [ty, 0] => (regField f.dst 16 false).bind fun d => (Fmt.ofCode? ty).bind fun ty' => some (.vreds f.h (BitVec.ofNat 4 d) (Opnd.ofCode f.s1) ty')
    | _ => none) else none
/-- The fields of `VREDMAX` (R259). -/
def parseVredmax (f : XpF) : Option Instr :=
  if f.s2 = 0 ∧ f.s3 = 0 then (match split [4, 50] f.lo with
    | [ty, 0] => (regField f.dst 16 false).bind fun d => (Fmt.ofCode? ty).bind fun ty' => some (.vredmax f.h (BitVec.ofNat 4 d) (Opnd.ofCode f.s1) ty')
    | _ => none) else none
/-- The fields of `VREDMIN` (R259). -/
def parseVredmin (f : XpF) : Option Instr :=
  if f.s2 = 0 ∧ f.s3 = 0 then (match split [4, 50] f.lo with
    | [ty, 0] => (regField f.dst 16 false).bind fun d => (Fmt.ofCode? ty).bind fun ty' => some (.vredmin f.h (BitVec.ofNat 4 d) (Opnd.ofCode f.s1) ty')
    | _ => none) else none
/-- The fields of `VSCAN` (R260). -/
def parseVscan (f : XpF) : Option Instr :=
  if f.s3 = 0 then (match split [4, 7, 1, 42] f.lo with
    | [ty, 0, exc, 0] => (regField f.s2 16 false).bind fun b => (Fmt.ofCode? ty).bind fun ty' => some (.vscan f.h (Opnd.ofCode f.dst) (Opnd.ofCode f.s1) (BitVec.ofNat 4 b) ty' (exc == 1))
    | _ => none) else none
/-- The fields of `VBPFX` (R261). -/
def parseVbpfx (f : XpF) : Option Instr :=
  if f.s3 = 0 then (if f.lo = 0 then (regField f.s2 16 false).bind fun b => some (.vbpfx f.h (Opnd.ofCode f.dst) (Opnd.ofCode f.s1) (BitVec.ofNat 4 b)) else none) else none
/-- The fields of `VISECT` (R262). -/
def parseVisect (f : XpF) : Option Instr :=
  match split [11, 1, 2, 4, 36] f.lo with
    | [0, half, 0, xw, 0] => some (.visect f.h (Opnd.ofCode f.dst) (Opnd.ofCode f.s1) (Opnd.ofCode f.s2) (Opnd.ofCode f.s3) (half == 1) (BitVec.ofNat 4 xw))
    | _ => none
/-- The fields of `VCMPRS` (R263). -/
def parseVcmprs (f : XpF) : Option Instr :=
  if f.s2 = 0 ∧ f.s3 = 0 then (if f.lo = 0 then some (.vcmprs f.h (Opnd.ofCode f.dst) (Opnd.ofCode f.s1)) else none) else none
/-- The fields of `VEXPND` (R263). -/
def parseVexpnd (f : XpF) : Option Instr :=
  if f.s2 = 0 ∧ f.s3 = 0 then (if f.lo = 0 then some (.vexpnd f.h (Opnd.ofCode f.dst) (Opnd.ofCode f.s1)) else none) else none
/-- The fields of `VPERM` (R264). -/
def parseVperm (f : XpF) : Option Instr :=
  if f.s3 = 0 then (if f.lo = 0 then some (.vperm f.h (Opnd.ofCode f.dst) (Opnd.ofCode f.s1) (Opnd.ofCode f.s2)) else none) else none
/-- The fields of `VBCAST` (R264). -/
def parseVbcast (f : XpF) : Option Instr :=
  if f.s2 = 0 ∧ f.s3 = 0 then (match split [12, 6, 36] f.lo with
    | [0, lane, 0] => some (.vbcast f.h (Opnd.ofCode f.dst) (Opnd.ofCode f.s1) (BitVec.ofNat 6 lane))
    | _ => none) else none
/-- The fields of `VROTL` (R264). -/
def parseVrotl (f : XpF) : Option Instr :=
  if f.s2 = 0 ∧ f.s3 = 0 then (match split [12, 6, 36] f.lo with
    | [0, lane, 0] => some (.vrotl f.h (Opnd.ofCode f.dst) (Opnd.ofCode f.s1) (BitVec.ofNat 6 lane))
    | _ => none) else none
/-- The fields of `VSLIDE` (R264). -/
def parseVslide (f : XpF) : Option Instr :=
  if f.s3 = 0 then (match split [12, 6, 36] f.lo with
    | [0, lane, 0] => some (.vslide f.h (Opnd.ofCode f.dst) (Opnd.ofCode f.s1) (Opnd.ofCode f.s2) (BitVec.ofNat 6 lane))
    | _ => none) else none
/-- The fields of `VZIP` (R264). -/
def parseVzip (f : XpF) : Option Instr :=
  if f.s3 = 0 then (match split [11, 1, 42] f.lo with
    | [0, half, 0] => some (.vzip f.h (Opnd.ofCode f.dst) (Opnd.ofCode f.s1) (Opnd.ofCode f.s2) (half == 1))
    | _ => none) else none
/-- The fields of `VUNZIP` (R264). -/
def parseVunzip (f : XpF) : Option Instr :=
  if f.s3 = 0 then (match split [11, 1, 42] f.lo with
    | [0, half, 0] => some (.vunzip f.h (Opnd.ofCode f.dst) (Opnd.ofCode f.s1) (Opnd.ofCode f.s2) (half == 1))
    | _ => none) else none
/-- The fields of `VMOV` (R264). -/
def parseVmov (f : XpF) : Option Instr :=
  if f.s2 = 0 ∧ f.s3 = 0 then (if f.lo = 0 then some (.vmov f.h (Opnd.ofCode f.dst) (Opnd.ofCode f.s1)) else none) else none
/-- The fields of `VSPLAT` (R264). -/
def parseVsplat (f : XpF) : Option Instr :=
  if f.s2 = 0 ∧ f.s3 = 0 then (if f.lo = 0 then (regField f.s1 16 false).bind fun a => some (.vsplat f.h (Opnd.ofCode f.dst) (BitVec.ofNat 4 a)) else none) else none
/-- The fields of `MAND` (R265). -/
def parseMand (f : XpF) : Option Instr :=
  if f.s3 = 0 then (if f.lo = 0 then (regField f.dst 8 false).bind fun d => (regField f.s1 8 false).bind fun a => (regField f.s2 8 false).bind fun b => some (.mand f.h (BitVec.ofNat 3 d) (BitVec.ofNat 3 a) (BitVec.ofNat 3 b)) else none) else none
/-- The fields of `MOR` (R265). -/
def parseMor (f : XpF) : Option Instr :=
  if f.s3 = 0 then (if f.lo = 0 then (regField f.dst 8 false).bind fun d => (regField f.s1 8 false).bind fun a => (regField f.s2 8 false).bind fun b => some (.mor f.h (BitVec.ofNat 3 d) (BitVec.ofNat 3 a) (BitVec.ofNat 3 b)) else none) else none
/-- The fields of `MXOR` (R265). -/
def parseMxor (f : XpF) : Option Instr :=
  if f.s3 = 0 then (if f.lo = 0 then (regField f.dst 8 false).bind fun d => (regField f.s1 8 false).bind fun a => (regField f.s2 8 false).bind fun b => some (.mxor f.h (BitVec.ofNat 3 d) (BitVec.ofNat 3 a) (BitVec.ofNat 3 b)) else none) else none
/-- The fields of `MNOT` (R265). -/
def parseMnot (f : XpF) : Option Instr :=
  if f.s2 = 0 ∧ f.s3 = 0 then (if f.lo = 0 then (regField f.dst 8 false).bind fun d => (regField f.s1 8 false).bind fun a => some (.mnot f.h (BitVec.ofNat 3 d) (BitVec.ofNat 3 a)) else none) else none
/-- The fields of `MPOPC` (R265). -/
def parseMpopc (f : XpF) : Option Instr :=
  if f.s2 = 0 ∧ f.s3 = 0 then (if f.lo = 0 then (regField f.dst 16 false).bind fun d => (regField f.s1 8 false).bind fun a => some (.mpopc f.h (BitVec.ofNat 4 d) (BitVec.ofNat 3 a)) else none) else none
/-- The fields of `MSETX` (R265). -/
def parseMsetx (f : XpF) : Option Instr :=
  if f.s3 = 0 then (if f.lo = 0 then (regField f.dst 8 false).bind fun d => (regField f.s1 16 false).bind fun a => (regField f.s2 16 false).bind fun b => some (.msetx f.h (BitVec.ofNat 3 d) (BitVec.ofNat 4 a) (BitVec.ofNat 4 b)) else none) else none
/-- The fields of `MGETX` (R265). -/
def parseMgetx (f : XpF) : Option Instr :=
  if f.s2 = 0 ∧ f.s3 = 0 then (match split [11, 1, 42] f.lo with
    | [0, half, 0] => (regField f.dst 16 false).bind fun d => (regField f.s1 8 false).bind fun a => some (.mgetx f.h (BitVec.ofNat 4 d) (BitVec.ofNat 3 a) (half == 1))
    | _ => none) else none
/-- The fields of `XADD` (R266). -/
def parseXadd (f : XpF) : Option Instr :=
  if f.s3 = 0 then ((regField f.dst 16 false).bind fun d => (regField f.s1 16 false).bind fun a => (xop2Fields f.s2 f.lo).bind fun b => some (.xadd f.h (BitVec.ofNat 4 d) (BitVec.ofNat 4 a) b)) else none
/-- The fields of `XSUB` (R266). -/
def parseXsub (f : XpF) : Option Instr :=
  if f.s3 = 0 then ((regField f.dst 16 false).bind fun d => (regField f.s1 16 false).bind fun a => (xop2Fields f.s2 f.lo).bind fun b => some (.xsub f.h (BitVec.ofNat 4 d) (BitVec.ofNat 4 a) b)) else none
/-- The fields of `XMUL` (R266). -/
def parseXmul (f : XpF) : Option Instr :=
  if f.s3 = 0 then ((regField f.dst 16 false).bind fun d => (regField f.s1 16 false).bind fun a => (xop2Fields f.s2 f.lo).bind fun b => some (.xmul f.h (BitVec.ofNat 4 d) (BitVec.ofNat 4 a) b)) else none
/-- The fields of `XAND` (R266). -/
def parseXand (f : XpF) : Option Instr :=
  if f.s3 = 0 then ((regField f.dst 16 false).bind fun d => (regField f.s1 16 false).bind fun a => (xop2Fields f.s2 f.lo).bind fun b => some (.xand f.h (BitVec.ofNat 4 d) (BitVec.ofNat 4 a) b)) else none
/-- The fields of `XIOR` (R266). -/
def parseXior (f : XpF) : Option Instr :=
  if f.s3 = 0 then ((regField f.dst 16 false).bind fun d => (regField f.s1 16 false).bind fun a => (xop2Fields f.s2 f.lo).bind fun b => some (.xior f.h (BitVec.ofNat 4 d) (BitVec.ofNat 4 a) b)) else none
/-- The fields of `XXOR` (R266). -/
def parseXxor (f : XpF) : Option Instr :=
  if f.s3 = 0 then ((regField f.dst 16 false).bind fun d => (regField f.s1 16 false).bind fun a => (xop2Fields f.s2 f.lo).bind fun b => some (.xxor f.h (BitVec.ofNat 4 d) (BitVec.ofNat 4 a) b)) else none
/-- The fields of `XSHL` (R266). -/
def parseXshl (f : XpF) : Option Instr :=
  if f.s3 = 0 then ((regField f.dst 16 false).bind fun d => (regField f.s1 16 false).bind fun a => (xop2Fields f.s2 f.lo).bind fun b => some (.xshl f.h (BitVec.ofNat 4 d) (BitVec.ofNat 4 a) b)) else none
/-- The fields of `XSHR` (R266). -/
def parseXshr (f : XpF) : Option Instr :=
  if f.s3 = 0 then ((regField f.dst 16 false).bind fun d => (regField f.s1 16 false).bind fun a => (xop2Fields f.s2 f.lo).bind fun b => some (.xshr f.h (BitVec.ofNat 4 d) (BitVec.ofNat 4 a) b)) else none
/-- The fields of `XMOVI` (R266). -/
def parseXmovi (f : XpF) : Option Instr :=
  if f.s1 = 0 ∧ f.s2 = 0 ∧ f.s3 = 0 then (match split [22, 32] f.lo with
    | [0, imm] => (regField f.dst 16 false).bind fun d => some (.xmovi f.h (BitVec.ofNat 4 d) (BitVec.ofNat 32 imm))
    | _ => none) else none
/-- The fields of `XLANE` (R266). -/
def parseXlane (f : XpF) : Option Instr :=
  if f.s2 = 0 ∧ f.s3 = 0 then (match split [12, 6, 36] f.lo with
    | [0, lane, 0] => (regField f.dst 16 false).bind fun d => some (.xlane f.h (BitVec.ofNat 4 d) (Opnd.ofCode f.s1) (BitVec.ofNat 6 lane))
    | _ => none) else none
/-- The fields of `XLOOP` (R267). -/
def parseXloop (f : XpF) : Option Instr :=
  if f.dst = 0 ∧ f.s1 = 0 ∧ f.s2 = 0 ∧ f.s3 = 0 then (match split [11, 1, 4, 4, 16, 18] f.lo with
    | [0, 0, xc, nr, 0, fin] => some (.xloop f.h (BitVec.ofNat 4 xc) (BitVec.ofNat 4 nr) (BitVec.ofNat 18 fin))
    | _ => none) else none
/-- The fields of `XLOOP_IMMEDIATE` (R267). -/
def parseXloopImmediate (f : XpF) : Option Instr :=
  if f.dst = 0 ∧ f.s1 = 0 ∧ f.s2 = 0 ∧ f.s3 = 0 then (match split [11, 1, 4, 4, 16, 18] f.lo with
    | [0, 1, 0, nr, limm, fin] => some (.xloopImmediate f.h (BitVec.ofNat 4 nr) (BitVec.ofNat 16 limm) (BitVec.ofNat 18 fin))
    | _ => none) else none
/-- The fields of `XBR` (R269). -/
def parseXbr (f : XpF) : Option Instr :=
  if f.dst = 0 ∧ f.s1 = 0 ∧ f.s2 = 0 ∧ f.s3 = 0 then (match split [22, 32] f.lo with
    | [0, imm] => some (.xbr f.h (BitVec.ofNat 32 imm))
    | _ => none) else none
/-- The fields of `XBRC` (R269). -/
def parseXbrc (f : XpF) : Option Instr :=
  if f.s2 = 0 ∧ f.s3 = 0 ∧ f.dst = 0 then (match split [11, 3, 4, 4, 32] f.lo with
    | [0, cd, po, 0, imm] => (BrTest.ofFields? f.s1 cd po).bind fun t => some (.xbrc f.h t (BitVec.ofNat 32 imm))
    | _ => none) else none
/-- The fields of `XBEND` (R269). -/
def parseXbend (f : XpF) : Option Instr :=
  if f.s2 = 0 ∧ f.s3 = 0 ∧ f.dst = 0 then (match split [11, 3, 4, 36] f.lo with
    | [0, cd, po, 0] => (BrTest.ofFields? f.s1 cd po).bind fun t => some (.xbend f.h t)
    | _ => none) else none
/-- The fields of `VLD` (R271). -/
def parseVld (f : XpF) : Option Instr :=
  if f.s2 = 0 ∧ f.s3 = 0 then (match split [11, 2, 9, 32] f.lo with
    | [0, 0, 0, imm] => (VmOp.ofCode? f.dst).bind fun d => (regField f.s1 16 false).bind fun a => some (.vld f.h d (BitVec.ofNat 4 a) (BitVec.ofNat 32 imm))
    | _ => none) else none
/-- The fields of `VLD_INDEXED` (R271). -/
def parseVldIndexed (f : XpF) : Option Instr :=
  if f.s3 = 0 then (match split [4, 7, 2, 9, 32] f.lo with
    | [ty, 0, 1, 0, imm] => (VmOp.ofCode? f.dst).bind fun d => (regField f.s1 16 false).bind fun a => (Fmt.ofCode? ty).bind fun ty' => some (.vldIndexed f.h d (BitVec.ofNat 4 a) (Opnd.ofCode f.s2) ty' (BitVec.ofNat 32 imm))
    | _ => none) else none
/-- The fields of `VST` (R271). -/
def parseVst (f : XpF) : Option Instr :=
  if f.dst = 0 ∧ f.s3 = 0 then (match split [11, 2, 9, 32] f.lo with
    | [0, 0, 0, imm] => (regField f.s1 16 false).bind fun a => some (.vst f.h (BitVec.ofNat 4 a) (Opnd.ofCode f.s2) (BitVec.ofNat 32 imm))
    | _ => none) else none
/-- The fields of `VST_INDEXED` (R271). -/
def parseVstIndexed (f : XpF) : Option Instr :=
  if f.dst = 0 then (match split [4, 7, 2, 9, 32] f.lo with
    | [ty, 0, 1, 0, imm] => (regField f.s1 16 false).bind fun a => (Fmt.ofCode? ty).bind fun ty' => some (.vstIndexed f.h (BitVec.ofNat 4 a) (Opnd.ofCode f.s2) (Opnd.ofCode f.s3) ty' (BitVec.ofNat 32 imm))
    | _ => none) else none
/-- The fields of `MWLD_F4` (R295). -/
def parseMwldF4 (f : XpF) : Option Instr :=
  if f.dst = 0 ∧ f.s3 = 0 then ((MwldOpts.ofFields? f.s2 f.lo).bind fun w => some (.mwldF4 f.h (Opnd.ofCode f.s1) w)) else none
/-- The fields of `MWLD_E4M3` (R295). -/
def parseMwldE4m3 (f : XpF) : Option Instr :=
  if f.dst = 0 ∧ f.s3 = 0 then ((MwldOpts.ofFields? f.s2 f.lo).bind fun w => some (.mwldE4m3 f.h (Opnd.ofCode f.s1) w)) else none
/-- The fields of `MWLD_E5M2` (R295). -/
def parseMwldE5m2 (f : XpF) : Option Instr :=
  if f.dst = 0 ∧ f.s3 = 0 then ((MwldOpts.ofFields? f.s2 f.lo).bind fun w => some (.mwldE5m2 f.h (Opnd.ofCode f.s1) w)) else none
/-- The fields of `MWLD_BF16` (R295). -/
def parseMwldBf16 (f : XpF) : Option Instr :=
  if f.dst = 0 ∧ f.s3 = 0 then ((MwldOpts.ofFields? f.s2 f.lo).bind fun w => some (.mwldBf16 f.h (Opnd.ofCode f.s1) w)) else none
/-- The fields of `MWLD_F16` (R295). -/
def parseMwldF16 (f : XpF) : Option Instr :=
  if f.dst = 0 ∧ f.s3 = 0 then ((MwldOpts.ofFields? f.s2 f.lo).bind fun w => some (.mwldF16 f.h (Opnd.ofCode f.s1) w)) else none
/-- The fields of `MWLD_I8` (R295). -/
def parseMwldI8 (f : XpF) : Option Instr :=
  if f.dst = 0 ∧ f.s3 = 0 then ((MwldOpts.ofFields? f.s2 f.lo).bind fun w => some (.mwldI8 f.h (Opnd.ofCode f.s1) w)) else none
/-- The fields of `MWLD_N8` (R295). -/
def parseMwldN8 (f : XpF) : Option Instr :=
  if f.dst = 0 ∧ f.s3 = 0 then ((MwldOpts.ofFields? f.s2 f.lo).bind fun w => some (.mwldN8 f.h (Opnd.ofCode f.s1) w)) else none
/-- The fields of `MWLD_I4` (R295). -/
def parseMwldI4 (f : XpF) : Option Instr :=
  if f.dst = 0 ∧ f.s3 = 0 then ((MwldOpts.ofFields? f.s2 f.lo).bind fun w => some (.mwldI4 f.h (Opnd.ofCode f.s1) w)) else none
/-- The fields of `MWLD_N4` (R295). -/
noncomputable def parseMwldN4 (f : XpF) : Option Instr :=
  if f.dst = 0 ∧ f.s3 = 0 then ((MwldOpts.ofFields? f.s2 f.lo).bind fun w => some (.mwldN4 f.h (Opnd.ofCode f.s1) w)) else none
/-- The fields of `MWID` (R296). -/
noncomputable def parseMwid (f : XpF) : Option Instr :=
  if f.dst = 0 ∧ f.s1 = 0 ∧ f.s2 = 0 ∧ f.s3 = 0 then (match split [4, 50] f.lo with
    | [ty, 0] => (Fmt.ofCode? ty).bind fun ty' => some (.mwid f.h ty')
    | _ => none) else none
/-- The fields of `MWPERM` (R296). -/
noncomputable def parseMwperm (f : XpF) : Option Instr :=
  if f.dst = 0 ∧ f.s2 = 0 ∧ f.s3 = 0 then (match split [4, 50] f.lo with
    | [ty, 0] => (Fmt.ofCode? ty).bind fun ty' => some (.mwperm f.h (Opnd.ofCode f.s1) ty')
    | _ => none) else none
/-- The fields of `MWONES` (R296). -/
noncomputable def parseMwones (f : XpF) : Option Instr :=
  if f.dst = 0 ∧ f.s1 = 0 ∧ f.s2 = 0 ∧ f.s3 = 0 then (match split [4, 50] f.lo with
    | [ty, 0] => (Fmt.ofCode? ty).bind fun ty' => some (.mwones f.h ty')
    | _ => none) else none
/-- The fields of `MWSEL` (R296). -/
noncomputable def parseMwsel (f : XpF) : Option Instr :=
  if f.dst = 0 ∧ f.s2 = 0 ∧ f.s3 = 0 then (match split [4, 50] f.lo with
    | [ty, 0] => (regField f.s1 8 false).bind fun a => (Fmt.ofCode? ty).bind fun ty' => some (.mwsel f.h (BitVec.ofNat 3 a) ty')
    | _ => none) else none
/-- The fields of `MWSWP` (R297). -/
noncomputable def parseMwswp (f : XpF) : Option Instr :=
  if f.dst = 0 ∧ f.s1 = 0 ∧ f.s2 = 0 ∧ f.s3 = 0 then (if f.lo = 0 then some (.mwswp f.h) else none) else none
/-- The fields of `MMUL` (R298). -/
noncomputable def parseMmul (f : XpF) : Option Instr :=
  if f.dst = 0 ∧ f.s2 = 0 ∧ f.s3 = 0 then (match split [4, 7, 6, 37] f.lo with
    | [ty, 0, abase, 0] => (Fmt.ofCode? ty).bind fun ty' => some (.mmul f.h (Opnd.ofCode f.s1) ty' (BitVec.ofNat 6 abase))
    | _ => none) else none
/-- The fields of `MMULZ` (R298). -/
noncomputable def parseMmulz (f : XpF) : Option Instr :=
  if f.dst = 0 ∧ f.s2 = 0 ∧ f.s3 = 0 then (match split [4, 7, 6, 37] f.lo with
    | [ty, 0, abase, 0] => (Fmt.ofCode? ty).bind fun ty' => some (.mmulz f.h (Opnd.ofCode f.s1) ty' (BitVec.ofNat 6 abase))
    | _ => none) else none
/-- The fields of `MMULM` (R298). -/
noncomputable def parseMmulm (f : XpF) : Option Instr :=
  if f.dst = 0 ∧ f.s2 = 0 ∧ f.s3 = 0 then (match split [4, 7, 6, 3, 6, 2, 1, 25] f.lo with
    | [ty, 0, abase, g, mbase, ngm1, gte, 0] => (Fmt.ofCode? ty).bind fun ty' => some (.mmulm f.h (Opnd.ofCode f.s1) ty' (BitVec.ofNat 6 abase) (BitVec.ofNat 3 g) (BitVec.ofNat 6 mbase) (BitVec.ofNat 2 ngm1) (gte == 1))
    | _ => none) else none
/-- The fields of `MMULMZ` (R298). -/
noncomputable def parseMmulmz (f : XpF) : Option Instr :=
  if f.dst = 0 ∧ f.s2 = 0 ∧ f.s3 = 0 then (match split [4, 7, 6, 3, 6, 2, 1, 25] f.lo with
    | [ty, 0, abase, g, mbase, ngm1, gte, 0] => (Fmt.ofCode? ty).bind fun ty' => some (.mmulmz f.h (Opnd.ofCode f.s1) ty' (BitVec.ofNat 6 abase) (BitVec.ofNat 3 g) (BitVec.ofNat 6 mbase) (BitVec.ofNat 2 ngm1) (gte == 1))
    | _ => none) else none
/-- The fields of `MACRD` (R301). -/
noncomputable def parseMacrd (f : XpF) : Option Instr :=
  if f.s1 = 0 ∧ f.s2 = 0 ∧ f.s3 = 0 then (match split [11, 6, 9, 2, 1, 1, 24] f.lo with
    | [0, row, 0, cg, 0, clr, 0] => (VmOp.ofCode? f.dst).bind fun d => some (.macrd f.h d (BitVec.ofNat 6 row) (BitVec.ofNat 2 cg) (clr == 1))
    | _ => none) else none
/-- The fields of `MACRD_SCRATCHPAD` (R301). -/
noncomputable def parseMacrdScratchpad (f : XpF) : Option Instr :=
  if f.dst = 0 ∧ f.s2 = 0 ∧ f.s3 = 0 then (match split [11, 6, 9, 2, 1, 1, 24] f.lo with
    | [0, row, 0, cg, 1, clr, 0] => (regField f.s1 16 false).bind fun a => some (.macrdScratchpad f.h (BitVec.ofNat 4 a) (BitVec.ofNat 6 row) (BitVec.ofNat 2 cg) (clr == 1))
    | _ => none) else none
/-- The fields of `MACCLR` (R302). -/
noncomputable def parseMacclr (f : XpF) : Option Instr :=
  if f.dst = 0 ∧ f.s1 = 0 ∧ f.s2 = 0 ∧ f.s3 = 0 then (match split [11, 6, 13, 6, 18] f.lo with
    | [0, row, 0, nrm1, 0] => some (.macclr f.h (BitVec.ofNat 6 row) (BitVec.ofNat 6 nrm1))
    | _ => none) else none
/-- The fields of `MSCOUT_QUERY` (R303). -/
noncomputable def parseMscoutQuery (f : XpF) : Option Instr :=
  if f.dst = 0 ∧ f.s2 = 0 ∧ f.s3 = 0 then (match split [4, 7, 2, 5, 36] f.lo with
    | [5, 0, 0, eidx, 0] => some (.mscoutQuery f.h (Opnd.ofCode f.s1) (BitVec.ofNat 5 eidx))
    | _ => none) else none
/-- The fields of `MSCOUT_KEY` (R303). -/
noncomputable def parseMscoutKey (f : XpF) : Option Instr :=
  if f.dst = 0 ∧ f.s2 = 0 ∧ f.s3 = 0 then (match split [4, 7, 2, 5, 36] f.lo with
    | [5, 0, 1, eidx, 0] => some (.mscoutKey f.h (Opnd.ofCode f.s1) (BitVec.ofNat 5 eidx))
    | _ => none) else none
/-- The fields of `MSCOUT_SCORE` (R303). -/
noncomputable def parseMscoutScore (f : XpF) : Option Instr :=
  if f.s2 = 0 ∧ f.s3 = 0 then (match split [4, 7, 2, 5, 6, 6, 6, 1, 17] f.lo with
    | [5, 0, 2, eidx, nqm1, nkm1, slane, nsegm1, 0] => some (.mscoutScore f.h (Opnd.ofCode f.dst) (Opnd.ofCode f.s1) (BitVec.ofNat 5 eidx) (BitVec.ofNat 6 nqm1) (BitVec.ofNat 6 nkm1) (BitVec.ofNat 6 slane) (nsegm1 == 1))
    | _ => none) else none
/-- The fields of `MCAIRN` (R304). -/
noncomputable def parseMcairn (f : XpF) : Option Instr :=
  if f.lo = 0 then (regField f.dst 8 true).bind fun d => (regField f.s2 16 false).bind fun b => (regField f.s3 8 false).bind fun c => some (.mcairn f.h (BitVec.ofNat 3 d) (Opnd.ofCode f.s1) (BitVec.ofNat 4 b) (BitVec.ofNat 3 c)) else none
/-- The fields of `GAND` (R305). -/
noncomputable def parseGand (f : XpF) : Option Instr :=
  if f.s3 = 0 then (if f.lo = 0 then (regField f.dst 8 true).bind fun d => (GSrc.ofCode? f.s1).bind fun a => (GSrc.ofCode? f.s2).bind fun b => some (.gand f.h (BitVec.ofNat 3 d) a b) else none) else none
/-- The fields of `GOR` (R305). -/
noncomputable def parseGor (f : XpF) : Option Instr :=
  if f.s3 = 0 then (if f.lo = 0 then (regField f.dst 8 true).bind fun d => (GSrc.ofCode? f.s1).bind fun a => (GSrc.ofCode? f.s2).bind fun b => some (.gor f.h (BitVec.ofNat 3 d) a b) else none) else none
/-- The fields of `GANDN` (R305). -/
noncomputable def parseGandn (f : XpF) : Option Instr :=
  if f.s3 = 0 then (if f.lo = 0 then (regField f.dst 8 true).bind fun d => (GSrc.ofCode? f.s1).bind fun a => (GSrc.ofCode? f.s2).bind fun b => some (.gandn f.h (BitVec.ofNat 3 d) a b) else none) else none
/-- The fields of `GSET` (R305). -/
noncomputable def parseGset (f : XpF) : Option Instr :=
  if f.s2 = 0 ∧ f.s3 = 0 then (if f.lo = 0 then (regField f.dst 8 true).bind fun d => (regField f.s1 8 false).bind fun a => some (.gset f.h (BitVec.ofNat 3 d) (BitVec.ofNat 3 a)) else none) else none
/-- The fields of `GGET` (R305). -/
noncomputable def parseGget (f : XpF) : Option Instr :=
  if f.s2 = 0 ∧ f.s3 = 0 then (if f.lo = 0 then (regField f.dst 8 false).bind fun d => (GSrc.ofCode? f.s1).bind fun a => some (.gget f.h (BitVec.ofNat 3 d) a) else none) else none
/-- The fields of `XP_RDV` (R341). -/
noncomputable def parseXpRdv (f : XpF) : Option Instr :=
  if f.dst = 0 ∧ f.s1 = 0 ∧ f.s2 = 0 ∧ f.s3 = 0 then (if f.lo = 0 then some (.xpRdv f.h) else none) else none
/-- The fields of `XP_WAIT` (R326). -/
noncomputable def parseXpWait (f : XpF) : Option Instr :=
  if f.s3 = 0 then (match split [11, 1, 2, 8, 32] f.lo with
    | [0, all, ncm1, 0, imm] => (regField f.dst 16 false).bind fun d => (regField f.s1 16 false).bind fun a => (regField f.s2 16 false).bind fun b => some (.xpWait f.h (BitVec.ofNat 4 d) (BitVec.ofNat 4 a) (BitVec.ofNat 4 b) (all == 1) (BitVec.ofNat 2 ncm1) (BitVec.ofNat 32 imm))
    | _ => none) else none
/-- The fields of `WLPOPV` (R336). -/
noncomputable def parseWlpopv (f : XpF) : Option Instr :=
  if f.s1 = 0 ∧ f.s2 = 0 ∧ f.s3 = 0 then (match split [14, 4, 36] f.lo with
    | [0, xn, 0] => (VmOp.ofCode? f.dst).bind fun d => some (.wlpopv f.h d (BitVec.ofNat 4 xn))
    | _ => none) else none
/-- The fields of `XP_IFENCE` (R189). -/
noncomputable def parseXpIfence (f : XpF) : Option Instr :=
  if f.dst = 0 ∧ f.s1 = 0 ∧ f.s2 = 0 ∧ f.s3 = 0 then (if f.lo = 0 then some (.xpIfence f.h) else none) else none
/-- The fields of `XP_RDSR` (R347). -/
noncomputable def parseXpRdsr (f : XpF) : Option Instr :=
  if f.s1 = 0 ∧ f.s2 = 0 ∧ f.s3 = 0 then (match split [11, 1, 2, 8, 32] f.lo with
    | [0, half, 0, srn, 0] => (regField f.dst 16 false).bind fun d => some (.xpRdsr f.h (BitVec.ofNat 4 d) (half == 1) (BitVec.ofNat 8 srn))
    | _ => none) else none
/-- The fields of `XP_WRSR` (R347). -/
noncomputable def parseXpWrsr (f : XpF) : Option Instr :=
  if f.dst = 0 ∧ f.s2 = 0 ∧ f.s3 = 0 then (match split [14, 8, 32] f.lo with
    | [0, srn, 0] => (regField f.s1 16 false).bind fun a => some (.xpWrsr f.h (BitVec.ofNat 4 a) (BitVec.ofNat 8 srn))
    | _ => none) else none
/-- The fields of `XP_YIELD` (R344). -/
noncomputable def parseXpYield (f : XpF) : Option Instr :=
  if f.dst = 0 ∧ f.s1 = 0 ∧ f.s2 = 0 ∧ f.s3 = 0 then (if f.lo = 0 then some (.xpYield f.h) else none) else none
/-- The fields of `XP_TRAP` (R345). -/
noncomputable def parseXpTrap (f : XpF) : Option Instr :=
  if f.dst = 0 ∧ f.s1 = 0 ∧ f.s2 = 0 ∧ f.s3 = 0 then (match split [38, 16] f.lo with
    | [0, code] => some (.xpTrap f.h (BitVec.ofNat 16 code))
    | _ => none) else none
/-- The fields of `XP_DONE` (R342). -/
noncomputable def parseXpDone (f : XpF) : Option Instr :=
  if f.dst = 0 ∧ f.s1 = 0 ∧ f.s2 = 0 ∧ f.s3 = 0 then (if f.lo = 0 then some (.xpDone f.h) else none) else none
/-- The fields of `XP_NOP` (R314). -/
noncomputable def parseXpNop (f : XpF) : Option Instr :=
  if f.dst = 0 ∧ f.s1 = 0 ∧ f.s2 = 0 ∧ f.s3 = 0 then (if f.lo = 0 then some (.xpNop f.h) else none) else none
/-- The fields of `XP_FENCE_ACQ` (R349). -/
noncomputable def parseXpFenceAcq (f : XpF) : Option Instr :=
  if f.dst = 0 ∧ f.s1 = 0 ∧ f.s2 = 0 ∧ f.s3 = 0 then (match split [8, 3, 43] f.lo with
    | [0, sc, 0] => (Scope.ofCode? sc).bind fun sc' => some (.xpFenceAcq f.h sc')
    | _ => none) else none
/-- The fields of `XP_FENCE_REL` (R349). -/
noncomputable def parseXpFenceRel (f : XpF) : Option Instr :=
  if f.dst = 0 ∧ f.s1 = 0 ∧ f.s2 = 0 ∧ f.s3 = 0 then (match split [8, 3, 43] f.lo with
    | [0, sc, 0] => (Scope.ofCode? sc).bind fun sc' => some (.xpFenceRel f.h sc')
    | _ => none) else none
/-- The fields of `XP_FENCE_SC` (R349). -/
noncomputable def parseXpFenceSc (f : XpF) : Option Instr :=
  if f.dst = 0 ∧ f.s1 = 0 ∧ f.s2 = 0 ∧ f.s3 = 0 then (match split [8, 3, 43] f.lo with
    | [0, sc, 0] => (Scope.ofCode? sc).bind fun sc' => some (.xpFenceSc f.h sc')
    | _ => none) else none

/-- Table 08-9: the XP opcode map. -/
noncomputable def parseXp (f : XpF) : Option Instr :=
  match f.opc with
  | 0x01 => parseVadd f
  | 0x02 => parseVsub f
  | 0x03 => parseVmul f
  | 0x04 => parseVmulh f
  | 0x05 => parseVmulhn f
  | 0x06 => parseVadds f
  | 0x07 => parseVsubs f
  | 0x08 => parseVaddsn f
  | 0x09 => parseVsubsn f
  | 0x0A => parseVmad f
  | 0x0C => parseVabs f
  | 0x10 => parseVand f
  | 0x11 => parseVor f
  | 0x12 => parseVxor f
  | 0x13 => parseVandn f
  | 0x14 => parseVshl f
  | 0x15 => parseVshr f
  | 0x16 => parseVsar f
  | 0x18 => parseVclz f
  | 0x19 => parseVpopc f
  | 0x20 => parseVmin f
  | 0x21 => parseVmax f
  | 0x22 => parseVminn f
  | 0x23 => parseVmaxn f
  | 0x24 => parseVcmp f
  | 0x25 => parseVcmpn f
  | 0x26 => parseVsel f
  | 0x28 => parseVdot4 f
  | 0x29 => parseVdot4n f
  | 0x2A => parseVdot4s f
  | 0x2B => parseVdot4sn f
  | 0x40 => parseVfadd f
  | 0x41 => parseVfaddzr f
  | 0x42 => parseVfaddfl f
  | 0x43 => parseVfaddcl f
  | 0x44 => parseVfsub f
  | 0x45 => parseVfsubzr f
  | 0x46 => parseVfsubfl f
  | 0x47 => parseVfsubcl f
  | 0x48 => parseVfmul f
  | 0x49 => parseVfmulzr f
  | 0x4A => parseVfmulfl f
  | 0x4B => parseVfmulcl f
  | 0x4C => parseVfma f
  | 0x4D => parseVfmazr f
  | 0x4E => parseVfmafl f
  | 0x4F => parseVfmacl f
  | 0x50 => parseVfdiv f
  | 0x51 => parseVfdivzr f
  | 0x52 => parseVfsqrt f
  | 0x54 => parseVfmin f
  | 0x55 => parseVfmax f
  | 0x56 => parseVfabs f
  | 0x57 => parseVfneg f
  | 0x58 => parseVfcmp f
  | 0x5C => parseVfexp f
  | 0x5D => parseVfscale f
  | 0x5E => parseVfrint f
  | 0x5F => parseVfrintfl f
  | 0x80 => parseVcvt f
  | 0x81 => parseVcvtzr f
  | 0x82 => parseVcvtfl f
  | 0x83 => parseVcvtcl f
  | 0x84 => parseVnars f
  | 0x85 => parseVnarw f
  | 0x86 => parseVqblk f
  | 0x87 => parseVdqblk f
  | 0xA0 => parseVredf f
  | 0xA1 => parseVredfmax f
  | 0xA2 => parseVredfmin f
  | 0xA3 => parseVred f
  | 0xA4 => parseVreds f
  | 0xA5 => parseVredmax f
  | 0xA6 => parseVredmin f
  | 0xA8 => parseVscan f
  | 0xA9 => parseVbpfx f
  | 0xAA => parseVisect f
  | 0xAB => parseVcmprs f
  | 0xAC => parseVexpnd f
  | 0xB0 => parseVperm f
  | 0xB1 => parseVbcast f
  | 0xB2 => parseVrotl f
  | 0xB3 => parseVslide f
  | 0xB4 => parseVzip f
  | 0xB5 => parseVunzip f
  | 0xB6 => parseVmov f
  | 0xB7 => parseVsplat f
  | 0xB8 => parseMand f
  | 0xB9 => parseMor f
  | 0xBA => parseMxor f
  | 0xBB => parseMnot f
  | 0xBC => parseMpopc f
  | 0xBD => parseMsetx f
  | 0xBE => parseMgetx f
  | 0xE0 => parseXadd f
  | 0xE1 => parseXsub f
  | 0xE2 => parseXmul f
  | 0xE3 => parseXand f
  | 0xE4 => parseXior f
  | 0xE5 => parseXxor f
  | 0xE6 => parseXshl f
  | 0xE7 => parseXshr f
  | 0xE8 => parseXmovi f
  | 0xE9 => parseXlane f
  | 0xEA => (parseXloop f).orElse fun _ => parseXloopImmediate f
  | 0xEB => parseXbr f
  | 0xEC => parseXbrc f
  | 0xED => parseXbend f
  | 0xEE => (parseVld f).orElse fun _ => parseVldIndexed f
  | 0xEF => (parseVst f).orElse fun _ => parseVstIndexed f
  | 0xC0 => parseMwldF4 f
  | 0xC1 => parseMwldE4m3 f
  | 0xC2 => parseMwldE5m2 f
  | 0xC3 => parseMwldBf16 f
  | 0xC4 => parseMwldF16 f
  | 0xC5 => parseMwldI8 f
  | 0xC6 => parseMwldN8 f
  | 0xC7 => parseMwldI4 f
  | 0xC8 => parseMwldN4 f
  | 0xCA => parseMwid f
  | 0xCB => parseMwperm f
  | 0xCC => parseMwones f
  | 0xCD => parseMwsel f
  | 0xCE => parseMwswp f
  | 0xD0 => parseMmul f
  | 0xD1 => parseMmulz f
  | 0xD2 => parseMmulm f
  | 0xD3 => parseMmulmz f
  | 0xD4 => (parseMacrd f).orElse fun _ => parseMacrdScratchpad f
  | 0xD5 => parseMacclr f
  | 0xD8 => ((parseMscoutQuery f).orElse fun _ => parseMscoutKey f).orElse fun _ => parseMscoutScore f
  | 0xD9 => parseMcairn f
  | 0xDA => parseGand f
  | 0xDB => parseGor f
  | 0xDC => parseGandn f
  | 0xDD => parseGset f
  | 0xDE => parseGget f
  | 0xF0 => parseXpRdv f
  | 0xF1 => parseXpWait f
  | 0xF2 => parseWlpopv f
  | 0xF3 => parseXpIfence f
  | 0xF4 => parseXpRdsr f
  | 0xF5 => parseXpWrsr f
  | 0xF6 => parseXpYield f
  | 0xF7 => parseXpTrap f
  | 0xF8 => parseXpDone f
  | 0xF9 => parseXpNop f
  | 0xFA => parseXpFenceAcq f
  | 0xFB => parseXpFenceRel f
  | 0xFC => parseXpFenceSc f
  | _ => none

/-! ## Decoding -/

/-- Why a word or a group of words is no instruction (Table 08-7). -/
inductive Reject where
  /-- An opcode or a field that R191 refuses: it traps as illegal operation. -/
  | illegalOperation
  /-- A patch, prefix or literal that R182 to R185 refuse: it traps as illegal patch. -/
  | illegalPatch
  deriving DecidableEq, Repr

/-- R191 on an AP operation word. -/
def decodeAp (w : Nat) : Except Reject Instr :=
  match (apFields w).bind parseAp with
  | some i => if i.wf then .ok i else .error .illegalOperation
  | none => .error .illegalOperation

/-- R191 on an XP operation word. -/
noncomputable def decodeXp (w : Nat) : Except Reject Instr :=
  match (xpFields w).bind parseXp with
  | some i => if i.wf then .ok i else .error .illegalOperation
  | none => .error .illegalOperation

/-- R191 on an operation word of either half. -/
noncomputable def decodeOp (d : HalfId) (w : Nat) : Except Reject Instr :=
  match d with
  | .ap => decodeAp w
  | .xp => decodeXp w

/-! ## Encoding -/

/-- RB, BIMM and IMM32 of an AP word. -/
structure Snd where
  rb : Nat
  bimm : Nat
  imm : Nat
  deriving DecidableEq, Repr

def Snd.ofOp2 : Op2 → Snd
  | .reg rb => ⟨rb.toNat, 0, 0⟩
  | .imm v => ⟨0, 1, v.toNat⟩

/-- Table 08-4. -/
def apWord (opc : Nat) (h : ApHdr) (rd ra : BitVec 5) (n : Snd) (lo : Nat) : Nat :=
  join apWidths [opc, h.psense.toNat, h.pred.toNat, 0, rd.toNat, ra.toNat, n.rb, n.bimm, n.imm,
    h.popm.toNat, h.pushm.toNat, lo]

/-- Table 08-5. -/
def xpWord (opc : Nat) (h : XpHdr) (d a b c lo : Nat) : Nat :=
  join xpWidths [opc, h.lmask.toNat, d, a, b, c, 0, h.popm.toNat, h.pushm.toNat, lo]

/-- The operation word of an instruction and the side it belongs to; none for an engine step or event. -/
def encodeWord : Instr → Option (Side × Nat)
  | .nop h => some (.ap, apWord 0x01 h 0 0 ⟨0, 0, 0⟩ 0)
  | .add h rd ra o => some (.ap, apWord 0x02 h rd ra (.ofOp2 o) 0)
  | .sub h rd ra o => some (.ap, apWord 0x03 h rd ra (.ofOp2 o) 0)
  | .mul h rd ra o => some (.ap, apWord 0x04 h rd ra (.ofOp2 o) 0)
  | .mulh h rd ra o => some (.ap, apWord 0x05 h rd ra (.ofOp2 o) 0)
  | .mulhn h rd ra o => some (.ap, apWord 0x06 h rd ra (.ofOp2 o) 0)
  | .div h rd ra o => some (.ap, apWord 0x07 h rd ra (.ofOp2 o) 0)
  | .divn h rd ra o => some (.ap, apWord 0x08 h rd ra (.ofOp2 o) 0)
  | .rem h rd ra o => some (.ap, apWord 0x09 h rd ra (.ofOp2 o) 0)
  | .remn h rd ra o => some (.ap, apWord 0x0A h rd ra (.ofOp2 o) 0)
  | .adds h rd ra o => some (.ap, apWord 0x0B h rd ra (.ofOp2 o) 0)
  | .subs h rd ra o => some (.ap, apWord 0x0C h rd ra (.ofOp2 o) 0)
  | .addsn h rd ra o => some (.ap, apWord 0x0D h rd ra (.ofOp2 o) 0)
  | .subsn h rd ra o => some (.ap, apWord 0x0E h rd ra (.ofOp2 o) 0)
  | .and h rd ra o => some (.ap, apWord 0x10 h rd ra (.ofOp2 o) 0)
  | .or h rd ra o => some (.ap, apWord 0x11 h rd ra (.ofOp2 o) 0)
  | .xor h rd ra o => some (.ap, apWord 0x12 h rd ra (.ofOp2 o) 0)
  | .andn h rd ra o => some (.ap, apWord 0x13 h rd ra (.ofOp2 o) 0)
  | .orn h rd ra o => some (.ap, apWord 0x14 h rd ra (.ofOp2 o) 0)
  | .shl h rd ra o => some (.ap, apWord 0x18 h rd ra (.ofOp2 o) 0)
  | .shr h rd ra o => some (.ap, apWord 0x19 h rd ra (.ofOp2 o) 0)
  | .sar h rd ra o => some (.ap, apWord 0x1A h rd ra (.ofOp2 o) 0)
  | .rol h rd ra o => some (.ap, apWord 0x1B h rd ra (.ofOp2 o) 0)
  | .ror h rd ra o => some (.ap, apWord 0x1C h rd ra (.ofOp2 o) 0)
  | .min h rd ra o => some (.ap, apWord 0x20 h rd ra (.ofOp2 o) 0)
  | .max h rd ra o => some (.ap, apWord 0x21 h rd ra (.ofOp2 o) 0)
  | .minn h rd ra o => some (.ap, apWord 0x22 h rd ra (.ofOp2 o) 0)
  | .maxn h rd ra o => some (.ap, apWord 0x23 h rd ra (.ofOp2 o) 0)
  | .abs h rd ra => some (.ap, apWord 0x24 h rd ra ⟨0, 0, 0⟩ 0)
  | .clz h rd ra => some (.ap, apWord 0x28 h rd ra ⟨0, 0, 0⟩ 0)
  | .ctz h rd ra => some (.ap, apWord 0x29 h rd ra ⟨0, 0, 0⟩ 0)
  | .popc h rd ra => some (.ap, apWord 0x2A h rd ra ⟨0, 0, 0⟩ 0)
  | .bswap h rd ra => some (.ap, apWord 0x2B h rd ra ⟨0, 0, 0⟩ 0)
  | .exts h rd ra pos lenm1 => some (.ap, apWord 0x30 h rd ra ⟨0, 0, 0⟩ (join [18, 6, 6, 24] [0, pos.toNat, lenm1.toNat, 0]))
  | .extn h rd ra pos lenm1 => some (.ap, apWord 0x31 h rd ra ⟨0, 0, 0⟩ (join [18, 6, 6, 24] [0, pos.toNat, lenm1.toNat, 0]))
  | .ins h rd o pos lenm1 => some (.ap, apWord 0x32 h rd 0 (.ofOp2 o) (join [18, 6, 6, 24] [0, pos.toNat, lenm1.toNat, 0]))
  | .movi h rd imm => some (.ap, apWord 0x34 h rd 0 ⟨0, 1, imm.toNat⟩ 0)
  | .movhi h rd imm => some (.ap, apWord 0x35 h rd 0 ⟨0, 1, imm.toNat⟩ 0)
  | .sel h rd ra o pa => some (.ap, apWord 0x38 h rd ra (.ofOp2 o) (join [14, 3, 37] [0, pa.toNat, 0]))
  | .pcmp h ra o pd cc => some (.ap, apWord 0x70 h 0 ra (.ofOp2 o) (join [11, 3, 6, 3, 31] [0, pd.toNat, 0, cc.code, 0]))
  | .pcmpn h ra o pd cc => some (.ap, apWord 0x71 h 0 ra (.ofOp2 o) (join [11, 3, 6, 3, 31] [0, pd.toNat, 0, cc.code, 0]))
  | .pand h pd pa pb => some (.ap, apWord 0x72 h 0 0 ⟨0, 0, 0⟩ (join [11, 3, 3, 3, 34] [0, pd.toNat, pa.toNat, pb.toNat, 0]))
  | .por h pd pa pb => some (.ap, apWord 0x73 h 0 0 ⟨0, 0, 0⟩ (join [11, 3, 3, 3, 34] [0, pd.toNat, pa.toNat, pb.toNat, 0]))
  | .pxor h pd pa pb => some (.ap, apWord 0x74 h 0 0 ⟨0, 0, 0⟩ (join [11, 3, 3, 3, 34] [0, pd.toNat, pa.toNat, pb.toNat, 0]))
  | .pnot h pd pa => some (.ap, apWord 0x75 h 0 0 ⟨0, 0, 0⟩ (join [11, 3, 3, 37] [0, pd.toNat, pa.toNat, 0]))
  | .pset h ra pd => some (.ap, apWord 0x76 h 0 ra ⟨0, 0, 0⟩ (join [11, 3, 40] [0, pd.toNat, 0]))
  | .ptst h ra o pd => some (.ap, apWord 0x77 h 0 ra (.ofOp2 o) (join [11, 3, 40] [0, pd.toNat, 0]))
  | .br h off => some (.ap, apWord 0x60 h 0 0 ⟨0, 0, off.toNat⟩ 0)
  | .jmpr h ra off => some (.ap, apWord 0x61 h 0 ra ⟨0, 0, off.toNat⟩ 0)
  | .call h rd off => some (.ap, apWord 0x62 h rd 0 ⟨0, 0, off.toNat⟩ 0)
  | .ret h ra => some (.ap, apWord 0x63 h 0 ra ⟨0, 0, 0⟩ 0)
  | .loop h ra off => some (.ap, apWord 0x64 h 0 ra ⟨0, 0, off.toNat⟩ (join [37, 1, 16] [0, 0, 0]))
  | .loopImmediate h off limm => some (.ap, apWord 0x64 h 0 0 ⟨0, 0, off.toNat⟩ (join [37, 1, 16] [0, 1, limm.toNat]))
  | .lbrk h => some (.ap, apWord 0x65 h 0 0 ⟨0, 0, 0⟩ 0)
  | .ld h rd ra off ty => some (.ap, apWord 0x40 h rd ra ⟨0, 0, off.toNat⟩ (join [4, 50] [ty.code, 0]))
  | .st h ra rb off ty => some (.ap, apWord 0x41 h 0 ra ⟨rb.toNat, 0, off.toNat⟩ (join [4, 50] [ty.code, 0]))
  | .ldc h rd ra off ty => some (.ap, apWord 0x42 h rd ra ⟨0, 0, off.toNat⟩ (join [4, 50] [ty.code, 0]))
  | .ldacq h rd ra off ty sc => some (.ap, apWord 0x43 h rd ra ⟨0, 0, off.toNat⟩ (join [4, 4, 3, 43] [ty.code, 0, sc.code, 0]))
  | .strel h ra rb off ty sc => some (.ap, apWord 0x44 h 0 ra ⟨rb.toNat, 0, off.toNat⟩ (join [4, 4, 3, 43] [ty.code, 0, sc.code, 0]))
  | .lds h rd ra off ty => some (.ap, apWord 0x45 h rd ra ⟨0, 0, off.toNat⟩ (join [4, 50] [ty.code, 0]))
  | .sts h ra rb off ty => some (.ap, apWord 0x46 h 0 ra ⟨rb.toNat, 0, off.toNat⟩ (join [4, 50] [ty.code, 0]))
  | .aswap h rd ra rb off ty => some (.ap, apWord 0x48 h rd ra ⟨rb.toNat, 0, off.toNat⟩ (join [4, 50] [ty.code, 0]))
  | .acas h rd ra rb off ty pd => some (.ap, apWord 0x49 h rd ra ⟨rb.toNat, 0, off.toNat⟩ (join [4, 7, 3, 40] [ty.code, 0, pd.toNat, 0]))
  | .aadd h rd ra rb off ty => some (.ap, apWord 0x4A h rd ra ⟨rb.toNat, 0, off.toNat⟩ (join [4, 50] [ty.code, 0]))
  | .aand h rd ra rb off ty => some (.ap, apWord 0x4B h rd ra ⟨rb.toNat, 0, off.toNat⟩ (join [4, 50] [ty.code, 0]))
  | .aor h rd ra rb off ty => some (.ap, apWord 0x4C h rd ra ⟨rb.toNat, 0, off.toNat⟩ (join [4, 50] [ty.code, 0]))
  | .axor h rd ra rb off ty => some (.ap, apWord 0x4D h rd ra ⟨rb.toNat, 0, off.toNat⟩ (join [4, 50] [ty.code, 0]))
  | .amin h rd ra rb off ty => some (.ap, apWord 0x4E h rd ra ⟨rb.toNat, 0, off.toNat⟩ (join [4, 50] [ty.code, 0]))
  | .amax h rd ra rb off ty => some (.ap, apWord 0x4F h rd ra ⟨rb.toNat, 0, off.toNat⟩ (join [4, 50] [ty.code, 0]))
  | .aminn h rd ra rb off ty => some (.ap, apWord 0x50 h rd ra ⟨rb.toNat, 0, off.toNat⟩ (join [4, 50] [ty.code, 0]))
  | .amaxn h rd ra rb off ty => some (.ap, apWord 0x51 h rd ra ⟨rb.toNat, 0, off.toNat⟩ (join [4, 50] [ty.code, 0]))
  | .aminp h rd ra rb off pd => some (.ap, apWord 0x52 h rd ra ⟨rb.toNat, 0, off.toNat⟩ (join [11, 3, 40] [0, pd.toNat, 0]))
  | .fenceAcq h sc => some (.ap, apWord 0xC0 h 0 0 ⟨0, 0, 0⟩ (join [8, 3, 43] [0, sc.code, 0]))
  | .fenceRel h sc => some (.ap, apWord 0xC1 h 0 0 ⟨0, 0, 0⟩ (join [8, 3, 43] [0, sc.code, 0]))
  | .fenceSc h sc => some (.ap, apWord 0xC2 h 0 0 ⟨0, 0, 0⟩ (join [8, 3, 43] [0, sc.code, 0]))
  | .slb h rd ra off fboff => some (.ap, apWord 0xC4 h rd ra ⟨0, 0, off.toNat⟩ (join [22, 32] [0, fboff.toNat]))
  | .slc h => some (.ap, apWord 0xC5 h 0 0 ⟨0, 0, 0⟩ 0)
  | .slx h xcode => some (.ap, apWord 0xC6 h 0 0 ⟨0, 0, 0⟩ (join [46, 8] [0, xcode.toNat]))
  | .ifence h => some (.ap, apWord 0xC8 h 0 0 ⟨0, 0, 0⟩ 0)
  | .scfg h o sp word => some (.ap, apWord 0x80 h 0 0 (.ofOp2 o) (join [11, 4, 3, 36] [0, sp.toNat, word.toNat, 0]))
  | .sgo h sp => some (.ap, apWord 0x81 h 0 0 ⟨0, 0, 0⟩ (join [11, 4, 39] [0, sp.toNat, 0]))
  | .srewStart h sp => some (.ap, apWord 0x82 h 0 0 ⟨0, 0, 0⟩ (join [11, 4, 3, 1, 35] [0, sp.toNat, 0, 0, 0]))
  | .srewMark h sp => some (.ap, apWord 0x82 h 0 0 ⟨0, 0, 0⟩ (join [11, 4, 3, 1, 35] [0, sp.toNat, 0, 1, 0]))
  | .smark h sp => some (.ap, apWord 0x83 h 0 0 ⟨0, 0, 0⟩ (join [11, 4, 39] [0, sp.toNat, 0]))
  | .sfork h ra sp pport => some (.ap, apWord 0x84 h 0 ra ⟨0, 0, 0⟩ (join [11, 4, 4, 4, 31] [0, sp.toNat, 0, pport.toNat, 0]))
  | .send h sp => some (.ap, apWord 0x85 h 0 0 ⟨0, 0, 0⟩ (join [11, 4, 39] [0, sp.toNat, 0]))
  | .ssave h ra off sp => some (.ap, apWord 0x86 h 0 ra ⟨0, 0, off.toNat⟩ (join [11, 4, 39] [0, sp.toNat, 0]))
  | .ssaveb h ra off sp => some (.ap, apWord 0x87 h 0 ra ⟨0, 0, off.toNat⟩ (join [11, 4, 39] [0, sp.toNat, 0]))
  | .srstr h ra off sp => some (.ap, apWord 0x88 h 0 ra ⟨0, 0, off.toNat⟩ (join [11, 4, 39] [0, sp.toNat, 0]))
  | .sqry h rd sp => some (.ap, apWord 0x89 h rd 0 ⟨0, 0, 0⟩ (join [11, 4, 39] [0, sp.toNat, 0]))
  | .smask h sp g mbase => some (.ap, apWord 0x8A h 0 0 ⟨0, 0, 0⟩ (join [11, 4, 3, 6, 30] [0, sp.toNat, g.toNat, mbase.toNat, 0]))
  | .grd h rd g => some (.ap, apWord 0x8B h rd 0 ⟨0, 0, 0⟩ (join [15, 3, 36] [0, g.toNat, 0]))
  | .cpy h rd ra off => some (.ap, apWord 0xA0 h rd ra ⟨0, 0, off.toNat⟩ 0)
  | .cpyi h rd ra rb off => some (.ap, apWord 0xA1 h rd ra ⟨rb.toNat, 0, off.toNat⟩ 0)
  | .wmrd h rd nxt chan => some (.ap, apWord 0xA2 h rd 0 ⟨0, 0, 0⟩ (join [11, 1, 2, 40] [0, nxt.toNat, chan.toNat, 0]))
  | .cpq h rd chan => some (.ap, apWord 0xA3 h rd 0 ⟨0, 0, 0⟩ (join [12, 2, 40] [0, chan.toNat, 0]))
  | .twait h rd o all => some (.ap, apWord 0xA4 h rd 0 (.ofOp2 o) (join [11, 1, 42] [0, all.toNat, 0]))
  | .tffr h rd o clr => some (.ap, apWord 0xA5 h rd 0 (.ofOp2 o) (join [11, 1, 42] [0, clr.toNat, 0]))
  | .wait h rd ra rb off all ncm1 => some (.ap, apWord 0xA8 h rd ra ⟨rb.toNat, 0, off.toNat⟩ (join [11, 1, 2, 40] [0, all.toNat, ncm1.toNat, 0]))
  | .binit h ra o => some (.ap, apWord 0xAA h 0 ra (.ofOp2 o) 0)
  | .barr h rd ra sc => some (.ap, apWord 0xAB h rd ra ⟨0, 0, 0⟩ (join [8, 3, 43] [0, sc.code, 0]))
  | .barrx h ra rb sc => some (.ap, apWord 0xAC h 0 ra ⟨rb.toNat, 0, 0⟩ (join [8, 3, 43] [0, sc.code, 0]))
  | .bwait h ra o sc => some (.ap, apWord 0xAD h 0 ra (.ofOp2 o) (join [8, 3, 43] [0, sc.code, 0]))
  | .wlcfg h ra rb => some (.ap, apWord 0xB0 h 0 ra ⟨rb.toNat, 0, 0⟩ 0)
  | .wlpush h o => some (.ap, apWord 0xB1 h 0 0 (.ofOp2 o) 0)
  | .wlins h o pd => some (.ap, apWord 0xB2 h 0 0 (.ofOp2 o) (join [11, 3, 40] [0, pd.toNat, 0]))
  | .wlclr h => some (.ap, apWord 0xB3 h 0 0 ⟨0, 0, 0⟩ 0)
  | .wlcnt h rd => some (.ap, apWord 0xB4 h rd 0 ⟨0, 0, 0⟩ 0)
  | .chlink h ra chan => some (.ap, apWord 0xB8 h 0 ra ⟨0, 0, 0⟩ (join [12, 2, 40] [0, chan.toNat, 0]))
  | .chkick h sc chan => some (.ap, apWord 0xB9 h 0 0 ⟨0, 0, 0⟩ (join [8, 3, 1, 2, 40] [0, sc.code, 0, chan.toNat, 0]))
  | .chq h rd chan => some (.ap, apWord 0xBA h rd 0 ⟨0, 0, 0⟩ (join [12, 2, 40] [0, chan.toNat, 0]))
  | .jpost h rd ra rb off sc => some (.ap, apWord 0xBB h rd ra ⟨rb.toNat, 0, off.toNat⟩ (join [8, 3, 43] [0, sc.code, 0]))
  | .fork h ra off => some (.ap, apWord 0xE0 h 0 ra ⟨0, 0, off.toNat⟩ (join [11, 1, 42] [0, 0, 0]))
  | .forkEntry h => some (.ap, apWord 0xE0 h 0 0 ⟨0, 0, 0⟩ (join [11, 1, 42] [0, 1, 0]))
  | .rdv h => some (.ap, apWord 0xE1 h 0 0 ⟨0, 0, 0⟩ 0)
  | .yield h => some (.ap, apWord 0xE2 h 0 0 ⟨0, 0, 0⟩ 0)
  | .trap h code => some (.ap, apWord 0xE3 h 0 0 ⟨0, 0, 0⟩ (join [38, 16] [0, code.toNat]))
  | .eret h tctx => some (.ap, apWord 0xE4 h 0 0 ⟨0, 0, 0⟩ (join [12, 2, 40] [0, tctx.toNat, 0]))
  | .rdsr h rd srn => some (.ap, apWord 0xE5 h rd 0 ⟨0, 0, 0⟩ (join [14, 8, 32] [0, srn.toNat, 0]))
  | .wrsr h ra srn => some (.ap, apWord 0xE6 h 0 ra ⟨0, 0, 0⟩ (join [14, 8, 32] [0, srn.toNat, 0]))
  | .gtcrd h rd => some (.ap, apWord 0xE7 h rd 0 ⟨0, 0, 0⟩ 0)
  | .apDone h => some (.ap, apWord 0xE8 h 0 0 ⟨0, 0, 0⟩ 0)
  | .templateStoreLiteral _ op => some (.lit, op.toNat)
  | .vadd h d a b ty => some (.xp, xpWord 0x01 h d.code a.code b.code 0 (join [4, 50] [ty.code, 0]))
  | .vsub h d a b ty => some (.xp, xpWord 0x02 h d.code a.code b.code 0 (join [4, 50] [ty.code, 0]))
  | .vmul h d a b ty => some (.xp, xpWord 0x03 h d.code a.code b.code 0 (join [4, 50] [ty.code, 0]))
  | .vmulh h d a b ty => some (.xp, xpWord 0x04 h d.code a.code b.code 0 (join [4, 50] [ty.code, 0]))
  | .vmulhn h d a b ty => some (.xp, xpWord 0x05 h d.code a.code b.code 0 (join [4, 50] [ty.code, 0]))
  | .vadds h d a b ty => some (.xp, xpWord 0x06 h d.code a.code b.code 0 (join [4, 50] [ty.code, 0]))
  | .vsubs h d a b ty => some (.xp, xpWord 0x07 h d.code a.code b.code 0 (join [4, 50] [ty.code, 0]))
  | .vaddsn h d a b ty => some (.xp, xpWord 0x08 h d.code a.code b.code 0 (join [4, 50] [ty.code, 0]))
  | .vsubsn h d a b ty => some (.xp, xpWord 0x09 h d.code a.code b.code 0 (join [4, 50] [ty.code, 0]))
  | .vmad h d a b c ty => some (.xp, xpWord 0x0A h d.code a.code b.code c.code (join [4, 50] [ty.code, 0]))
  | .vabs h d a ty => some (.xp, xpWord 0x0C h d.code a.code 0 0 (join [4, 50] [ty.code, 0]))
  | .vand h d a b ty => some (.xp, xpWord 0x10 h d.code a.code b.code 0 (join [4, 50] [ty.code, 0]))
  | .vor h d a b ty => some (.xp, xpWord 0x11 h d.code a.code b.code 0 (join [4, 50] [ty.code, 0]))
  | .vxor h d a b ty => some (.xp, xpWord 0x12 h d.code a.code b.code 0 (join [4, 50] [ty.code, 0]))
  | .vandn h d a b ty => some (.xp, xpWord 0x13 h d.code a.code b.code 0 (join [4, 50] [ty.code, 0]))
  | .vshl h d a b ty => some (.xp, xpWord 0x14 h d.code a.code b.code 0 (join [4, 50] [ty.code, 0]))
  | .vshr h d a b ty => some (.xp, xpWord 0x15 h d.code a.code b.code 0 (join [4, 50] [ty.code, 0]))
  | .vsar h d a b ty => some (.xp, xpWord 0x16 h d.code a.code b.code 0 (join [4, 50] [ty.code, 0]))
  | .vclz h d a ty => some (.xp, xpWord 0x18 h d.code a.code 0 0 (join [4, 50] [ty.code, 0]))
  | .vpopc h d a ty => some (.xp, xpWord 0x19 h d.code a.code 0 0 (join [4, 50] [ty.code, 0]))
  | .vmin h d a b ty => some (.xp, xpWord 0x20 h d.code a.code b.code 0 (join [4, 50] [ty.code, 0]))
  | .vmax h d a b ty => some (.xp, xpWord 0x21 h d.code a.code b.code 0 (join [4, 50] [ty.code, 0]))
  | .vminn h d a b ty => some (.xp, xpWord 0x22 h d.code a.code b.code 0 (join [4, 50] [ty.code, 0]))
  | .vmaxn h d a b ty => some (.xp, xpWord 0x23 h d.code a.code b.code 0 (join [4, 50] [ty.code, 0]))
  | .vcmp h d a b cc => some (.xp, xpWord 0x24 h d.toNat a.code b.code 0 (join [4, 7, 3, 40] [12, 0, cc.code, 0]))
  | .vcmpn h d a b cc => some (.xp, xpWord 0x25 h d.toNat a.code b.code 0 (join [4, 7, 3, 40] [13, 0, cc.code, 0]))
  | .vsel h d a b c => some (.xp, xpWord 0x26 h d.code a.code b.code c.toNat 0)
  | .vdot4 h d a b c => some (.xp, xpWord 0x28 h d.code a.code b.code c.code 0)
  | .vdot4n h d a b c => some (.xp, xpWord 0x29 h d.code a.code b.code c.code 0)
  | .vdot4s h d a b c => some (.xp, xpWord 0x2A h d.code a.code b.code c.code 0)
  | .vdot4sn h d a b c => some (.xp, xpWord 0x2B h d.code a.code b.code c.code 0)
  | .vfadd h d a b => some (.xp, xpWord 0x40 h d.code a.code b.code 0 0)
  | .vfaddzr h d a b => some (.xp, xpWord 0x41 h d.code a.code b.code 0 0)
  | .vfaddfl h d a b => some (.xp, xpWord 0x42 h d.code a.code b.code 0 0)
  | .vfaddcl h d a b => some (.xp, xpWord 0x43 h d.code a.code b.code 0 0)
  | .vfsub h d a b => some (.xp, xpWord 0x44 h d.code a.code b.code 0 0)
  | .vfsubzr h d a b => some (.xp, xpWord 0x45 h d.code a.code b.code 0 0)
  | .vfsubfl h d a b => some (.xp, xpWord 0x46 h d.code a.code b.code 0 0)
  | .vfsubcl h d a b => some (.xp, xpWord 0x47 h d.code a.code b.code 0 0)
  | .vfmul h d a b => some (.xp, xpWord 0x48 h d.code a.code b.code 0 0)
  | .vfmulzr h d a b => some (.xp, xpWord 0x49 h d.code a.code b.code 0 0)
  | .vfmulfl h d a b => some (.xp, xpWord 0x4A h d.code a.code b.code 0 0)
  | .vfmulcl h d a b => some (.xp, xpWord 0x4B h d.code a.code b.code 0 0)
  | .vfma h d a b c => some (.xp, xpWord 0x4C h d.code a.code b.code c.code 0)
  | .vfmazr h d a b c => some (.xp, xpWord 0x4D h d.code a.code b.code c.code 0)
  | .vfmafl h d a b c => some (.xp, xpWord 0x4E h d.code a.code b.code c.code 0)
  | .vfmacl h d a b c => some (.xp, xpWord 0x4F h d.code a.code b.code c.code 0)
  | .vfdiv h d a b => some (.xp, xpWord 0x50 h d.code a.code b.code 0 0)
  | .vfdivzr h d a b => some (.xp, xpWord 0x51 h d.code a.code b.code 0 0)
  | .vfsqrt h d a => some (.xp, xpWord 0x52 h d.code a.code 0 0 0)
  | .vfmin h d a b => some (.xp, xpWord 0x54 h d.code a.code b.code 0 0)
  | .vfmax h d a b => some (.xp, xpWord 0x55 h d.code a.code b.code 0 0)
  | .vfabs h d a => some (.xp, xpWord 0x56 h d.code a.code 0 0 0)
  | .vfneg h d a => some (.xp, xpWord 0x57 h d.code a.code 0 0 0)
  | .vfcmp h d a b cc => some (.xp, xpWord 0x58 h d.toNat a.code b.code 0 (join [11, 3, 40] [0, cc.code, 0]))
  | .vfexp h d a => some (.xp, xpWord 0x5C h d.code a.code 0 0 0)
  | .vfscale h d a b => some (.xp, xpWord 0x5D h d.code a.code b.code 0 0)
  | .vfrint h d a => some (.xp, xpWord 0x5E h d.code a.code 0 0 0)
  | .vfrintfl h d a => some (.xp, xpWord 0x5F h d.code a.code 0 0 0)
  | .vcvt h d a ty ty2 part => some (.xp, xpWord 0x80 h d.code a.code 0 0 (join [4, 4, 3, 3, 40] [ty.code, ty2.code, 0, part.toNat, 0]))
  | .vcvtzr h d a ty ty2 part => some (.xp, xpWord 0x81 h d.code a.code 0 0 (join [4, 4, 3, 3, 40] [ty.code, ty2.code, 0, part.toNat, 0]))
  | .vcvtfl h d a ty ty2 part => some (.xp, xpWord 0x82 h d.code a.code 0 0 (join [4, 4, 3, 3, 40] [ty.code, ty2.code, 0, part.toNat, 0]))
  | .vcvtcl h d a ty ty2 part => some (.xp, xpWord 0x83 h d.code a.code 0 0 (join [4, 4, 3, 3, 40] [ty.code, ty2.code, 0, part.toNat, 0]))
  | .vnars h d a ty ty2 part => some (.xp, xpWord 0x84 h d.code a.code 0 0 (join [4, 4, 3, 3, 40] [ty.code, ty2.code, 0, part.toNat, 0]))
  | .vnarw h d a ty ty2 part => some (.xp, xpWord 0x85 h d.code a.code 0 0 (join [4, 4, 3, 3, 40] [ty.code, ty2.code, 0, part.toNat, 0]))
  | .vqblk h d a => some (.xp, xpWord 0x86 h d.code a.code 0 0 (join [4, 50] [5, 0]))
  | .vdqblk h d a => some (.xp, xpWord 0x87 h d.code a.code 0 0 (join [4, 4, 46] [0, 5, 0]))
  | .vredf h d a => some (.xp, xpWord 0xA0 h d.toNat a.code 0 0 0)
  | .vredfmax h d a => some (.xp, xpWord 0xA1 h d.toNat a.code 0 0 0)
  | .vredfmin h d a => some (.xp, xpWord 0xA2 h d.toNat a.code 0 0 0)
  | .vred h d a ty => some (.xp, xpWord 0xA3 h d.toNat a.code 0 0 (join [4, 50] [ty.code, 0]))
  | .vreds h d a ty => some (.xp, xpWord 0xA4 h d.toNat a.code 0 0 (join [4, 50] [ty.code, 0]))
  | .vredmax h d a ty => some (.xp, xpWord 0xA5 h d.toNat a.code 0 0 (join [4, 50] [ty.code, 0]))
  | .vredmin h d a ty => some (.xp, xpWord 0xA6 h d.toNat a.code 0 0 (join [4, 50] [ty.code, 0]))
  | .vscan h d a b ty exc => some (.xp, xpWord 0xA8 h d.code a.code b.toNat 0 (join [4, 7, 1, 42] [ty.code, 0, exc.toNat, 0]))
  | .vbpfx h d a b => some (.xp, xpWord 0xA9 h d.code a.code b.toNat 0 0)
  | .visect h d a b c half xw => some (.xp, xpWord 0xAA h d.code a.code b.code c.code (join [11, 1, 2, 4, 36] [0, half.toNat, 0, xw.toNat, 0]))
  | .vcmprs h d a => some (.xp, xpWord 0xAB h d.code a.code 0 0 0)
  | .vexpnd h d a => some (.xp, xpWord 0xAC h d.code a.code 0 0 0)
  | .vperm h d a b => some (.xp, xpWord 0xB0 h d.code a.code b.code 0 0)
  | .vbcast h d a lane => some (.xp, xpWord 0xB1 h d.code a.code 0 0 (join [12, 6, 36] [0, lane.toNat, 0]))
  | .vrotl h d a lane => some (.xp, xpWord 0xB2 h d.code a.code 0 0 (join [12, 6, 36] [0, lane.toNat, 0]))
  | .vslide h d a b lane => some (.xp, xpWord 0xB3 h d.code a.code b.code 0 (join [12, 6, 36] [0, lane.toNat, 0]))
  | .vzip h d a b half => some (.xp, xpWord 0xB4 h d.code a.code b.code 0 (join [11, 1, 42] [0, half.toNat, 0]))
  | .vunzip h d a b half => some (.xp, xpWord 0xB5 h d.code a.code b.code 0 (join [11, 1, 42] [0, half.toNat, 0]))
  | .vmov h d a => some (.xp, xpWord 0xB6 h d.code a.code 0 0 0)
  | .vsplat h d a => some (.xp, xpWord 0xB7 h d.code a.toNat 0 0 0)
  | .mand h d a b => some (.xp, xpWord 0xB8 h d.toNat a.toNat b.toNat 0 0)
  | .mor h d a b => some (.xp, xpWord 0xB9 h d.toNat a.toNat b.toNat 0 0)
  | .mxor h d a b => some (.xp, xpWord 0xBA h d.toNat a.toNat b.toNat 0 0)
  | .mnot h d a => some (.xp, xpWord 0xBB h d.toNat a.toNat 0 0 0)
  | .mpopc h d a => some (.xp, xpWord 0xBC h d.toNat a.toNat 0 0 0)
  | .msetx h d a b => some (.xp, xpWord 0xBD h d.toNat a.toNat b.toNat 0 0)
  | .mgetx h d a half => some (.xp, xpWord 0xBE h d.toNat a.toNat 0 0 (join [11, 1, 42] [0, half.toNat, 0]))
  | .xadd h d a b => some (.xp, xpWord 0xE0 h d.toNat a.toNat b.s2 0 b.lo)
  | .xsub h d a b => some (.xp, xpWord 0xE1 h d.toNat a.toNat b.s2 0 b.lo)
  | .xmul h d a b => some (.xp, xpWord 0xE2 h d.toNat a.toNat b.s2 0 b.lo)
  | .xand h d a b => some (.xp, xpWord 0xE3 h d.toNat a.toNat b.s2 0 b.lo)
  | .xior h d a b => some (.xp, xpWord 0xE4 h d.toNat a.toNat b.s2 0 b.lo)
  | .xxor h d a b => some (.xp, xpWord 0xE5 h d.toNat a.toNat b.s2 0 b.lo)
  | .xshl h d a b => some (.xp, xpWord 0xE6 h d.toNat a.toNat b.s2 0 b.lo)
  | .xshr h d a b => some (.xp, xpWord 0xE7 h d.toNat a.toNat b.s2 0 b.lo)
  | .xmovi h d imm => some (.xp, xpWord 0xE8 h d.toNat 0 0 0 (join [22, 32] [0, imm.toNat]))
  | .xlane h d a lane => some (.xp, xpWord 0xE9 h d.toNat a.code 0 0 (join [12, 6, 36] [0, lane.toNat, 0]))
  | .xloop h xc nr fin => some (.xp, xpWord 0xEA h 0 0 0 0 (join [11, 1, 4, 4, 16, 18] [0, 0, xc.toNat, nr.toNat, 0, fin.toNat]))
  | .xloopImmediate h nr limm fin => some (.xp, xpWord 0xEA h 0 0 0 0 (join [11, 1, 4, 4, 16, 18] [0, 1, 0, nr.toNat, limm.toNat, fin.toNat]))
  | .xbr h imm => some (.xp, xpWord 0xEB h 0 0 0 0 (join [22, 32] [0, imm.toNat]))
  | .xbrc h t imm => some (.xp, xpWord 0xEC h 0 t.s1 0 0 (join [11, 3, 4, 4, 32] [0, t.cond, t.port, 0, imm.toNat]))
  | .xbend h t => some (.xp, xpWord 0xED h 0 t.s1 0 0 (join [11, 3, 4, 36] [0, t.cond, t.port, 0]))
  | .vld h d a imm => some (.xp, xpWord 0xEE h d.code a.toNat 0 0 (join [11, 2, 9, 32] [0, 0, 0, imm.toNat]))
  | .vldIndexed h d a b ty imm => some (.xp, xpWord 0xEE h d.code a.toNat b.code 0 (join [4, 7, 2, 9, 32] [ty.code, 0, 1, 0, imm.toNat]))
  | .vst h a b imm => some (.xp, xpWord 0xEF h 0 a.toNat b.code 0 (join [11, 2, 9, 32] [0, 0, 0, imm.toNat]))
  | .vstIndexed h a b c ty imm => some (.xp, xpWord 0xEF h 0 a.toNat b.code c.code (join [4, 7, 2, 9, 32] [ty.code, 0, 1, 0, imm.toNat]))
  | .mwldF4 h a w => some (.xp, xpWord 0xC0 h 0 a.code w.s2 0 w.lo)
  | .mwldE4m3 h a w => some (.xp, xpWord 0xC1 h 0 a.code w.s2 0 w.lo)
  | .mwldE5m2 h a w => some (.xp, xpWord 0xC2 h 0 a.code w.s2 0 w.lo)
  | .mwldBf16 h a w => some (.xp, xpWord 0xC3 h 0 a.code w.s2 0 w.lo)
  | .mwldF16 h a w => some (.xp, xpWord 0xC4 h 0 a.code w.s2 0 w.lo)
  | .mwldI8 h a w => some (.xp, xpWord 0xC5 h 0 a.code w.s2 0 w.lo)
  | .mwldN8 h a w => some (.xp, xpWord 0xC6 h 0 a.code w.s2 0 w.lo)
  | .mwldI4 h a w => some (.xp, xpWord 0xC7 h 0 a.code w.s2 0 w.lo)
  | .mwldN4 h a w => some (.xp, xpWord 0xC8 h 0 a.code w.s2 0 w.lo)
  | .mwid h ty => some (.xp, xpWord 0xCA h 0 0 0 0 (join [4, 50] [ty.code, 0]))
  | .mwperm h a ty => some (.xp, xpWord 0xCB h 0 a.code 0 0 (join [4, 50] [ty.code, 0]))
  | .mwones h ty => some (.xp, xpWord 0xCC h 0 0 0 0 (join [4, 50] [ty.code, 0]))
  | .mwsel h a ty => some (.xp, xpWord 0xCD h 0 a.toNat 0 0 (join [4, 50] [ty.code, 0]))
  | .mwswp h => some (.xp, xpWord 0xCE h 0 0 0 0 0)
  | .mmul h a ty abase => some (.xp, xpWord 0xD0 h 0 a.code 0 0 (join [4, 7, 6, 37] [ty.code, 0, abase.toNat, 0]))
  | .mmulz h a ty abase => some (.xp, xpWord 0xD1 h 0 a.code 0 0 (join [4, 7, 6, 37] [ty.code, 0, abase.toNat, 0]))
  | .mmulm h a ty abase g mbase ngm1 gte => some (.xp, xpWord 0xD2 h 0 a.code 0 0 (join [4, 7, 6, 3, 6, 2, 1, 25] [ty.code, 0, abase.toNat, g.toNat, mbase.toNat, ngm1.toNat, gte.toNat, 0]))
  | .mmulmz h a ty abase g mbase ngm1 gte => some (.xp, xpWord 0xD3 h 0 a.code 0 0 (join [4, 7, 6, 3, 6, 2, 1, 25] [ty.code, 0, abase.toNat, g.toNat, mbase.toNat, ngm1.toNat, gte.toNat, 0]))
  | .macrd h d row cg clr => some (.xp, xpWord 0xD4 h d.code 0 0 0 (join [11, 6, 9, 2, 1, 1, 24] [0, row.toNat, 0, cg.toNat, 0, clr.toNat, 0]))
  | .macrdScratchpad h a row cg clr => some (.xp, xpWord 0xD4 h 0 a.toNat 0 0 (join [11, 6, 9, 2, 1, 1, 24] [0, row.toNat, 0, cg.toNat, 1, clr.toNat, 0]))
  | .macclr h row nrm1 => some (.xp, xpWord 0xD5 h 0 0 0 0 (join [11, 6, 13, 6, 18] [0, row.toNat, 0, nrm1.toNat, 0]))
  | .mscoutQuery h a eidx => some (.xp, xpWord 0xD8 h 0 a.code 0 0 (join [4, 7, 2, 5, 36] [5, 0, 0, eidx.toNat, 0]))
  | .mscoutKey h a eidx => some (.xp, xpWord 0xD8 h 0 a.code 0 0 (join [4, 7, 2, 5, 36] [5, 0, 1, eidx.toNat, 0]))
  | .mscoutScore h d a eidx nqm1 nkm1 slane nsegm1 => some (.xp, xpWord 0xD8 h d.code a.code 0 0 (join [4, 7, 2, 5, 6, 6, 6, 1, 17] [5, 0, 2, eidx.toNat, nqm1.toNat, nkm1.toNat, slane.toNat, nsegm1.toNat, 0]))
  | .mcairn h d a b c => some (.xp, xpWord 0xD9 h d.toNat a.code b.toNat c.toNat 0)
  | .gand h d a b => some (.xp, xpWord 0xDA h d.toNat a.code b.code 0 0)
  | .gor h d a b => some (.xp, xpWord 0xDB h d.toNat a.code b.code 0 0)
  | .gandn h d a b => some (.xp, xpWord 0xDC h d.toNat a.code b.code 0 0)
  | .gset h d a => some (.xp, xpWord 0xDD h d.toNat a.toNat 0 0 0)
  | .gget h d a => some (.xp, xpWord 0xDE h d.toNat a.code 0 0 0)
  | .xpRdv h => some (.xp, xpWord 0xF0 h 0 0 0 0 0)
  | .xpWait h d a b all ncm1 imm => some (.xp, xpWord 0xF1 h d.toNat a.toNat b.toNat 0 (join [11, 1, 2, 8, 32] [0, all.toNat, ncm1.toNat, 0, imm.toNat]))
  | .wlpopv h d xn => some (.xp, xpWord 0xF2 h d.code 0 0 0 (join [14, 4, 36] [0, xn.toNat, 0]))
  | .xpIfence h => some (.xp, xpWord 0xF3 h 0 0 0 0 0)
  | .xpRdsr h d half srn => some (.xp, xpWord 0xF4 h d.toNat 0 0 0 (join [11, 1, 2, 8, 32] [0, half.toNat, 0, srn.toNat, 0]))
  | .xpWrsr h a srn => some (.xp, xpWord 0xF5 h 0 a.toNat 0 0 (join [14, 8, 32] [0, srn.toNat, 0]))
  | .xpYield h => some (.xp, xpWord 0xF6 h 0 0 0 0 0)
  | .xpTrap h code => some (.xp, xpWord 0xF7 h 0 0 0 0 (join [38, 16] [0, code.toNat]))
  | .xpDone h => some (.xp, xpWord 0xF8 h 0 0 0 0 0)
  | .xpNop h => some (.xp, xpWord 0xF9 h 0 0 0 0 0)
  | .xpFenceAcq h sc => some (.xp, xpWord 0xFA h 0 0 0 0 (join [8, 3, 43] [0, sc.code, 0]))
  | .xpFenceRel h sc => some (.xp, xpWord 0xFB h 0 0 0 0 (join [8, 3, 43] [0, sc.code, 0]))
  | .xpFenceSc h sc => some (.xp, xpWord 0xFC h 0 0 0 0 (join [8, 3, 43] [0, sc.code, 0]))
  | .stallRelease _ => none
  | .waitTimeout _ => none
  | .watchdog _ => none
  | .loadDataArrival _ => none
  | .longLatencyDelivery _ => none
  | .tokenArrival _ => none
  | .memoryRequestArrival _ _ => none
  | .atomicPerform _ _ => none
  | .pageTableWalk _ _ _ _ => none
  | .copy _ _ => none
  | .copyToImem _ _ => none
  | .copyToTemplateStore _ _ => none
  | .publish _ _ => none
  | .gather _ _ => none
  | .rread _ _ => none
  | .rreadReply _ _ _ => none
  | .pool _ _ => none
  | .csr _ _ => none
  | .decode _ _ => none
  | .encode _ _ => none
  | .hist _ _ => none
  | .build _ _ => none
  | .copyCompletion _ _ => none
  | .almanacRelease _ _ => none
  | .codecDecodeBlock _ => none
  | .codecEncodeBlock _ => none
  | .chainEntryFetch _ _ _ => none
  | .chainSlotConsume _ _ _ => none
  | .chainPost _ _ _ => none
  | .ringAuditEvent _ _ _ => none
  | .triggerLaunch _ _ => none
  | .streamElementGenerate _ _ _ => none
  | .streamLineFull _ _ _ _ => none
  | .streamDrain _ _ _ => none
  | .maskLatch _ _ _ => none
  | .peerElementArrival _ => none
  | .endMarkerArrival _ => none
  | .workListSpill _ _ => none
  | .workListRefill _ _ => none
  | .arrayOperation _ => none
  | .scoutOperation _ => none
  | .deferredPoisonTrap _ _ => none
  | .barrierArrivalMessage _ => none
  | .handlerDispatch _ => none
  | .correctableErrorFreeze _ => none
  | .freezeEnd _ => none
  | .msixWrite _ => none
  | .tailSwapReport _ _ => none
  | .stepBind _ _ => none
  | .gangRelease _ => none
  | .transformNodeStart _ => none
  | .nodeCompletion _ => none
  | .cardCompletion _ => none
  | .stepAgeing _ => none
  | .yieldRequest _ _ => none
  | .setAside _ => none
  | .qtailWrite _ _ _ => none
  | .ctrWrite _ _ _ => none
  | .ccfgWrite _ _ _ => none
  | .lpost _ _ => none
  | .forcedHalt _ => none
  | .haltRelease _ => none
  | .cooperativeRequest _ => none
  | .swapOut _ => none
  | .swapIn _ => none
  | .swapExchange _ => none
  | .tlbiWholeTenant _ => none
  | .tlbiRange _ _ => none
  | .tlbInvalidationComplete _ => none
  | .parkqRead _ => none
  | .parkResume _ _ _ => none
  | .parkDeliver _ _ _ => none
  | .cecountRead _ => none
  | .lostRead _ => none
  | .cctlResume _ _ => none
  | .cctlParkResume _ _ _ => none
  | .cctlParkDeliver _ _ _ => none
  | .cpartMove _ _ => none
  | .cpartMoveComplete _ => none
  | .retrain  => none
  | .portModeOff _ => none
  | .portModeNymay _ => none
  | .portModeIngress _ => none
  | .portCounterRead _ _ => none
  | .registerWrite _ _ _ _ => none
  | .vfFlr _ => none
  | .pf0Flr  => none
  | .hostPostedWrite _ _ _ => none
  | .hostRead _ _ _ _ => none
  | .hostAtomicop _ _ _ _ _ => none
  | .spdmRequest _ => none
  | .deviceReset  => none
  | .firmwareImageVerify  => none
  | .thermalWarning _ => none
  | .thermalTrip _ => none
  | .bridgeRetrainEvent  => none
  | .bridgeLinkDown  => none
  | .bridgeTrainingComplete  => none
  | .nymayLinkDown _ => none
  | .nymayRequestArrival _ _ _ _ _ => none
  | .gvspLeader _ _ _ _ _ => none
  | .gvspPayload _ _ _ _ => none
  | .gvspTrailer _ _ _ => none
  | .gvspPacketRefused _ => none
  | .frameTimeout _ => none
  | .hostIngressFrame _ _ => none
  | .timeSyncMessage  => none
  | .cxlMemRequest _ _ _ _ => none
  | .nymayLinkRetrain _ => none
  | .ethernetLinkUp _ => none

/-- The side of an instruction. -/
def Instr.side (i : Instr) : Side :=
  match encodeWord i with
  | some p => p.1
  | none => .event

/-- The literal header word of R184: ST, EX and TGT. -/
def literalHeader (st ex : Bool) (tgt : Nat) : BitVec 32 :=
  BitVec.ofNat 32 (join [6, 10, 1, 1, 8, 6] [63, 0, st.toNat, ex.toNat, 0, tgt])

/-- The four words of an operation word in IMEM order (R184). -/
def opWords (w : Nat) : List (BitVec 32) :=
  [BitVec.ofNat 32 w, BitVec.ofNat 32 (w / 2 ^ 32), BitVec.ofNat 32 (w / 2 ^ 64), BitVec.ofNat 32 (w / 2 ^ 96)]

/-- The words of a well-formed instruction: the literal group that carries it (R184). Empty for an engine step. -/
def encode (i : Instr) : List (BitVec 32) :=
  match i with
  | .templateStoreLiteral tgt op => literalHeader true false tgt.toNat :: opWords op.toNat
  | j =>
    match encodeWord j with
    | some (_, w) => literalHeader false true 0 :: opWords w
    | none => []

/-! ## Groups of words (R181 to R186) -/

/-- Table 08-2: width codes. -/
def patchWidth : Nat → Nat
  | 0 => 16 | 1 => 1 | 2 => 2 | 3 => 3 | 4 => 4 | 5 => 6 | 6 => 8 | _ => 12

/-- A patch: bit offset, width code, value (Table 08-1). -/
structure Patch where
  off : Nat
  wc : Nat
  val : Nat
  deriving DecidableEq, Repr

/-- ApplyPatch of R182. -/
def applyPatch (op : BitVec 128) (p : Patch) : Except Reject (BitVec 128) :=
  let w := patchWidth p.wc
  if p.off = 127 ∧ p.wc = 0 then
    if p.val ≠ 0 then .error .illegalPatch else .ok op
  else if p.off + w > 128 then .error .illegalPatch
  else if p.val ≥ 2 ^ w then .error .illegalPatch
  else
    let m : BitVec 128 := BitVec.ofNat 128 ((2 ^ w - 1) * 2 ^ p.off)
    .ok ((op &&& ~~~m) ||| BitVec.ofNat 128 (p.val * 2 ^ p.off))

def applyPatches : List Patch → BitVec 128 → Except Reject (BitVec 128)
  | [], op => .ok op
  | p :: ps, op =>
    match applyPatch op p with
    | .ok op' => applyPatches ps op'
    | .error e => .error e

/-- The T, OFF, WC and VAL fields of a word (Table 08-1). -/
def patchFields (w : BitVec 32) : Nat × Patch :=
  (w.toNat / 2 ^ 26, ⟨w.toNat / 2 ^ 19 % 128, w.toNat / 2 ^ 16 % 8, w.toNat % 2 ^ 16⟩)

/-- What a group of words is, before templates are read (R185). -/
inductive Group where
  /-- A patch word naming template `t`, with the patches of its prefixes and its own, in order. -/
  | patched (t : Nat) (ps : List Patch)
  /-- A literal: store target, issue bit, operation word. -/
  | literal (st : Option (BitVec 6)) (ex : Bool) (op : BitVec 128)
  deriving DecidableEq, Repr

/-- A decoded group and how many words it takes. -/
structure GroupLen where
  group : Group
  words : Nat
  deriving DecidableEq, Repr

/-- A literal group, its header and its four words (R184). -/
def literalGroup (h : BitVec 32) : List (BitVec 32) → Except Reject GroupLen
  | w0 :: w1 :: w2 :: w3 :: _ =>
    match split [6, 10, 1, 1, 8, 6] h.toNat with
    | [_, 0, st, ex, 0, tgt] =>
      if st = 1 ∧ tgt ≥ 62 then .error .illegalPatch
      else if st = 0 ∧ tgt ≠ 0 then .error .illegalPatch
      else .ok ⟨.literal (if st = 1 then some (BitVec.ofNat 6 tgt) else none) (ex == 1) (w3 ++ w2 ++ w1 ++ w0), 5⟩
    | _ => .error .illegalPatch
  | _ => .error .illegalPatch

/-- DecodeGroup of R185 on the words from the program counter on: `n` prefixes have been taken into `ps`. A list that
ends inside a group is a group that runs past the end of IMEM. -/
def decodeGroup (n : Nat) (ps : List Patch) : List (BitVec 32) → Except Reject GroupLen
  | [] => .error .illegalPatch
  | w :: ws =>
    let (t, p) := patchFields w
    if t = 62 then
      if n = 3 then .error .illegalPatch else decodeGroup (n + 1) (ps ++ [p]) ws
    else if t = 63 then
      if n > 0 then .error .illegalPatch else literalGroup w ws
    else .ok ⟨.patched t (ps ++ [p]), n + 1⟩

/-- The instruction of a literal group, on the side `d` that fetches it; none for a data literal. A literal that
stores and issues is the issued instruction (its store is the group's own effect, R185). -/
noncomputable def decodeLiteral (d : HalfId) (st : Option (BitVec 6)) (ex : Bool) (op : BitVec 128) :
    Except Reject (Option Instr) :=
  if ex then
    match decodeOp d op.toNat with
    | .ok i => .ok (some i)
    | .error e => .error e
  else
    match st with
    | some t => .ok (some (.templateStoreLiteral t op))
    | none => .ok none

/-- The instruction this decoder reads from an opcode-table row's bits. The table gives the rows of the two halves one
numbering; where the row is of an XP word, bit 128 of `w` is one (the model's own mark of the half, log entry 9), and
a store-only literal is marked by bit 129 with its target in bits [135:130]. -/
noncomputable def decodeTableWord (_nbits w : Nat) : Option Instr :=
  let op := w % 2 ^ 128
  if w / 2 ^ 129 % 2 = 1 then
    if w / 2 ^ 130 % 64 < 62 then some (.templateStoreLiteral (BitVec.ofNat 6 (w / 2 ^ 130)) (BitVec.ofNat 128 op))
    else none
  else
    match decodeOp (if w / 2 ^ 128 % 2 = 1 then .xp else .ap) op with
    | .ok i => some i
    | .error _ => none

end Sys2Proof
end

