-- ==== Sys2Proof/Machine/Fetch.lean ====
section
/-! DEFINITION. Fetching and decoding the group at a half's program counter (R180 to R186, R424). -/

namespace Sys2Proof.Machine
open Sys2Proof

/-- The 32-bit word of IMEM at a byte offset (R3). -/
def Core.imemWord (c : Core) (o : Nat) : BitVec 32 :=
  c.imem.get 0 (o + 3) ++ c.imem.get 0 (o + 2) ++ c.imem.get 0 (o + 1) ++ c.imem.get 0 o

/-- Up to `n` words of IMEM from an offset; none at or past its end (R185). -/
def Core.imemWords (c : Core) (o : Nat) : Nat → List (BitVec 32)
  | 0 => []
  | n + 1 => if o + 4 ≤ Config.imemSize then c.imemWord o :: c.imemWords (o + 4) n else []

/-- Whether one of `n` words of IMEM from an offset is poisoned (R424). -/
def Core.imemPoison (c : Core) (o n : Nat) : Bool :=
  (List.range n).any fun k => c.imemBad.get false (o / 4 + k)

/-- What a fetch finds: an instruction, a data literal to pass over, or a trap of the group. -/
inductive Fetched where
  | word (c : Cur) (i : Instr)
  | data (c : Cur)
  | fault (c : Cur) (i : TrapInfo)

def rejectTrap : Reject → TrapInfo
  | .illegalOperation => { code := 1 }
  | .illegalPatch => { code := 2, noOp := true }

/-- Words of a group that is refused, to the one that is refused: up to three prefixes and one more (R183, R184). -/
def refusedWords (ws : List (BitVec 32)) : Nat := ((ws.take 3).takeWhile fun w => (patchFields w).1 == 62).length + 1

/-- Fetch and decode the group at the program counter of a half (R185); a poisoned word that it uses traps first (R424). -/
noncomputable def State.fetchGroup (s : State) (t : Tid) : Fetched :=
  let co := s.core t.core
  let h := s.half t
  let cur : Cur := { tid := t, pc := h.pc, pcn := h.pc + 4 }
  match decodeGroup 0 [] (co.imemWords h.pc 5) with
  | .error e =>
    .fault cur (if co.imemPoison h.pc (refusedWords (co.imemWords h.pc 5)) then { code := 8, addr := h.pc, noOp := true }
      else rejectTrap e)
  | .ok g =>
    let cur := { cur with pcn := h.pc + 4 * g.words }
    if co.imemPoison h.pc g.words then .fault cur { code := 8, addr := h.pc, noOp := true } else
    match g.group with
    | .patched n ps =>
      if h.tmplBad.get false n then .fault cur { code := 8, addr := h.pc, noOp := true } else
      match applyPatches ps (h.tmpl.get 0 n) with
      | .error e => .fault cur (rejectTrap e)
      | .ok op =>
        match decodeOp t.half op.toNat with
        | .ok i => .word { cur with op := op } i
        | .error e => .fault { cur with op := op } (rejectTrap e)
    | .literal st ex op =>
      match decodeLiteral t.half st ex op with
      | .ok (some i) => .word { cur with op := op, store := st } i
      | .ok none => .data cur
      | .error e => .fault { cur with op := op } (rejectTrap e)

/-- The word of a half that has issued and waits. -/
def Half.word (h : Half) : Option Cur := match h.stall with
  | some w => if w.issued then w.word else none
  | none => none

/-- What a half issues: the word in which it waits, as it was fetched (R188), or the group at its program counter. -/
noncomputable def State.fetch (s : State) (t : Tid) : Fetched :=
  match (s.half t).word with
  | some c =>
    match decodeOp t.half c.op.toNat with
    | .ok i => .word c i
    | .error _ => s.fetchGroup t
  | none => s.fetchGroup t

/-- Whether a half may issue: its context bound and released (R28), running, and its core not frozen (R420). -/
def State.runnable (s : State) (t : Tid) : Bool :=
  let co := s.core t.core
  let c := co.ctx t.ctx
  (c.half t.half).active && !c.trapped && !c.halted && co.freezes == 0 && !s.dev.tripped &&
    (if t.ctx = 4 then !co.doubleTrap else
      match c.bind with
      | some b => b.released && !c.ending
      | none => false)

/-! ## The choice of a context (R21, R387) -/

/-- The slot table of a unit of a core in a cycle: one that is written in it takes effect from the next. -/
def Core.slots (c : Core) (cc : Nat) (h : HalfId) : BitVec 64 :=
  let (a, x) := match c.slotWas with
    | some (n, a, x) => if n = cc then (a, x) else (c.slotAp, c.slotXp)
    | none => (c.slotAp, c.slotXp)
  match h with
  | .ap => a
  | .xp => x

def unitNo : HalfId → Nat
  | .ap => 0
  | .xp => 1

/-- The context from which a unit of a core issues in this cycle, where those in `late` are not ready: the system context, or
else the first ready one from the context that the cycle's slot names. -/
def State.picked (s : State) (k : Nat) (h : HalfId) (late : List Nat) : Option Nat :=
  let c := (s.core k).slots (s.coreCc k) h
  let n := 2 * (s.coreCc k % 16)
  let slot := bits c.toNat (n + 1) n
  (4 :: (List.range 4).map fun i => (slot + i) % 4).find? fun x => s.runnable ⟨k, x, h⟩ && !late.contains x

/-- Whether a half may issue in this cycle: its context is the one picked, and up to two of its words issue (R21). -/
def State.mayIssue (s : State) (t : Tid) (late : List Nat) : Bool :=
  s.runnable t && match (s.core t.core).issuedAt.get (0, 0, 0) (unitNo t.half) with
    | (c, x, n) => if c = s.coreCc t.core ∧ n ≠ 0 then x == t.ctx && n == 1 else s.picked t.core t.half late == some t.ctx

/-- The Poison trap that waits for the boundary at which an XP stands (R300). -/
def State.boundaryTrap (s : State) (t : Tid) : Option MmTrap :=
  if t.half = .xp ∧ ¬ (s.half t).inWord then (s.ctx t.core t.ctx).mx.pend else none

/-- The contexts of a core but one. -/
def otherCtxs (x : Nat) : List Nat := (List.range 5).filter (· != x)

/-- The port that an AP stream form names: it acts on it after what the XP does to it in the same cycle (R152, R228). -/
def streamPort : Instr → Option Nat
  | .scfg _ _ sp _ | .sgo _ sp | .srewStart _ sp | .srewMark _ sp | .smark _ sp | .sfork _ _ sp _ | .send _ sp | .ssave _ _ _ sp
  | .ssaveb _ _ _ sp | .srstr _ _ _ sp | .sqry _ _ sp | .smask _ sp _ _ => some sp.toNat
  | _ => none

/-- Whether an operation word of the XP names a port as an operand: in a class V field of its level (R167). -/
def xpNames (op : BitVec 128) (n : Nat) : Bool :=
  [104, 92, 80, 68].any fun lo => bits op.toNat (lo + 9) lo == 3 * 2 ^ 8 + n

/-- A literal that is only stored takes no issue slot (R187). -/
def takesNoSlot : Instr → Bool
  | .templateStoreLiteral _ _ => true
  | _ => false

/-- Whether a unit of a core has issued a word of a context in this cycle. -/
def State.issuedNow (s : State) (k x : Nat) (h : HalfId) : Bool :=
  match (s.core k).issuedAt.get (0, 0, 0) (unitNo h) with
  | (c, y, n) => c == s.coreCc k && y == x && n != 0

/-- Whether a word of a half keeps the order of the halves of its context in one cycle: a word of the AP comes first, so that its
work-list form and its trap do (R337, R398); but after a pop or a push of a port comes a stream form of that port (R152, R228). -/
def State.inOrder (s : State) (t : Tid) (op : BitVec 128) (port : Option Nat) : Bool :=
  match t.half with
  | .ap => !s.issuedNow t.core t.ctx .xp || port.any fun n => (s.port t.core t.ctx n).usedAt == some (s.coreCc t.core)
  | .xp => match (s.core t.core).portAt with
    | some (c, y, ns) => !(c == s.coreCc t.core && y == t.ctx && ns.any (xpNames op))
    | none => true

/-- Whether an instruction reads or waits on what the completion of a command changes (R317). -/
def samples : Instr → Bool
  | .tffr _ _ _ _ | .twait _ _ _ _ | .wmrd _ _ _ _ | .cpq _ _ _ | .wait _ _ _ _ _ _ _ | .xpWait _ _ _ _ _ _ _ => true
  | _ => false

/-- Count an issue of a half in this cycle, which may be of a stream form of the AP, or of a word that samples completions. -/
def State.countIssue (s : State) (t : Tid) (port : Option Nat) (sample : Bool) : State :=
  let cc := s.coreCc t.core
  s.modCore t.core fun k =>
    let u := k.issuedAt.get (0, 0, 0) (unitNo t.half)
    { k with
      sampledAt := if sample then some cc else k.sampledAt
      issuedAt := k.issuedAt.put (unitNo t.half) (cc, t.ctx, if u.1 = cc ∧ u.2.1 = t.ctx then u.2.2 + 1 else 1)
      portAt := match port with
        | some n => some (cc, t.ctx, n :: match k.portAt with
          | some (c, y, ns) => if c = cc ∧ y = t.ctx then ns else []
          | none => [])
        | none => k.portAt }

end Sys2Proof.Machine
end

