-- ==== Sys2Proof/Machine/XpMem.lean ====
section
/-! DEFINITION. Vector loads and stores (R270 to R272): a word puts its accesses in flight, one for each aligned 8-byte chunk
of a contiguous access and one for each lane of an indexed one; those of one chunk perform together. -/

namespace Sys2Proof.Machine
open Sys2Proof

/-- A main vector as a destination. -/
def vmOpnd (d : VmOp) : Opnd := { rot := d.rot, lvl := .main, idx := d.idx }

/-- The base offset of a form (R270), exact. -/
def baseOffset (a : BitVec 4) (imm : BitVec 32) : Exec Int := do
  let x ← needX a 1
  pure ((x : Int) + imm.toInt)

/-- Check the lanes' offsets for `n`-byte accesses (R271). -/
def checkOffsets (n : Nat) : List (Nat × Int) → Exec Unit
  | [] => pure ()
  | (i, o) :: os => if o < 0 ∨ o % n ≠ 0 ∨ 0x200000 < o + n then badAddress (wrap 21 o) i else checkOffsets n os

/-- Whether two values of 4-byte offsets lie in one aligned 8-byte chunk. -/
def sameChunk (o : Int) (i : Nat) : Bool := (o + 4 * i) / 8 == (o + 4 * (i + 1)) / 8

/-- The accesses of a contiguous form: first lane and lanes of each, from lane `i` on. -/
def pieces (o : Int) (act : BitVec 64) : Nat → Nat → List (Nat × Nat)
  | 0, _ => []
  | k + 1, i =>
    if 64 ≤ i then []
    else if !act.getLsbD i then pieces o act k (i + 1)
    else if sameChunk o i && decide (i + 1 < 64) && act.getLsbD (i + 1) then (i, 2) :: pieces o act k (i + 2)
    else (i, 1) :: pieces o act k (i + 1)

/-- One access of a vector form: its local offset and bytes, what it stores, and where what it reads goes. -/
structure SpadAcc where
  o : Nat
  n : Nat
  data : Nat := 0
  bad : Bool := false
  dst : ReqDst := .none

/-- Put the accesses of a vector form to its own scratchpad in flight. -/
def State.spadReqs (s : State) (op : ReqOp) (as : List SpadAcc) : State :=
  let t := s.cur.tid
  let grp := (s.nextId, as.length)
  as.foldl (fun s a => s.putReq
    { id := s.nextId, tid := t, op := op, pa := spad t.core a.o, n := a.n, ord := .rc, mt := 3, ten := s.ctxTenant t.core t.ctx,
      sys := t.ctx == 4, loc := true, grp := some grp, data := BitVec.ofNat 64 a.data, dbad := a.bad, dst := a.dst }) s

/-- Mark a main vector empty at the issue of a load (R171): null lanes read as zero, and the poison of chunks that the load
will write in full goes. -/
def startLoad (d : VmOp) (act zero : BitVec 64) : Exec Nat := do
  let s ← get
  let i := s.me.index (vmOpnd d)
  let r := s.me.v.get {} i
  let z := laneWrite zero fun _ => 0
  let keep := BitVec.ofNat 32 (flags 32 fun j => !(act.getLsbD (2 * j) && act.getLsbD (2 * j + 1)))
  let (id, s) := s.newId
  let s := s.modMe fun c => { c with
    v := c.v.put i { r with v := (z.merge { v := r.v }).v, bad := r.bad &&& keep, full := false } }
  set { s with delivs := s.delivs ++ [(id, Deliv.load s.cur.tid.core s.cur.tid.ctx i)] }
  pure i

/-- `VLD`, contiguous (R271). -/
def execVld (h : XpHdr) (d : VmOp) (a : BitVec 4) (imm : BitVec 32) (s : State) : Out :=
  xpWord h (do
    let (act, _) ← operands h (some (vmOpnd d)) []
    let o ← baseOffset a imm
    checkOffsets 4 ((List.range 64).filterMap fun i => if act.getLsbD i then some (i, o + 4 * i) else none)
    let v ← startLoad d act 0
    modify fun s => s.spadReqs .read ((pieces o act 64 0).map fun p =>
      { o := (o + 4 * p.1).toNat, n := 4 * p.2, dst := .vec v p.1 p.2 .n32 })
    pure none) s

/-- Check the index lanes of an indexed form: a poisoned one traps (R271). -/
def checkIndex (x : VV) (act : BitVec 64) (opnd : Nat) : Exec Unit :=
  match x.badLane act with
  | some l => trap { code := 8, opnd := opnd, lane := l, chunk := l / 2 }
  | none => pure ()

/-- The active lanes of an indexed form that make an access: lane and offset. -/
def indexed (o : Int) (z : Nat) (act : BitVec 64) (x : VV) : List (Nat × Int) :=
  (List.range 64).filterMap fun i =>
    if act.getLsbD i && x.lane i != 0xFFFFFFFF then some (i, o + (x.lane i * z : Nat)) else none

/-- `VLD`, indexed (R271): null lanes read as zero. -/
def execVldIndexed (h : XpHdr) (d : VmOp) (a : BitVec 4) (b : Opnd) (ty : Fmt) (imm : BitVec 32) (s : State) : Out :=
  xpWord h (do
    let (act, vs) ← operandsAt h (some (vmOpnd d)) [(2, b)]
    let x := vs.headD {}
    let o ← baseOffset a imm
    checkIndex x act 2
    let z := ty.bits / 8
    let ls := indexed o z act x
    checkOffsets z ls
    let nul := BitVec.ofNat 64 (flags 64 fun i => act.getLsbD i && x.lane i == 0xFFFFFFFF)
    let v ← startLoad d act nul
    modify fun s => s.spadReqs .read (ls.map fun p => { o := p.2.toNat, n := z, dst := .vec v p.1 1 ty })
    pure none) s

/-- `VST`, contiguous (R271). -/
def execVst (h : XpHdr) (a : BitVec 4) (b : Opnd) (imm : BitVec 32) (s : State) : Out :=
  xpWord h (do
    let (act, vs) ← operandsAt h none [(2, b)]
    let x := vs.getD 0 {}
    let o ← baseOffset a imm
    checkOffsets 4 ((List.range 64).filterMap fun i => if act.getLsbD i then some (i, o + 4 * i) else none)
    modify fun s => s.spadReqs .write ((pieces o act 64 0).map fun p =>
      { o := (o + 4 * p.1).toNat, n := 4 * p.2, data := fields 32 p.2 fun i => x.lane (p.1 + i),
        bad := x.laneBad p.1 || x.laneBad (p.1 + p.2 - 1) })
    pure none) s

/-- `VST`, indexed (R271): lanes write in ascending order. -/
def execVstIndexed (h : XpHdr) (a : BitVec 4) (b c : Opnd) (ty : Fmt) (imm : BitVec 32) (s : State) : Out :=
  xpWord h (do
    let (act, vs) ← operandsAt h none [(2, b), (3, c)]
    let x := vs.getD 0 {}
    let y := vs.getD 1 {}
    let o ← baseOffset a imm
    checkIndex y act 3
    let z := ty.bits / 8
    let ls := indexed o z act y
    checkOffsets z ls
    modify fun s => s.spadReqs .write (ls.map fun p => { o := p.2.toNat, n := z, data := x.lane p.1, bad := x.laneBad p.1 })
    pure none) s

end Sys2Proof.Machine
end

