-- ==== Sys2Proof/Machine/XpMatrix.lean ====
section
/-! DEFINITION. Matrix, scout and tile-mask words (R293 to R306): what they read at issue and what they put into the queues. -/

namespace Sys2Proof.Machine
open Sys2Proof

/-- The forms of C0h to DFh trap in the system context (R277, R293). -/
def userOnly : Exec Unit := do
  let s ← get
  if s.cur.tid.ctx = 4 then illegal else pure ()

/-! ## Tile-mask registers -/

/-- What keeps a tile-mask register from being read, or written (R171, R240 step 3). -/
def State.gStop (s : State) (g : BitVec 3) (t : Bool) (opnd : Nat) : Option Stop :=
  if (s.me.greg g).full then none else if t then some (.trap { code := 3, opnd := opnd }) else some .hold

/-- A tile-mask register that selects work: poison traps (R290, R291). -/
def needG (g : BitVec 3) : Exec (BitVec 64) := do
  let s ← get
  let r := s.me.greg g
  if r.bad then poisonTrap 5 else pure r.v

/-- Write a tile-mask register that is full (R305). -/
def writeG (g : BitVec 3) (v : BitVec 64) (bad : Bool) : Exec Unit :=
  modify fun s => s.modMe fun c => { c with g := c.g.put g.toNat { v := v, bad := bad, full := true } }

/-! ## The array queue (R282) -/

/-- Put an operation into the array queue; a full queue holds the word. -/
def enqueue (op : ArrOp) : Exec Unit := do
  let s ← get
  let k := s.cur.tid.core
  if 8 ≤ (s.core k).arrayQ.length then hold
  else set (s.modCore k fun c => { c with arrayQ := c.arrayQ ++ [op] })

def modMx (f : Mx → Mx) : Exec Unit := modify fun s => s.modMe fun c => { c with mx := f c.mx }

/-! ## Weight loads (R295) -/

/-- The bank after the restart of R278, if the load restarts it. -/
def restarts (b : Bank) (f : Fmt) (rm : Bool) : Bool := b.fp == 0 || b.fmt != f || b.rowMajor != rm

/-- The fill pointer after the whole groups that a mask prunes (R291). -/
def skipGroups (g : BitVec 64) (mbase n e : Nat) : Nat → Nat → Nat
  | 0, fp => fp
  | k + 1, fp =>
    if fp < e ∧ fp % n = 0 ∧ !g.getLsbD ((mbase + fp / n) % 64) then skipGroups g mbase n e k (fp + n) else fp

/-- The shadow bank as a weight load of a format meets it, and the fill pointer at which it loads (R278, R291). -/
def mwldPlace (w : MwldOpts) (f : Fmt) (b : Bank) : Exec (Bank × Nat) := do
  let b ← if restarts b f w.rowMajor then do
      let band ← match w.band with
        | some x => needX x 2
        | none => pure 0x3F80
      pure { b with fmt := f, rowMajor := w.rowMajor, fp := 0, band := BitVec.ofNat 16 band }
    else pure b
  let e := fillElems f w.rowMajor
  let fp ← match w.mask with
    | some m => do
      let g ← needG m.g
      pure (skipGroups g m.mbase.toNat (64 / vecsOf f) e 5 b.fp)
    | none => pure b.fp
  if fp = e then illegal else pure (b, fp)

/-- The body of a weight load of a format. -/
def mwldBody (a : Opnd) (w : MwldOpts) (f : Fmt) : Exec Next := do
  userOnly
  let s ← get
  let sh := !s.me.mx.actB
  if w.rowMajor ∧ (f = .f4 ∨ w.mask.isSome) then illegal
  else if w.band.isSome ∧ isInt f then illegal
  else do
    let ((b, fp), vs) ← sources none [(1, a)] (mwldPlace w f (s.me.mx.bank sh)) [w.mask.bind fun m => s.gStop m.g m.gte 5]
    let x := vs.headD {}
    enqueue (.load s.cur.tid.ctx sh f w.rowMajor fp x.v x.bad)
    modMx (·.setBank sh { b with fp := fp + 1 })
    pure none

def mwldWord (h : XpHdr) (a : Opnd) (w : MwldOpts) (f : Fmt) (s : State) : Out := xpWord h (mwldBody a w f) s

/-- `MWLD.F4` (R295). -/
def execMwldF4 (h : XpHdr) (a : Opnd) (w : MwldOpts) (s : State) : Out := mwldWord h a w .f4 s
/-- `MWLD.E4M3` (R295). -/
def execMwldE4m3 (h : XpHdr) (a : Opnd) (w : MwldOpts) (s : State) : Out := mwldWord h a w .e4m3 s
/-- `MWLD.E5M2` (R295). -/
def execMwldE5m2 (h : XpHdr) (a : Opnd) (w : MwldOpts) (s : State) : Out := mwldWord h a w .e5m2 s
/-- `MWLD.BF16` (R295). -/
def execMwldBf16 (h : XpHdr) (a : Opnd) (w : MwldOpts) (s : State) : Out := mwldWord h a w .bf16 s
/-- `MWLD.F16` (R295). -/
def execMwldF16 (h : XpHdr) (a : Opnd) (w : MwldOpts) (s : State) : Out := mwldWord h a w .f16 s
/-- `MWLD.I8` (R295). -/
def execMwldI8 (h : XpHdr) (a : Opnd) (w : MwldOpts) (s : State) : Out := mwldWord h a w .i8 s
/-- `MWLD.N8` (R295). -/
def execMwldN8 (h : XpHdr) (a : Opnd) (w : MwldOpts) (s : State) : Out := mwldWord h a w .n8 s
/-- `MWLD.I4` (R295). -/
def execMwldI4 (h : XpHdr) (a : Opnd) (w : MwldOpts) (s : State) : Out := mwldWord h a w .i4 s
/-- `MWLD.N4` (R295). -/
def execMwldN4 (h : XpHdr) (a : Opnd) (w : MwldOpts) (s : State) : Out := mwldWord h a w .n4 s

/-! ## Constant forms (R280, R296) and the swap (R297) -/

/-- Fill the shadow bank with a constant matrix. -/
def fillShadow (f : Fmt) (ones : List (Nat × Nat)) : Exec Next := do
  let s ← get
  let sh := !s.me.mx.actB
  enqueue (.fill s.cur.tid.ctx sh f ones)
  modMx fun m => m.setBank sh { m.bank sh with fmt := f, rowMajor := false, fp := fillElems f false, band := 0x3F80 }
  pure none

/-- `MWID` (R296). -/
def execMwid (h : XpHdr) (ty : Fmt) (s : State) : Out :=
  xpWord h (do
    userOnly
    fillShadow ty ((List.range 64).map fun k => (k, k))) s
/-- `MWPERM` (R296). -/
def execMwperm (h : XpHdr) (a : Opnd) (ty : Fmt) (s : State) : Out :=
  xpWord h (do
    userOnly
    let (act, vs) ← operandsAt h none [(1, a)]
    let x := vs.headD {}
    checkIndex x act 1
    fillShadow ty ((List.range 64).filterMap fun c => if x.lane c < 64 then some (x.lane c, c) else none)) s
/-- `MWONES` (R296). -/
def execMwones (h : XpHdr) (ty : Fmt) (s : State) : Out :=
  xpWord h (do
    userOnly
    fillShadow ty ((List.range 64).flatMap fun k => (List.range 64).map fun c => (k, c))) s
/-- `MWSEL` (R296). -/
def execMwsel (h : XpHdr) (a : BitVec 3) (ty : Fmt) (s : State) : Out :=
  xpWord h (do
    userOnly
    let m ← needM a 1
    let ks := (List.range 64).filter fun k => m.getLsbD k
    fillShadow ty (ks.zip (List.range 64))) s

/-- `MWSWP` (R297). -/
def execMwswp (h : XpHdr) (s : State) : Out :=
  xpWord h (do
    userOnly
    let s ← get
    enqueue (.swap s.cur.tid.ctx)
    modMx fun m => { m.setBank m.actB { m.bank m.actB with fp := 0 } with actB := !m.actB }
    pure none) s

/-! ## Multiplication (R298, R299) -/

/-- The activation format and scale of a multiplication's source; a stream of integers has no scale (R48). -/
def actSource (a : Opnd) (ty : Fmt) : Exec (Fmt × BitVec 32) := do
  let s ← get
  if a.lvl = .port then
    let c := (s.me.port a.idx.toNat).cfg
    let sc : BitVec 32 := if isInt (Conf.fmt c) then 0x3F800000 else BitVec.ofNat 32 (Conf.scale c)
    match s.srcStop 1 a with
    | some (.trap i) => if i.code = 1 then trap i else pure (Conf.fmt c, sc)
    | _ => pure (Conf.fmt c, sc)
  else pure (ty, 0x3F800000)

/-- The mask of a masked multiplication: register, trap bit, base, groups (R290). -/
structure MulMask where
  g : BitVec 3
  gte : Bool
  mbase : Nat
  groups : Nat

/-- Which column groups of a format issue. -/
def groupsKept (f : Fmt) (g : Option (BitVec 64 × Nat × Nat)) : List Bool :=
  (List.range (arrayCols f / 64)).map fun j => match g with
    | some (v, mb, ng) => decide (j < ng) && v.getLsbD ((mb + j) % 64)
    | none => true

/-- The body of a multiplication. -/
def mmulBody (a : Opnd) (ty : Fmt) (abase : Nat) (mask : Option MulMask) (ovw : Bool) : Exec Next := do
  userOnly
  let (f, sc) ← actSource a ty
  if ¬ isActFmt f then illegal
  else if 64 < abase + vecsOf f then illegal
  else do
    let s ← get
    let act := s.me.mx.actB
    let b := s.me.mx.bank act
    if mask.any fun m => b.rowMajor || decide (arrayCols b.fmt / 64 < m.groups) then illegal else do
    let (g, vs) ← sources none [(1, a)] (match mask with
        | some m => do
          let v ← needG m.g
          pure (some (v, m.mbase, m.groups))
        | none => pure none)
      [mask.bind fun m => s.gStop m.g m.gte 5]
    let x := vs.headD {}
    match elemBad f x.bad with
    | some (_, j) => trap { code := 8, opnd := 1, lane := 2 * j, chunk := j }
    | none => do
      enqueue (.mul s.cur.tid.ctx act false f b.fmt b.rowMajor b.band sc abase ovw (groupsKept b.fmt g) x.v s.cur.op s.cur.pc)
      pure none

/-- `MMUL` (R298). -/
def execMmul (h : XpHdr) (a : Opnd) (ty : Fmt) (abase : BitVec 6) (s : State) : Out :=
  xpWord h (mmulBody a ty abase.toNat none false) s
/-- `MMULZ` (R298). -/
def execMmulz (h : XpHdr) (a : Opnd) (ty : Fmt) (abase : BitVec 6) (s : State) : Out :=
  xpWord h (mmulBody a ty abase.toNat none true) s
/-- `MMULM` (R298). -/
def execMmulm (h : XpHdr) (a : Opnd) (ty : Fmt) (abase : BitVec 6) (g : BitVec 3) (mbase : BitVec 6) (ngm1 : BitVec 2)
    (gte : Bool) (s : State) : Out :=
  xpWord h (mmulBody a ty abase.toNat (some ⟨g, gte, mbase.toNat, ngm1.toNat + 1⟩) false) s
/-- `MMULMZ` (R298). -/
def execMmulmz (h : XpHdr) (a : Opnd) (ty : Fmt) (abase : BitVec 6) (g : BitVec 3) (mbase : BitVec 6) (ngm1 : BitVec 2)
    (gte : Bool) (s : State) : Out :=
  xpWord h (mmulBody a ty abase.toNat (some ⟨g, gte, mbase.toNat, ngm1.toNat + 1⟩) true) s

/-! ## Readout and clear (R301, R302) -/

/-- `MACRD` to a register (R301). -/
def execMacrd (h : XpHdr) (d : VmOp) (row : BitVec 6) (cg : BitVec 2) (clr : Bool) (s : State) : Out :=
  xpWord h (do
    userOnly
    let _ ← operandsAt h (some (vmOpnd d)) []
    let s ← get
    let i := s.me.index (vmOpnd d)
    enqueue (.read s.cur.tid.ctx row.toNat cg.toNat clr i)
    modify fun s => s.modMe fun c => { c with v := c.v.put i { c.v.get {} i with full := false } }
    pure none) s

/-- `MACRD` to scratchpad (R301, R306): its accesses wait for the data of the readout. -/
def execMacrdScratchpad (h : XpHdr) (a : BitVec 4) (row : BitVec 6) (cg : BitVec 2) (clr : Bool) (s : State) : Out :=
  xpWord h (do
    userOnly
    let o ← needX a 1
    if o % 4 ≠ 0 ∨ 0x200000 < o + 256 then badAddress o
    else do
      let s ← get
      enqueue (.readSp s.cur.tid.ctx row.toNat cg.toNat clr s.nextId)
      modify fun s =>
        let first := s.nextId
        let s := s.spadReqs .write ((pieces o (BitVec.allOnes 64) 64 0).map fun p => { o := o + 4 * p.1, n := 4 * p.2 })
        { s with reqs := s.reqs.map fun q => if first ≤ q.id then { q with ready := false } else q }
      pure none) s

/-- `MACCLR` (R302). -/
def execMacclr (h : XpHdr) (row nrm1 : BitVec 6) (s : State) : Out :=
  xpWord h (do
    userOnly
    let s ← get
    enqueue (.clear s.cur.tid.ctx row.toNat (nrm1.toNat + 1))
    pure none) s

/-! ## The scout (R303) -/

/-- Put an operation into the scout queue; a full queue holds the word. -/
def enqueueScout (op : ScoutOp) (room : Nat) : Exec Unit := do
  let s ← get
  let k := s.cur.tid.core
  if room ≤ (s.core k).scoutQ.length then hold
  else set (s.modCore k fun c => { c with scoutQ := c.scoutQ ++ [op] })

/-- `MSCOUT query` (R303). -/
def execMscoutQuery (h : XpHdr) (a : Opnd) (eidx : BitVec 5) (s : State) : Out :=
  xpWord h (do
    userOnly
    let (_, vs) ← operandsAt h none [(1, a)]
    let x := vs.headD {}
    let s ← get
    enqueueScout (.query s.cur.tid.ctx eidx.toNat x.v x.bad) 4
    pure none) s

/-- `MSCOUT key` (R303). -/
def execMscoutKey (h : XpHdr) (a : Opnd) (eidx : BitVec 5) (s : State) : Out :=
  xpWord h (do
    userOnly
    let (_, vs) ← operandsAt h none [(1, a)]
    let x := vs.headD {}
    let s ← get
    enqueueScout (.key s.cur.tid.ctx eidx.toNat x.v x.bad) 4
    modMx fun m => { m with recv := m.recv ||| ((1 : BitVec 32) <<< eidx.toNat) }
    pure none) s

/-- `MSCOUT score` (R303): it issues when the core's scout queue is empty. -/
def execMscoutScore (h : XpHdr) (d a : Opnd) (eidx : BitVec 5) (nqm1 nkm1 slane : BitVec 6) (nsegm1 : Bool) (s : State) : Out :=
  xpWord h (do
    userOnly
    let s ← get
    let segs := nsegm1.toNat + 1
    let recv := s.me.mx.recv ||| ((1 : BitVec 32) <<< eidx.toNat)
    if 16 * segs ≤ eidx.toNat ∨ recv.toNat % 2 ^ (16 * segs) ≠ 2 ^ (16 * segs) - 1 then illegal
    else do
      let (_, vs) ← operandsAt h (some d) [(1, a)]
      let x := vs.headD {}
      let s ← get
      let i := s.me.index d
      enqueueScout (.score s.cur.tid.ctx eidx.toNat (nqm1.toNat + 1) (nkm1.toNat + 1) segs slane.toNat d.lvl i x.v x.bad) 1
      modify fun s => s.modMe fun c =>
        ({ c with mx := { c.mx with recv := 0 } } : Ctx).modVReg d.lvl i fun r => { r with busy := true }
      pure none) s

/-! ## The Cairn unit and tile-mask logic (R304, R305) -/

/-- `MCAIRN` (R304): every source is read at issue; a poisoned input poisons the mask and does not trap. -/
def execMcairn (h : XpHdr) (d : BitVec 3) (a : Opnd) (b : BitVec 4) (c : BitVec 3) (s : State) : Out :=
  xpWord h (do
    userOnly
    let s ← get
    let (_, vs) ← sources none [(1, a)] (pure ()) [s.gStop d false 0]
    let x := vs.headD {}
    let s ← get
    let l := s.me.mreg h.lmask
    let k := s.me.mreg c
    let t := s.me.xreg b
    let bad := l.bad || k.bad || t.bad || (x.badLane l.v).isSome
    let (id, s) := s.newId
    let g := BitVec.ofNat 64 (cairnMask x.v t.v.toNat l.v k.v)
    let s := s.modMe fun m => { m with g := m.g.put d.toNat { m.greg d with full := false } }
    set { s with delivs := s.delivs ++ [(id, Deliv.mask s.cur.tid.core s.cur.tid.ctx d.toNat g bad)] }
    pure none) s

/-- A tile-mask form with two sources (R305). -/
def gForm (h : XpHdr) (d : BitVec 3) (a b : GSrc) (f : BitVec 64 → BitVec 64 → BitVec 64) (s : State) : Out :=
  xpWord h (do
    userOnly
    let s ← get
    settleStops [s.gStop a.g a.trap 1, s.gStop b.g b.trap 2, s.gStop d false 0]
    let x := s.me.greg a.g
    let y := s.me.greg b.g
    writeG d (f x.v y.v) (x.bad || y.bad)
    pure none) s

/-- `GAND` (R305). -/
def execGand (h : XpHdr) (d : BitVec 3) (a b : GSrc) (s : State) : Out := gForm h d a b (· &&& ·) s
/-- `GOR` (R305). -/
def execGor (h : XpHdr) (d : BitVec 3) (a b : GSrc) (s : State) : Out := gForm h d a b (· ||| ·) s
/-- `GANDN` (R305). -/
def execGandn (h : XpHdr) (d : BitVec 3) (a b : GSrc) (s : State) : Out := gForm h d a b (fun x y => x &&& ~~~y) s
/-- `GSET` (R305). -/
def execGset (h : XpHdr) (d a : BitVec 3) (s : State) : Out :=
  xpWord h (do
    userOnly
    let s ← get
    let m := s.me.mreg a
    settleStops [s.gStop d false 0]
    writeG d m.v m.bad
    pure none) s
/-- `GGET` (R305). -/
def execGget (h : XpHdr) (d : BitVec 3) (a : GSrc) (s : State) : Out :=
  xpWord h (do
    userOnly
    let s ← get
    settleStops [s.gStop a.g a.trap 1]
    let r := s.me.greg a.g
    modify fun s => s.modMe (·.setM d { v := r.v, bad := r.bad })
    pure none) s

end Sys2Proof.Machine
end

