-- ==== Sys2Proof/Machine/XpSystem.lean ====
section
/-! DEFINITION. Wait, synchronisation and system forms of the XP (R314, R326, R336, R341 to R349). -/

namespace Sys2Proof.Machine
open Sys2Proof

/-- `RDV` (R341). -/
def execXpRdv (h : XpHdr) (s : State) : Out := xpWord h rdvBody s

/-- `WAIT` (R326). -/
def execXpWait (h : XpHdr) (d a b : BitVec 4) (all : Bool) (ncm1 : BitVec 2) (imm : BitVec 32) (s : State) : Out :=
  xpWordLate h (do
    let o ← baseOffset a imm
    let l ← needX b 2
    if o < 0 then badAddress (wrap 21 o)
    else waitBody o.toNat l all (ncm1.toNat + 1) fun r => writeX d r) s

/-- Take entries from the head of a work list. -/
def WorkList.take (w : WorkList) (n : Nat) : List (BitVec 32 × Bool) × WorkList :=
  let fromFront := w.front.take n
  let rest := n - fromFront.length
  if w.spN = 0 then
    (fromFront ++ w.back.take rest, { w with front := w.front.drop n, back := w.back.drop rest })
  else (fromFront, { w with front := w.front.drop n })

/-- The body of WLPOPV (R336): it waits while spilled entries must come back first. -/
def wlpopvBody (h : XpHdr) (d : VmOp) (xn : BitVec 4) : Exec Next := do
  let (act, _) ← operandsAt h (some (vmOpnd d)) []
  checkWorkList
  let s ← get
  let w := s.me.wl
  let ls := (List.range 64).filter fun i => act.getLsbD i
  let n := Nat.min w.count ls.length
  if 0 < w.spN ∧ w.front.length < n then waitHere
  else do
    let (es, w) := w.take n
    set (s.modMe fun c => { c with wl := w })
    let entryOf := fun i => (es[(ls.filter (· < i)).length]?)
    putV (vmOpnd d) (moveWrite act fun i => match entryOf i with
      | some (v, bad) => (v.toNat, bad)
      | none => (0xFFFFFFFF, false))
    writeX xn n
    pure none

/-- `WLPOPV` (R336). -/
def execWlpopv (h : XpHdr) (d : VmOp) (xn : BitVec 4) (s : State) : Out := xpWord h (wlpopvBody h d xn) s

/-- `IFENCE` (R189): in this model the writes of an observed copy are in IMEM and templates already (log entry 13). -/
def execXpIfence (h : XpHdr) (s : State) : Out := xpWord h (pure none) s

/-- `RDSR` (R347). -/
def execXpRdsr (h : XpHdr) (d : BitVec 4) (half : Bool) (srn : BitVec 8) (s : State) : Out :=
  xpWord h (do
    let v ← readSr srn.toNat
    writeX d (v / 2 ^ (32 * half.toNat))
    pure none) s

/-- `WRSR` (R347). -/
def execXpWrsr (h : XpHdr) (a : BitVec 4) (srn : BitVec 8) (s : State) : Out :=
  xpWord h (do
    checkSr srn.toNat true
    let x ← needX a 1
    writeSr srn.toNat (BitVec.ofNat 64 x)
    pure none) s

/-- `YIELD` (R344). -/
def execXpYield (h : XpHdr) (s : State) : Out := xpWord h yieldBody s

/-- `TRAP` (R345). -/
def execXpTrap (h : XpHdr) (code : BitVec 16) (s : State) : Out :=
  xpWord h (stop (.soft { code := 14, swcode := code.toNat })) s

/-- Whether the context's queued operations and long-latency values are all done (R342 step 1). -/
def State.unitsQuiet (s : State) (k x : Nat) : Bool :=
  (s.core k).arrayQ.all (fun o => arrCtx o != x) && (s.core k).scoutQ.all (fun o => scoutCtx o != x)
    && s.delivs.all fun d => delivAt d.2 != (k, x)

/-- `DONE` (R342): the XP becomes idle once its units are quiet and its writes have performed at CORE scope. -/
def execXpDone (h : XpHdr) (s : State) : Out :=
  xpWord h (do
    let s ← get
    let t := s.cur.tid
    if s.unitsQuiet t.core t.ctx && !(s.reqs.any fun q => decide (q.tid = t) && q.lacks .core) then pure () else waitHere
    set (s.modMe fun c => { c with xp := { c.xp with active := false, rdv := .none } })
    pure none) s

/-- `NOP` (R314). -/
def execXpNop (h : XpHdr) (s : State) : Out := xpWord h (pure none) s

/-- `FENCE.ACQ` (R349). -/
def execXpFenceAcq (h : XpHdr) (_sc : Scope) (s : State) : Out := xpWord h (do awaitLoads; pure none) s
/-- `FENCE.REL` (R349). -/
def execXpFenceRel (h : XpHdr) (sc : Scope) (s : State) : Out := xpWord h (do awaitRelease sc; pure none) s
/-- `FENCE.SC` (R349, R363). -/
def execXpFenceSc (h : XpHdr) (sc : Scope) (s : State) : Out := xpWord h (do awaitRelease sc true; pure none) s

end Sys2Proof.Machine
end

