-- ==== Sys2Proof/Machine/CoreEvents.lean ====
section
/-! DEFINITION. Steps inside a core: waits that end, the watchdog, barrier messages, handlers, freezes, work lists, the array
and scout queues (R10, R282, R300, R323, R330, R337, R401, R406, R420). -/

namespace Sys2Proof.Machine
open Sys2Proof

/-! ## Waits -/

/-- Put turns at the head of the schedule. -/
def State.atOnce (s : State) (ts : List Turn) : State := { s with agenda := ts ++ s.agenda }

/-- A turn in which a half that waits tries its word again, in a cycle in which no other context is ready. -/
def retry (t : Tid) : Turn := { act := .issue t, cycles := 1, late := otherCtxs t.ctx }

/-- `STALL_RELEASE` (R10): a word stalled in a wait is tried again; it proceeds where its condition holds. -/
def execStallRelease (t : Tid) (s : State) : Out :=
  .next (if (s.half t).stall.isSome then s.atOnce [retry t] else s)

/-- Whether a half waits in a word whose deadline has come. -/
def State.deadlineCome (s : State) (t : Tid) : Bool :=
  match (s.half t).stall.bind (·.deadline) with
  | some d => decide (d ≤ s.gtc)
  | none => false

/-- `WAIT_TIMEOUT` (R323): GTC has reached the deadline of a WAIT, whose word is tried again: it ends with TO unless its
conditions hold. -/
def execWaitTimeout (t : Tid) (s : State) : Out :=
  .next (if s.runnable t && s.deadlineCome t then s.atOnce [retry t] else s)

/-- The ticks that a half has waited (R406). -/
def Stall.waited (w : Stall) (gtc : Nat) : Nat := w.acc + (gtc - w.since)

/-- The operation word of a half that waits: as it was fetched, or of the group at its program counter; zero where that forms
none. -/
def State.wordAt (s : State) (t : Tid) : BitVec 128 :=
  let h := s.half t
  match h.word with
  | some c => c.op
  | none =>
  match decodeGroup 0 [] ((s.core t.core).imemWords h.pc 5) with
  | .error _ => 0
  | .ok g =>
    match g.group with
    | .literal _ _ op => op
    | .patched n ps =>
      match applyPatches ps (h.tmpl.get 0 n) with
      | .ok op => op
      | .error _ => 0

/-- `WATCHDOG` (R406): a half of a user context that has waited for the limit traps at the waiting word. An AP word inside
an elided region aborts the region instead (R224). -/
def execWatchdog (t : Tid) (s : State) : Out :=
  .next <|
    let limit := (s.core t.core).watchdog.toNat
    match (s.half t).stall with
    | none => s
    | some w =>
      if t.ctx = 4 || !s.runnable t || limit = 0 || decide (w.waited s.gtc < limit) then s
      else if t.half = .ap ∧ (s.ctx t.core t.ctx).elide.isSome then
        s.modCtx t.core t.ctx fun c => match c.elide with
          | some e => c.abort e 0 4
          | none => c
      else (s.takeTrap t (s.half t).pc (s.wordAt t) { code := 13 }).modHalf t fun h =>
        { h with stall := h.stall.map fun w => { w with acc := 0 } }

/-! ## Barriers (R330, R332) -/

/-- An arrival at its barrier: it counts, or it is dropped and logged where the barrier is uninitialised. -/
def State.arriveBar (s : State) (m : BarMsg) : State :=
  let s := { s with barMsgs := s.barMsgs.filter fun n => n.id != m.id }
  let b := s.bar m.core m.bar
  if b.e = 0 then
    s.logError (s.coreTenant m.src.core) { cls := 4, core := m.src.core, ctx := m.src.ctx, sys := m.src.ctx == 4, d0 := m.core, d1 := m.bar }
  else s.setBar m.core m.bar b.arrive

/-- `BARRIER_ARRIVAL_MESSAGE` (R330): an arrival of BARRX reaches its target, unless a freeze of the core that sent it stops it
(R332, R420). -/
def execBarrierArrivalMessage (id : Nat) (s : State) : Out :=
  .next <| match s.barMsgs.find? fun m => m.id == id with
  | some m =>
    if s.farCut m.src.core m.core || s.frozen m.src.core then s
    else if s.frozen m.core then s.holdAt m.core (.barrier id)
    else s.arriveBar m
  | none => s

/-! ## Handlers (R401) -/

/-- Start the AP of a core's system context at SR_TRAPENTRY. -/
def State.startHandler (s : State) (k : Nat) (x : Option Nat) : State :=
  (s.modCore k fun c => { c with handling := x }).modCtx k 4 fun c =>
    { c with ap := { c.ap with pc := (s.core k).trapEntry.toNat, active := true, stall := none } }

/-- `HANDLER_DISPATCH` (R401): an idle system context takes the lowest trapped context, or else a parked stream. -/
def execHandlerDispatch (core : Nat) (s : State) : Out :=
  .next <|
    let c := s.core core
    if (c.ctx 4).ap.active || c.doubleTrap || s.frozen core then s else
    match (List.range 4).find? fun x => (c.ctx x).pend with
    | some x => s.startHandler core (some x)
    | none => if c.parkList.isEmpty then s else s.startHandler core none

/-! ## Freezes (R420) -/

/-- `CORRECTABLE_ERROR_FREEZE` (R420): a correctable error of a kind of storage, at a place: the core freezes for 24 cc more. -/
def execCorrectableErrorFreeze (err : FoundError) (s : State) : Out := .next (s.correctable err.core err.storage err.loc)

/-! ## Work lists (R337) -/

/-- The virtual address of a chunk of the spill region. -/
def WorkList.chunkAt (w : WorkList) (i : Nat) : Nat := w.base.toNat + 2048 * (i % Nat.max 1 w.nch)

def State.setWl (s : State) (k x : Nat) (w : WorkList) : State := s.modCtx k x fun c => { c with wl := w }

/-- The 8-byte words of a chunk of entries, with their poison. -/
def entryWords : List (BitVec 32 × Bool) → List (List Byte × Bool)
  | [] => []
  | [e] => [(leBytes 4 e.1.toNat, e.2)]
  | e :: f :: es => (leBytes 4 e.1.toNat ++ leBytes 4 f.1.toNat, e.2 || f.2) :: entryWords es

/-- Writes of words from an address on. -/
def State.writeWords (s : State) (r : Src) (pa : Nat) : List (List Byte × Bool) → State
  | [] => s
  | (bs, b) :: ws => State.writeWords (s.memWrite r pa bs b).2 r (pa + bs.length) ws

/-- Translate a chunk of a work list for its thread (REQ Ah): a fault sets FLT and keeps the descriptor. -/
def State.wlTranslate (s : State) (k x va : Nat) (acc : AccessKind) : Except State (Nat × State) :=
  let w := (s.ctx k x).wl
  match s.xlat (s.rq k x 10) va 2048 2048 acc with
  | (.error f, s) => .error (s.setWl k x { w with flt := true, desc := f })
  | (.ok p, s) => if s.notNow k p.pa 2048 then .error s else .ok (p.pa, s)

/-- `WORK_LIST_SPILL` (R337): the oldest 512 of the newest entries go to the region. -/
def execWorkListSpill (core ctx : Nat) (s : State) : Out :=
  .next <|
    let w := (s.ctx core ctx).wl
    if w.flt || decide (w.back.length < 512) || decide (w.nch ≤ w.spN) || s.frozen core then s else
    match s.wlTranslate core ctx (w.chunkAt (w.spAt + w.spN)) .write with
    | .error s => s
    | .ok (pa, s) =>
      (s.writeWords (s.src core ctx) pa (entryWords (w.back.take 512))).setWl core ctx
        { w with back := w.back.drop 512, spN := w.spN + 1 }

/-- The entries of a chunk, each with its poison. -/
def State.readEntries (s : State) (r : Src) (pa : Nat) : List (BitVec 32 × Bool) × State :=
  let ok := s.windowOk r.ten pa (pa + 2047) .read
  let (bs, _, s') := s.memRead r pa 2048
  ((List.range 512).map fun i =>
    (BitVec.ofNat 32 (leNat ((bs.drop (4 * i)).take 4)), !ok || s.badIn (pa + 4 * i) 4), s')

/-- `WORK_LIST_REFILL` (R337): the oldest chunk comes back. Where the chip, which holds 4096 entries (R333), has no room for it, the oldest 512
of the newest entries go to the region in the same step (log entry 125). -/
def execWorkListRefill (core ctx : Nat) (s : State) : Out :=
  .next <|
    let w := (s.ctx core ctx).wl
    let room := decide (w.onChip + 512 ≤ 4096)
    if w.flt || w.spN == 0 || decide (2048 < w.front.length) || s.frozen core then s else
    match s.wlTranslate core ctx (w.chunkAt w.spAt) .read with
    | .error s => s
    | .ok (pa, s) =>
      let next := { w with spN := w.spN - 1, spAt := (w.spAt + 1) % Nat.max 1 w.nch }
      if room then
        let (es, s) := s.readEntries (s.src core ctx) pa
        s.setWl core ctx { next with front := w.front ++ es }
      else match s.wlTranslate core ctx (w.chunkAt (w.spAt + w.spN)) .write with
        | .error s => s
        | .ok (pw, s) =>
          let (es, s) := s.readEntries (s.src core ctx) pa
          (s.writeWords (s.src core ctx) pw (entryWords (w.back.take 512))).setWl core ctx
            { next with front := w.front ++ es, back := w.back.drop 512, spN := w.spN }

/-! ## The array and the scout (R282, R300) -/

/-- `ARRAY_OPERATION` (R282): the operation at the head of the array queue runs. -/
def execArrayOperation (core : Nat) (s : State) : Out := .next (if s.frozen core then s else s.runArray core)

/-- `SCOUT_OPERATION` (R282): the operation at the head of the scout queue runs. -/
def execScoutOperation (core : Nat) (s : State) : Out := .next (if s.frozen core then s else s.runScout core)

/-- `DEFERRED_POISON_TRAP` (R300): a pending trap of a multiplication is taken while the XP stands at a boundary. -/
def execDeferredPoisonTrap (core ctx : Nat) (s : State) : Out :=
  .next <|
    let c := s.ctx core ctx
    match c.mx.pend with
    | some m =>
      if c.trapped || c.halted || c.ending || c.bind.isNone || c.xp.inWord || s.frozen core then s else s.takeMmTrap core ctx m
    | none => s

end Sys2Proof.Machine
end

