-- ==== Sys2Proof/Machine/LinkEvents.lean ====
section
/-! DEFINITION. Links: the bridge and the Nymay ports retrain, go down and come up; requests of a peer (R156, R425, R426, R456). -/

namespace Sys2Proof.Machine
open Sys2Proof

/-! ## The bridge -/

/-- The ticks of 1 ns that a retrain may take (R425). -/
def retrainLimit : Nat := 100000

/-- Whether two cores lie on different dies. -/
def apart (j k : Nat) : Bool := j / 128 != k / 128

def State.modBridge (s : State) (f : Bridge → Bridge) : State := { s with dev := { s.dev with bridge := f s.dev.bridge } }

/-- `BRIDGE_RETRAIN_EVENT` (R425). -/
def execBridgeRetrainEvent (s : State) : Out :=
  .next (if s.dev.bridge.up && s.dev.bridge.retrain.isNone && !s.dev.tripped then s.modBridge fun b => { b with retrain := some s.gtc } else s)

/-- `BRIDGE_TRAINING_COMPLETE` (R425, R426): a retrain of a bridge that is up, within 100 µs, is logged as class 10 and loses
nothing; a bridge that was down is up again. -/
def execBridgeTrainingComplete (s : State) : Out :=
  .next <|
    let b := s.dev.bridge
    match b.retrain with
    | none => s
    | some t =>
      if s.dev.tripped then s
      else if !b.up then s.modBridge fun _ => { up := true, retrain := none }
      else if retrainLimit < s.gtc - t then s
      else (s.modBridge fun b => { b with retrain := none }).logError none { cls := 10 }

/-- The cores that run the chains of a tenant's transform nodes. -/
def State.nodeCores (s : State) (ten : Nat) : List Nat := s.dev.runs.filterMap fun r => match s.card r.card with
  | some c => if c.ten = ten then r.chain else none
  | none => none

/-- Tenants with work on both dies. -/
def State.spanning (s : State) : List Nat :=
  (List.range 16).filter fun t =>
    let ks := (s.boundOf t).map (·.1) ++ s.nodeCores t
    ks.any (· < 128) && ks.any (128 ≤ ·)

/-- Log a link that is down, for a tenant or the device. -/
def State.logDown (s : State) (ten : Option Nat) (core ctx d0 : Nat) : State :=
  s.logError ten { cls := 11, core := core, ctx := ctx, sys := ctx == 4, d0 := d0 }

/-- Whether work has reached the port of a core, which holds it. -/
def State.arrived (s : State) (k : Nat) (w : PortWork) : Bool := (s.core k).held.contains w

/-- Tokens on their way across the bridge are lost and logged. -/
def State.loseTokens (s : State) : State :=
  let gone := fun (t : Tok) => !t.held && apart t.src.core t.dst.core && !s.arrived t.dst.core (.token t.id)
  let lost := s.toks.filter gone
  let s := { s with toks := s.toks.filter fun t => !gone t }
  lost.foldl (fun s t => s.logDown (s.src t.src.core t.src.ctx).log t.src.core t.src.ctx t.dst.core) s

/-- Barrier arrivals on their way across the bridge are lost and logged. -/
def State.loseArrivals (s : State) : State :=
  let gone := fun (m : BarMsg) => apart m.src.core m.core && !s.arrived m.core (.barrier m.id)
  let lost := s.barMsgs.filter gone
  let s := { s with barMsgs := s.barMsgs.filter fun m => !gone m }
  lost.foldl (fun s m => s.logDown (s.src m.src.core m.src.ctx).log m.src.core m.src.ctx m.core) s

/-- The ports that send across the bridge, each with its target. -/
def State.crossing (s : State) : List ((Nat × Nat × Nat) × (Nat × Nat × Nat)) :=
  s.cores.flatMap fun k => k.2.ctxs.flatMap fun x => x.2.ports.filterMap fun p =>
    if p.2.act && Conf.pval p.2.cfg then
      match s.target k.1 x.1 p.1 with
      | some t => if apart k.1 t.1 then some ((k.1, x.1, p.1), t) else none
      | none => none
    else none

/-- The line and the element at which a sender stops: a source where it would generate, a sink at its head. -/
def Port.stopAt (p : Port) : Nat × Pos :=
  if Conf.sink p.cfg then (0, (p.lines.head?.map (·.pos)).getD p.cpos) else (p.lines.length, p.fpos)

/-- A port whose path has lost its link enters FLT with cause link down (R156, R162). -/
def State.cutPort (s : State) (m : Nat × Nat × Nat) : State :=
  let p := s.port m.1 m.2.1 m.2.2
  if !p.act then s
  else if p.flt then s.modPort m.1 m.2.1 m.2.2 fun p => { p with fltLines := 0 }
  else s.failPort m.1 m.2.1 m.2.2 p.stopAt.1 p.stopAt.2 (causeWordOf (Conf.elemVa p.cfg p.stopAt.2) 12 0)

/-- A port loses its link; one of a frozen core when its freeze ends (R420). -/
def State.tellCut (s : State) (m : Nat × Nat × Nat) : State :=
  if s.frozen m.1 then s.holdAt m.1 (.ctl m.1 (.cut m.2.1 m.2.2)) else s.cutPort m

/-- Streams across the bridge: what is on its way is dropped, with its reservations; both ends fail. -/
def State.loseStreams (s : State) : State :=
  let ms := s.crossing
  let gone := fun (e : Elem) => apart e.core e.toCore && !s.arrived e.toCore (if e.isEnd then .marker e.id else .element e.id)
  let far := (s.elems.filter gone).map fun e => ((e.core, e.ctx, e.sp), (e.toCore, e.toCtx, e.toSp))
  let s := { s with elems := s.elems.filter fun e => !gone e }
  (ms ++ far).foldl (fun s m =>
    let s := s.tellCut m.1
    if (s.port m.2.1 m.2.2.1 m.2.2.2).peerSource then s.tellCut m.2 else s) s

/-- An RREAD whose remote rows lie across the bridge ends with status 6 at the lowest of them (R127). -/
def Cmd.loseRows (q : Cmd) (k : Nat) : Cmd :=
  match q.rows.find? fun r => apart k (rreadCore r.2) with
  | some (n, _) =>
    if q.phase == .running && Blk.kind q.blk == 3 && decide (n < q.res.count) then
      Cmd.settleRows { q with
        rows := q.rows.filter fun r => decide (r.1 < n)
        srcRows := q.srcRows.filter fun r => decide (r.1 < n)
        res := { q.res with status := 6, reason := 0, count := n, fault := 0 } }
    else q
  | none => q

/-- The commands of a core lose their remote rows; those of a frozen one when its freeze ends (R420). -/
def Core.loseRows (c : Core) (k : Nat) : Core :=
  if c.freezes = 0 then { c with cmds := c.cmds.map fun q => q.loseRows k } else { c with held := c.held ++ [.ctl k .loseRows] }
def State.loseReads (s : State) : State := { s with cores := s.cores.map fun k => (k.1, k.2.loseRows k.1) }

/-- `BRIDGE_LINK_DOWN` (R426): a retrain has exceeded 100 µs. -/
def execBridgeLinkDown (s : State) : Out :=
  .next <|
    match s.dev.bridge.retrain with
    | none => s
    | some t =>
      if !s.dev.bridge.up || decide (s.gtc - t ≤ retrainLimit) then s
      else
        let s := (s.modBridge fun _ => { up := false, retrain := none }).logDown none 0 0 0
        let s := s.spanning.foldl (fun s t => s.logDown (some t) 0 0 0) s
        s.loseTokens.loseArrivals.loseStreams.loseReads

/-! ## Nymay and Ethernet ports (R456) -/

/-- `NYMAY_LINK_RETRAIN` (R456): as R425. -/
def execNymayLinkRetrain (p : Nat) (s : State) : Out :=
  .next <|
    let e := s.eth p
    if p < 8 ∧ e.up ∧ e.mode = 1 ∧ e.retrain.isNone ∧ !s.dev.tripped then s.modEth p fun e => { e with retrain := some s.gtc } else s

/-- `NYMAY_LINK_DOWN` (R456): a retrain has exceeded 100 µs, as R426. What uses the peer's window fails where it next does. -/
def execNymayLinkDown (p : Nat) (s : State) : Out :=
  .next <|
    let e := s.eth p
    match e.retrain with
    | none => s
    | some t =>
      if !e.up || e.mode != 1 || decide (s.gtc - t ≤ retrainLimit) then s
      else (s.modEth p fun e => { e with up := false, retrain := none }).logDown none 0 0 p

/-- `ETHERNET_LINK_UP` (R456): the link comes up; a retrain of a link that is up, within 100 µs, is logged as class 10. -/
def execEthernetLinkUp (p : Nat) (s : State) : Out :=
  .next <|
    let e := s.eth p
    if 8 ≤ p ∨ s.dev.tripped then s
    else if !e.up then s.modEth p fun e => { e with up := true, retrain := none }
    else match e.retrain with
      | some t =>
        if retrainLimit < s.gtc - t then s
        else (s.modEth p fun e => { e with retrain := none }).logError none { cls := 10, d0 := p }
      | none => s

/-! ## Requests from outside at memory (R60, R66, R221, R453, R456) -/

/-- A request from outside at memory: it reads, or writes, or does both at one instant; what is returned, and whether it is
poisoned. A 64-bit swap on a registered tail word is reported (R374). -/
def State.outside (s : State) (r : Src) (pa n : Nat) (op : ReqOp) (v : Nat) : List Byte × Bool × State :=
  if !s.windowOk r.ten pa (pa + n - 1) (opAccess op) then
    let (bs, s) := s.openBytes n
    (bs, true, s.refuseAt r pa)
  else
    let s := if op = .write then s else s.look none pa n
    let old := s.nat pa n
    let a := act op n old (s.badIn pa n) v false
    let s := match a.new with
      | some (w, b) => s.storeNat none pa n w b
      | none => s
    let s := if op = .swap ∧ n = 8 then s.reportSwap pa old v else s
    (leBytes n a.old, a.bad, s)

/-- A request in an aligned 8-byte word. -/
def inWord8 (pa n : Nat) : Bool := decide (0 < n) && decide (pa % 8 + n ≤ 8)
/-- An operand that an atomic takes: 4 or 8 bytes, aligned. -/
def atomicAt (op : ReqOp) (pa n : Nat) : Bool := op == .read || op == .write || ((n == 4 || n == 8) && pa % n == 0)

/-- `NYMAY_REQUEST_ARRIVAL` (R456): a request of a peer for an aligned word of this part's DRAM, scratchpads or cluster SRAM,
under the windows of the port's tenant. -/
def execNymayRequestArrival (p off n : Nat) (op : ReqOp) (v : BitVec 64) (s : State) : Out :=
  .next <|
    let e := s.eth p
    if 8 ≤ p ∨ !e.up ∨ e.mode ≠ 1 ∨ e.retrain.isSome ∨ s.dev.tripped ∨ !inWord8 off n ∨ !atomicAt op off n then s
    else if inSpad off ∧ s.frozen (spadCore off) then s
    else if !(inDram off || inSpad off || inSram off) then s
    else
      let (bs, b, s) := s.outside { ten := e.ten, log := some e.ten } off n op v.toNat
      if op = .write then s else s.modEth p fun e => { e with reply := bs, replyBad := b }

end Sys2Proof.Machine
end

