-- ==== Sys2Proof/Machine/Held.lean ====
section
/-! DEFINITION. The end of a freeze: what was held at the port of a core is applied before anything else (R325, R420, R421). -/

namespace Sys2Proof.Machine
open Sys2Proof

/-- Apply what a core has been told (R154, R224, R388, R393, R409, R426, R448). -/
def State.applyCtl (s : State) (k : Nat) : CtlWork → State
  | .halt ten => s.haltCore k ten
  | .goOn ten => s.unhaltCore k ten
  | .control x v => s.cctlNow k x v
  | .yield x => s.modCtx k x fun c => { c with yielding := c.bind.isSome }
  | .freed x n => s.freeLine k x n
  | .cut x n =>
    let p := s.port k x n
    if Conf.isPeer p.cfg && !Conf.sink p.cfg && !p.peerSource then s else s.cutPort (k, x, n)
  | .loseRows => s.modCore k (·.loseRows k)
  | .chainStop x n => s.stopChain k x n
  | .strike x => s.modCtx k x Ctx.strike

/-- Apply work held at the port of core `j`. It has reached that core: what has become of its sender or of a link since then does not stop it
(R325, R332). A reply held at the core of its row has yet to reach the core that asked for it. -/
def State.applyHeld (s : State) (j : Nat) : PortWork → State
  | .token id => match s.toks.find? fun t => t.id == id with
    | some t => s.tokenEnters t
    | none => s
  | .barrier id => match s.barMsgs.find? fun m => m.id == id with
    | some m => s.arriveBar m
    | none => s
  | .memory id ue | .atomic id ue => match s.req id with
    | some q => if q.done then s else s.performHere q ue
    | none => s
  | .loadData id => match s.req id with
    | some q => if q.done then s.loadReturn q else s
    | none => s
  | .completion k id => match (s.core k).cmd id with
    | some q => if q.phase = .ended then s.completeCmd k q else s
    | none => s
  | .post k x n => s.chainPost k x n
  | .element id => match s.elems.find? fun e => e.id == id with
    | some e => if s.lostTarget e then s.dropElem id else if (s.port e.toCore e.toCtx e.toSp).peerSource then s.accept e else s
    | none => s
  | .marker id => match s.elems.find? fun e => e.id == id with
    | some e => if s.lostTarget e then s.dropElem id else if (s.port e.toCore e.toCtx e.toSp).peerSource then s.takeEnd e else s
    | none => s
  | .reply k id n => match (s.core k).cmd id with
    | some q =>
      if q.phase != .running || !q.rows.has n then s
      else if j = k then s.replyRow k n q
      else if s.farCut k j then s
      else if s.frozen k then s.holdAt k (.reply k id n)
      else s.replyRow k n q
    | none => s
  | .ctl k w => s.applyCtl k w

/-- `FREEZE_END` (R421): a freeze of 24 cc ends. After the last one the core advances again (R7), and what was held at its port is applied first, in
the order in which it came (R325). -/
def execFreezeEnd (core : Nat) (s : State) : Out :=
  .next <|
    let c := s.core core
    if c.freezes = 0 then s
    else if c.freezes = 1 then
      c.held.foldl (fun s w => s.applyHeld core w) (s.modCore core fun c => { c with
        freezes := 0, held := [], frozenAt := none, lost := c.lost + (s.cc - c.frozenAt.getD s.cc) })
    else s.modCore core fun c => { c with freezes := c.freezes - 1 }

end Sys2Proof.Machine
end

