-- ==== Sys2Proof/Machine/RegEvents.lean ====
section
/-! DEFINITION. Steps that a read or a write of one register makes: invalidations, park service, context control, cluster
moves, ports, and register writes by the host (R78, R79, R405, R427, R448 to R451, R457). -/

namespace Sys2Proof.Machine
open Sys2Proof

/-! ## Invalidations -/

/-- `TLBI_WHOLE_TENANT` (R79): GO is written with KIND 00b. -/
def execTlbiWholeTenant (ten : Nat) (s : State) : Out :=
  hostStep (fun s => if ten ≤ 16 then s.tlbicmdWrite ten (2 ^ 31) true false else s) s

/-- `TLBI_RANGE` (R79): GO is written with KIND 01b and a length. -/
def execTlbiRange (ten : Nat) (npages : BitVec 32) (s : State) : Out :=
  hostStep (fun s => if ten ≤ 16 then s.tlbicmdWrite ten (npages.toNat * 2 ^ 32 + 2 ^ 31 + 1) true true else s) s

/-- `TLB_INVALIDATION_COMPLETE` (R79): BUSY clears once every access translated with a removed entry has performed. -/
def execTlbInvalidationComplete (ten : Nat) (s : State) : Out :=
  .next (if (s.trans ten).busy && !s.tlbiWaits ten then s.modTrans ten fun x => { x with busy := false } else s)

/-! ## Registers with a read effect -/

/-- What the system context of a core does with its own registers: a frozen core issues nothing (R420). -/
def coreStep (core : Nat) (f : State → State) (s : State) : Out := .next (if s.frozen core then s else f s)

/-- `PARKQ_READ` (R405): the next parked port leaves the queue, and its descriptor is latched. -/
def execParkqRead (core : Nat) (s : State) : Out := coreStep core (fun s => s.srReadEffect core 0x24) s

/-- `CECOUNT_READ` (R421): the count of correctable errors clears. -/
def execCecountRead (core : Nat) (s : State) : Out := coreStep core (fun s => s.srReadEffect core 0x26) s

/-- `LOST_READ` (R427): LOST of a log clears. -/
def execLostRead (ten : Nat) (s : State) : Out := hostStep (fun s => s.regTaken false true (.elcfg ten)) s

/-- `PORT_COUNTER_READ` (R459): a counter of an Ethernet port clears. -/
def execPortCounterRead (p i : Nat) (s : State) : Out := hostStep (fun s => s.regTaken true true (.count p i)) s

/-! ## Park service and context control -/

/-- `PARK_RESUME` (R405): PARK clears, and the engine translates again. -/
def execParkResume (core ctx sp : Nat) (s : State) : Out := coreStep core (fun s => s.parkResume core ctx sp) s

/-- `PARK_DELIVER` (R405): FLT is set. -/
def execParkDeliver (core ctx sp : Nat) (s : State) : Out := coreStep core (fun s => s.parkDeliver core ctx sp) s

/-- `CCTL_PARK_RESUME` (R448): PACT 01b. -/
def execCctlParkResume (core ctx sp : Nat) (s : State) : Out := hostStep (fun s => s.cctlWrite core ctx (2 ^ 16 + sp % 16)) s

/-- `CCTL_PARK_DELIVER` (R448): PACT 10b. -/
def execCctlParkDeliver (core ctx sp : Nat) (s : State) : Out := hostStep (fun s => s.cctlWrite core ctx (2 ^ 17 + sp % 16)) s

/-- `CCTL_RESUME` (R448): RESUME. -/
def execCctlResume (core ctx : Nat) (s : State) : Out := hostStep (fun s => s.cctlWrite core ctx (2 ^ 31)) s

/-! ## Clusters, the bridge, ports -/

/-- `CPART_MOVE` (R449): a write of CPART. -/
def execCpartMove (c : Nat) (v : BitVec 64) (s : State) : Out := hostStep (fun s => s.cpartWrite c v.toNat) s

/-- `CPART_MOVE_COMPLETE` (R449): the scrub is done; the cluster joins its new partition. -/
def execCpartMoveComplete (c : Nat) (s : State) : Out := .next (s.cpartDone c)

/-- `RETRAIN` (R426): RETRAIN is written; while UP it is ignored. -/
def execRetrain (s : State) : Out := hostStep State.retrainBridge s

/-- `PORT_MODE_OFF` (R457). -/
def execPortModeOff (p : Nat) (s : State) : Out := hostStep (fun s => s.portMode p 0) s

/-- `PORT_MODE_NYMAY` (R457). -/
def execPortModeNymay (p : Nat) (s : State) : Out := hostStep (fun s => s.portMode p 1) s

/-- `PORT_MODE_INGRESS` (R457). -/
def execPortModeIngress (p : Nat) (s : State) : Out := hostStep (fun s => s.portMode p 2) s

/-! ## Register writes by the host (R450, R451) -/

/-- The offset in the region of an offset in BAR0 of a function: 0 the physical function, n the virtual function of tenant
n − 1 (Table 20-4). -/
def barOffset (fn off : Nat) : Option Nat :=
  if fn = 0 then (if off < 2 ^ 32 then some off else none)
  else if 16 < fn ∨ 0x20000 ≤ off then none
  else if off < 0x10000 then some (0x1000000 + (fn - 1) * 0x10000 + off)
  else some (0x2000000 + (fn - 1) * 0x10000 + (off - 0x10000))

/-- What a write through a virtual function reaches of a register (R451): the value with the bits that it may write, none where
the register is read-only. -/
def vfMayWrite (v : Nat) : Reg → Option Nat
  | .ctr _ _ => some v
  | .ccfg _ _ => some v
  | .lpost _ => some v
  | .eltail _ => some v
  | .pctl _ => some (v % 4)
  | _ => none

/-- A write of `n` bytes to BAR0 of a function. -/
def State.barWrite (s : State) (fn off n v : Nat) : State :=
  match barOffset fn off with
  | none => s
  | some o =>
    if !regAccess o n then s
    else if fn = 0 then s.regWrite o n v
    else match vfMayWrite v (regAt (o / 8 * 8)) with
      | some v => s.regWrite o n v
      | none => s

/-- `REGISTER_WRITE` (R6, R451): the host writes a register. -/
def execRegisterWrite (fn off n : Nat) (v : BitVec 64) (s : State) : Out := hostStep (fun s => s.barWrite fn off n v.toNat) s

end Sys2Proof.Machine
end

