-- ==== Sys2Proof/Machine/HostEvents.lean ====
section
/-! DEFINITION. The host and the package: BAR accesses, function level resets, boot, temperature, time messages (R369, R450 to
R454, R460 to R463). -/

namespace Sys2Proof.Machine
open Sys2Proof

/-! ## BAR2 (R450, R451, R453, R454) -/

/-- The requester of a function's BAR2 accesses: 0 is the physical function, with the system flag; n the virtual function of
tenant n − 1 (Table 20-4). -/
def fnSrc (fn : Nat) : Src := if fn = 0 then { ten := 16, log := none } else { ten := fn - 1, log := some (fn - 1) }

/-- Whether `n` bytes at an offset lie in BAR2 of a function: 512 GiB of DRAM. -/
def inBar2 (fn off n : Nat) : Bool := decide (fn ≤ 16) && decide (0 < n) && decide (off + n ≤ 0x8000000000)

/-- Answer the host. -/
def State.reply (s : State) (bs : List Byte) (bad : Bool) : State :=
  { s with dev := { s.dev with hostReply := bs, hostBad := bad } }

/-- `HOST_POSTED_WRITE` (R369, R451): a posted write reaches DRAM; one that the windows refuse is dropped. The physical function's
write of offset 0 brings a firmware image (R461; log entry 121). -/
def execHostPostedWrite (fn off : Nat) (bs : List Byte) (s : State) : Out :=
  .next <|
    if s.dev.tripped || !inBar2 fn off bs.length then s else
    let (done, s) := s.memWrite (fnSrc fn) off bs false
    if done ∧ fn = 0 ∧ off = 0 then { s with dev := { s.dev with imageIn := true } } else s

/-- A read of a register through BAR0 (R6, R451): a virtual function's registers with a read effect are read-only to it. -/
def State.barRead (s : State) (fn off n : Nat) : State :=
  match barOffset fn off with
  | none => s
  | some o =>
    if !regAccess o n then
      let (bs, s) := s.openBytes n
      s.reply bs true
    else
      let (v, s1) := s.regRead o n
      (if fn = 0 then s1 else s).reply (leBytes n v) false

/-- `HOST_READ` (R451): a read through BAR2 is checked and completed, or a register is read through BAR0. -/
def execHostRead (fn : Nat) (bar0 : Bool) (off n : Nat) (s : State) : Out :=
  .next <|
    if s.dev.tripped then s
    else if bar0 then s.barRead fn off n
    else if !inBar2 fn off n then s
    else
      let (bs, b, s) := s.memRead (fnSrc fn) off n
      s.reply bs b

/-- The AtomicOps that the host port completes (R453). -/
def hostAtomic : ReqOp → Bool
  | .add => true
  | .swap => true
  | .cas _ => true
  | _ => false

/-- `HOST_ATOMICOP` (R453). -/
def execHostAtomicop (fn off n : Nat) (op : ReqOp) (v : BitVec 64) (s : State) : Out :=
  .next <|
    if s.dev.tripped || !inBar2 fn off n || !hostAtomic op || !atomicAt op off n then s
    else
      let (bs, b, s) := s.outside (fnSrc fn) off n op v.toNat
      s.reply bs b

/-- `CXL_MEM_REQUEST` (R454): a host load, or a store of bytes, of memory that a tenant's DRAM windows present. One outside them is
refused as any request is (R66). -/
def execCxlMemRequest (ten off n : Nat) (wr : Option (List Byte)) (s : State) : Out :=
  .next <|
    let acc : AccessKind := if wr.isSome then .write else .read
    let len := (wr.map (·.length)).getD n
    if s.dev.tripped || decide (16 ≤ ten) || len == 0 || !inDram off then s
    else if !s.windowOk ten off (off + len - 1) acc then
      let (bs, s) := s.openBytes n
      let s := s.refuseAt { ten := ten, log := some ten } off
      if wr.isSome then s else s.reply bs true
    else match wr with
      | some bs => s.store none off bs false
      | none => (s.look none off n).reply (s.bytes off n) (s.badIn off n)

/-! ## Function level resets (R452) -/

/-- End a card of a tenant that is torn down: STATE 5 and DGTC, no vector. -/
def State.dropCard (s : State) (c : Card) : State :=
  s.endCard { c with fail := some (5, 0, 0, 0), irq := false }

/-- End a tenant's outstanding copies with status 4. -/
def State.dropCopies (s : State) (ten k : Nat) : State :=
  ((s.core k).cmds.filter fun q => q.ten == ten).foldl (fun s q =>
    s.completeCmd k { q with phase := .ended, res := { status := 4, count := q.res.count, pois := q.res.pois } }) s

/-- Stop the chains of a core's contexts that work for a tenant. -/
def State.dropChains (s : State) (ten k : Nat) : State :=
  [0, 1, 2, 3, 4].foldl (fun s x => [0, 1, 2, 3].foldl (fun s n =>
    match ((s.ctx k x).chan n).chain with
    | some h => if s.chainTenant k x h = ten then
        (s.unwait k x n).modCtx k x fun c => c.setChan n { c.chan n with chain := none }
      else s
    | none => s) s) s

/-- The accesses of a tenant that are on their way complete before its contexts are discarded (R409); those that wait for a value
or a link never come. -/
def State.completeAll (s : State) (ten : Nat) : State :=
  let s := (s.reqs.filter fun q => q.ten == ten).foldl (fun s q => match s.req q.id with
    | some q =>
      if q.done || !q.ready || s.cut q.tid.core q.pa then s
      else if !s.reqAllowed q then s.performRefused q
      else if inRegs q.pa then s.performReg q
      else s.performAt q
    | none => s) s
  { s with reqs := s.reqs.filter fun q => q.ten != ten }

/-- Discard a bound context, with all that is on its way for it. -/
def State.discard (s : State) (k x : Nat) : State :=
  let s := (List.range 16).foldl (fun s n => s.dropUnsent k x n) s
  let at' := fun (t : Tid) => t.core == k && t.ctx == x
  let s : State := { s with
    delivs := s.delivs.filter fun d => delivAt d.2 != (k, x)
    toks := s.toks.filter fun t => !(at' t.src || at' t.dst)
    barMsgs := s.barMsgs.filter fun m => !at' m.src
    elems := s.elems.filter fun e => !((e.core == k && e.ctx == x) || (e.toCore == k && e.toCtx == x)) }
  let s := s.modCore k fun c => { c with
    arrayQ := c.arrayQ.filter fun o => arrCtx o != x
    scoutQ := c.scoutQ.filter fun o => scoutCtx o != x }
  (s.takeAway k x).modCtx k x fun c => { c with wl := {}, mx := { c.mx with pend := none } }

/-- Tear a tenant down (R452). -/
def State.tearDown (s : State) (ten : Nat) : State :=
  let ks := s.cores.map (·.1)
  let s := s.completeAll ten
  let s := ks.foldl (fun s k => (s.dropChains ten k).dropCopies ten k) s
  let s := (s.boundOf ten).foldl (fun s m => s.discard m.1 m.2) s
  let s := (s.dev.cards.filter fun c => c.ten == ten).foldl (fun s c => s.dropCard c) s
  let s : State := { s with dev := { s.dev with
    steps := s.dev.steps.filter fun t => t.ten != ten
    reports := s.dev.reports.filter fun r => r.ten != ten
    parked := s.dev.parked.erase ten
    launch := s.dev.launch.erase ten
    control := s.dev.control.erase ten
    msix := s.dev.msix.filter fun m => m.1 != ten
    msixPend := s.dev.msixPend.filter fun m => m.1 != ten } }
  ((List.range 32).filter fun c => (s.cpart c).valid && (s.cpart c).ten == ten).foldl (fun s c => s.scrubCluster c) s

/-- `VF_FLR` (R452): the virtual function of a tenant is reset. -/
def execVfFlr (ten : Nat) (s : State) : Out := .next (if s.dev.tripped || decide (16 ≤ ten) then s else s.tearDown ten)

/-- A port whose block has its reset values; its link stands as it was. -/
def EthPort.clear (e : EthPort) : EthPort := { up := e.up, retrain := e.retrain }

/-- `PF0_FLR` (R452): every tenant, every CPART, the device control block, the ports and the device log. -/
def execPf0Flr (s : State) : Out :=
  .next <|
    if s.dev.tripped then s else
    let s := (List.range 16).foldl (fun s t => s.tearDown t) s
    { s with dev := { s.dev with
      cparts := []
      tcfg := 0
      tadj := 0
      hoff := 0
      log := {}
      therm := 0
      ports := s.dev.ports.map fun p => (p.1, p.2.clear)
      msix := s.dev.msix.filter fun m => m.1 != 16
      msixPend := s.dev.msixPend.filter fun m => m.1 != 16 } }

/-! ## Boot and attestation (R461, R462) -/

/-- `DEVICE_RESET` (R461): every register has its reset value, and the boot ROM trains stack 0 and the host port, its first step.
Memory keeps what it holds, and a firmware image that has come and not been taken stays there; the schedule is the model's own. -/
def execDeviceReset (s : State) : Out :=
  .next { State.reset with
    agenda := s.agenda
    fresh := s.fresh
    mem := s.mem
    bad := s.bad
    dev := { State.reset.dev with bootStage := 1, imageIn := s.dev.imageIn } }

/-- The firmware image, which stands in DRAM from offset 0: each byte with its poison. -/
def State.firmware (s : State) : List (Byte × Bool) :=
  (List.range Config.firmwareSize).map fun i => (s.byte i, s.badWord (i / 8))

/-- Load the verified image into a core's system context and start it: where its code stands in the image, and where it starts, are
free values (log entry 2). -/
def State.boot (s : State) (w : List (Byte × Bool)) (k : Nat) : State :=
  let img := w.map (·.1)
  let code := w.drop ((Config.firmwareCode img).toNat * 4)
  (s.modCore k fun c => { c with
    imem := placeBytes [] 0 ((code.take Config.imemSize).map (·.1))
    imemBad := (List.range (Config.imemSize / 4)).foldl (fun m w => m.set false w (((code.drop (4 * w)).take 4).any (·.2))) []
    images := [] }).modCtx k 4 fun c => { c with
      ap := { c.ap with pc := (Config.firmwareEntry img).toNat / 4 * 4, active := true, stall := none } }

/-- The boot stops with a code, which is not 0. -/
def State.bootFails (s : State) (code : Fin 255) : State := { s with dev := { s.dev with bootFail := code.val + 1 } }
def State.bootGoes (s : State) (stage : Nat) : State := { s with dev := { s.dev with bootStage := stage } }

/-- `FIRMWARE_IMAGE_VERIFY` (R461): the boot ROM ends the step it is in, which BOOTSTAT shows, or stops with a code: the training
(1), the wait for an image that the host writes (2), its signature (3), its security version (4). It keeps the image that it has verified, whatever is
written over it; with the last step it loads that one and starts the system contexts (5). -/
def execFirmwareImageVerify (s : State) : Out :=
  .next <|
    if s.dev.tripped ∨ s.dev.bootFail ≠ 0 then s else
    let img := s.dev.image.map (·.1)
    match s.dev.bootStage with
    | 1 =>
      let (f, s) := s.newFree
      match Config.trainVerdict f with
      | some c => s.bootFails c
      | none => s.bootGoes 2
    | 2 => if s.dev.imageIn then { s.bootGoes 3 with dev := { (s.bootGoes 3).dev with imageIn := false } } else s
    | 3 => match Config.firmwareVerdict (s.firmware.map (·.1)) with
      | some c => s.bootFails c
      | none => { s.bootGoes 4 with dev := { (s.bootGoes 4).dev with image := s.firmware } }
    | 4 => match Config.firmwareVersion img with
      | some c => s.bootFails c
      | none =>
        let s := (List.range 256).foldl (fun s k => s.boot s.dev.image k) s
        { s.bootGoes 5 with dev := { (s.bootGoes 5).dev with digest := Config.imageDigest img } }
    | _ => s

/-- The requests that the part supports, by their codes in the SPDM standard (R462, log entry 96): GET_VERSION, GET_CAPABILITIES,
NEGOTIATE_ALGORITHMS, GET_DIGESTS, GET_CERTIFICATE, CHALLENGE, GET_MEASUREMENTS. -/
def spdmSupported (req : List Byte) : Bool := [0x84, 0xE1, 0xE3, 0x81, 0x82, 0x83, 0xE0].contains (req.getD 1 0)

/-- The measurements (R462): ROM revision, firmware digest, security versions, fuse configuration. -/
def State.measurements (s : State) : List (Nat × List Byte) :=
  [(1, Config.romRevision), (2, s.dev.digest), (3, Config.securityVersions s.dev.digest), (4, Config.fuseConfig)]

/-- `SPDM_REQUEST` (R462): a request over DOE is answered as the SPDM standard says, which the spec only names, under the
device key, which the firmware's digest makes, and from the measurements; a request that the part does not support is refused.
-/
def execSpdmRequest (req : List Byte) (s : State) : Out :=
  .next <|
    if s.dev.tripped || req.isEmpty then s else
    let (f, s) := s.newFree
    s.reply (if spdmSupported req then Config.spdmAnswer req (Config.deviceKey s.dev.digest) s.measurements f else Config.spdmRefusal req) false

/-! ## Temperature (R463) -/

/-- Whether a thermal trip keeps the machine from an address: that of a stopped core, or one that a stopped link leads to (R463). -/
def State.stopped (s : State) (pa : Nat) : Bool := s.dev.tripped && !(inDram pa || inSram pa)

/-- `THERMAL_WARNING` (R463): the junction reaches 95 °C, in units of 1/16 °C. An entry that a trip keeps from the log's ring counts as lost (log
entry 105). -/
def execThermalWarning (temp : Nat) (s : State) : Out :=
  .next <|
    if temp < 95 * 16 ∨ 0x10000 ≤ temp ∨ s.dev.therm.getLsbD 16 then s else
    let (f, s) := s.newFree
    let s : State := { s with dev := { s.dev with therm := s.dev.therm ||| 0x10000 } }
    if s.stopped s.dev.log.nextAt then { s with dev := { s.dev with log := s.dev.log.drop } }
    else s.logError none { cls := (Config.thermalClass f).toNat, d0 := temp }

/-- `THERMAL_TRIP` (R463): the junction reaches 105 °C; trip is latched, and every core and link stops. -/
def execThermalTrip (temp : Nat) (s : State) : Out :=
  .next <|
    if temp < 105 * 16 ∨ 0x10000 ≤ temp then s else
    { s with dev := { s.dev with therm := s.dev.therm ||| 0x20000, tripped := true } }

/-! ## Time (R460) -/

/-- Whether a time source drives TADJ and HOFF: PTM, or IEEE 1588 on a port in ingress mode. -/
def State.timeSource (s : State) : Bool :=
  match bits s.dev.tcfg.toNat 1 0 with
  | 1 => true
  | 2 => (s.eth (bits s.dev.tcfg.toNat 7 4)).mode == 2
  | _ => false

/-- `TIME_SYNC_MESSAGE` (R460): the servo of the standard that the spec names sets TADJ and HOFF. -/
def execTimeSyncMessage (s : State) : Out :=
  .next <|
    if s.dev.tripped || !s.timeSource then s else
    let (f, s) := s.newFree
    { s with dev := { s.dev with tadj := rateOf (Config.servoRate f).toNat, hoff := Config.servoOffset f } }

end Sys2Proof.Machine
end

