-- ==== Sys2Proof/Machine/Ingress.lean ====
section
/-! DEFINITION. Frame ingress (R395, R457 to R459). -/

namespace Sys2Proof.Machine
open Sys2Proof

/-! ## The frame ring (Tables 20-5, 20-8, 20-9) -/

def EthPort.pktSize (e : EthPort) : Nat := bits e.rcfg.toNat 15 0
def EthPort.slotSize (e : EthPort) : Nat := bits e.rcfg.toNat 31 16 * 0x10000
def EthPort.slots (e : EthPort) : Nat := bits e.rcfg.toNat 47 32
def EthPort.timeout (e : EthPort) : Nat := bits e.rcfg.toNat 63 48
/-- The address of the slot that the port's index names. -/
def EthPort.slotAt (e : EthPort) : Nat := e.rbase.toNat + e.slot * e.slotSize

/-- Whether a port receives frames, for the ring or for the host (R429). -/
def State.receives (s : State) (p : Nat) (host : Bool) : Bool :=
  let e := s.eth p
  decide (p < 8) && e.up && e.mode == 2 && s.hostMode e.ten 3 == host && !s.dev.tripped

/-- A write of a port, checked at its home for the port's tenant (R66). -/
def State.portWrite (s : State) (ten pa : Nat) (bs : List Byte) : State := (s.memWrite { ten := ten, log := some ten } pa bs false).2

/-- Whether a datagram is of the subset that a port accepts (R458). -/
def EthPort.accepts (e : EthPort) (g : Gvsp) : Bool :=
  g.udp4 && g.port == bits e.pcfg.toNat 63 48 && g.ext && g.status == 0
    && (match g.form with
        | .leader | .trailer => g.ptype == 1
        | .payload => true
        | .other => false)

/-- A datagram that a port receives: of another form than `f` it is no such event; outside the subset it is counted and dropped. -/
def State.datagram (s : State) (p : Nat) (g : Gvsp) (f : GvspForm) (act : State → State) : Out :=
  .next <|
    if !s.receives p false || g.form != f then s
    else if (s.eth p).accepts g then act s
    else s.modEth p fun e => { e with badpkt := e.badpkt + 1 }

/-! ## Receiving a frame (R459) -/

/-- Start a frame in the slot held: its header is cleared but for STATUS, and the leader's fields are recorded. -/
def State.startFrame (s : State) (p block width height pix : Nat) : State :=
  let e := s.eth p
  let hdr := leBytes 16 0 ++ leBytes 8 s.gtc ++ leBytes 8 0 ++ leBytes 8 block ++ leBytes 4 width ++ leBytes 4 height ++ leBytes 4 pix
  (s.portWrite e.ten (e.slotAt + 8) (padTo 248 hdr)).modEth p fun e =>
    { e with held := true, frame := some { block := block, lgtc := s.gtc, lastAt := s.gtc } }

/-- Drop a block, every packet of it (R459; that it is remembered for good: log entry 102). -/
def EthPort.dropBlock (e : EthPort) (block : Nat) : EthPort := { e with drop := e.drop + 1, dropped := block :: e.dropped }

/-- `GVSP_LEADER` (R459): a leader takes a free slot, or the slot already held, or its block is dropped. A repeated leader of
the frame held changes nothing but its time. -/
def execGvspLeader (p : Nat) (g : Gvsp) (width height pix : BitVec 32) (s : State) : Out :=
  s.datagram p g .leader fun s =>
    let e := s.eth p
    let b := g.block.toNat
    if e.dropped.contains b then s else
    match e.frame with
    | some f =>
      if f.block = b then s.modEth p fun e => { e with frame := some { f with lastAt := s.gtc } }
      else (s.modEth p EthPort.abandon).startFrame p b width.toNat height.toNat pix.toNat
    | none =>
      let r := s.ctr e.ten e.frctr
      if e.held then s.startFrame p b width.toNat height.toNat pix.toNat
      else if r.parBad then (s.logError (some e.ten) { cls := 7, d0 := e.frctr, d1 := r.pair }).modEth p fun e => e.dropBlock b
      else if r.count = 0 then s.modEth p fun e => e.dropBlock b
      else (s.modCtr e.ten e.frctr fun r => r.update (r.count - 1)).startFrame p b width.toNat height.toNat pix.toNat

/-- A packet's bytes that fit the slot, from payload offset `o` on. -/
def EthPort.fits (e : EthPort) (o : Nat) (bs : List Byte) : List Byte := bs.take (e.slotSize - 256 - o)

/-- A payload packet noted in its frame: a duplicate counts once. -/
def Frame.got (f : Frame) (pkt n gtc : Nat) : Frame :=
  if f.ids.contains pkt then { f with lastAt := gtc } else { f with ids := pkt :: f.ids, bytes := f.bytes + n, lastAt := gtc }

/-- `GVSP_PAYLOAD` (R459): a packet of the frame held is written to its place in the slot. -/
def execGvspPayload (p : Nat) (g : Gvsp) (pkt : Nat) (bs : List Byte) (s : State) : Out :=
  s.datagram p g .payload fun s =>
    let e := s.eth p
    match e.frame with
    | some f =>
      if f.block ≠ g.block.toNat ∨ pkt = 0 then s else
      let o := (pkt - 1) * e.pktSize
      let bs := e.fits o bs
      (s.portWrite e.ten (e.slotAt + 256 + o) bs).modEth p fun e => { e with frame := some (f.got pkt bs.length s.gtc) }
    | none => s

/-- The packets of a payload of `len` bytes. -/
def EthPort.packets (e : EthPort) (len : Nat) : Nat := (len + e.pktSize - 1) / e.pktSize

/-- `GVSP_TRAILER` (R459, R395): the slot's header is completed, its STATUS becomes 1, and the full-slot counter is posted. -/
def execGvspTrailer (p : Nat) (g : Gvsp) (len : Nat) (s : State) : Out :=
  s.datagram p g .trailer fun s =>
    let e := s.eth p
    match e.frame with
    | some f =>
      if f.block ≠ g.block.toNat then s else
      let n := e.packets len
      let inc := f.ids.length != n || f.bytes != len
      let s := s.portWrite e.ten (e.slotAt + 8) (leBytes 8 inc.toNat ++ leBytes 4 f.bytes ++ leBytes 4 (n - f.ids.length))
      let s := s.portWrite e.ten (e.slotAt + 32) (leBytes 8 s.gtc)
      let s := s.portWrite e.ten e.slotAt (leBytes 8 1)
      (s.post e.ten e.fctr 1).modEth p fun e =>
        { e with frame := none, held := false, slot := (e.slot + 1) % Nat.max 1 e.slots, frames := e.frames + 1 }
    | none => s

/-- `GVSP_PACKET_REFUSED` (R458): a datagram outside the subset is counted and dropped. -/
def execGvspPacketRefused (d : PortDatagram) (s : State) : Out :=
  .next (if s.receives d.port false && !(s.eth d.port).accepts d.packet then s.modEth d.port fun e => { e with badpkt := e.badpkt + 1 } else s)

/-- `FRAME_TIMEOUT` (R459): no packet of the frame held has come for FTO µs. -/
def execFrameTimeout (p : Nat) (s : State) : Out :=
  .next <|
    let e := s.eth p
    match e.frame with
    | some f => if e.timeout ≠ 0 ∧ e.timeout * 1000 ≤ s.gtc - f.lastAt ∧ p < 8 then s.modEth p EthPort.abandon else s
    | none => s

/-- `HOST_INGRESS_FRAME` (R429, R459): in host-assisted ingress a frame goes to the next entry of the host receive ring, and the
tenant's error-log vector is raised. -/
def execHostIngressFrame (p : Nat) (bs : List Byte) (s : State) : Out :=
  .next <|
    if !s.receives p true then s else
    let e := s.eth p
    let s := s.portWrite e.ten (e.hrbase.toNat + 0x4000 * e.hidx) (leBytes 8 bs.length ++ bs.take 0x3FF8)
    (s.raise e.ten (bits (s.control e.ten).log.cfg.toNat 5 0)).modEth p fun e => { e with hidx := e.hidx + 1 }

end Sys2Proof.Machine
end

