-- ==== Sys2Proof/Machine/Literal.lean ====
section
/-! DEFINITION. The store-only literal (R184, R185). -/

namespace Sys2Proof.Machine
open Sys2Proof

/-- `TEMPLATE_STORE_LITERAL` (R184): the operation word goes to template `tgt` of the half, which goes on to the next
group. -/
def execTemplateStoreLiteral (tgt : BitVec 6) (op : BitVec 128) (s : State) : Out :=
  .next (((s.modHalf s.cur.tid fun h =>
    { h with tmpl := h.tmpl.set 0 tgt.toNat op, tmplBad := h.tmplBad.set false tgt.toNat false }) : State).advance s.cur.pcn)

end Sys2Proof.Machine
end

