-- ==== Sys2Proof/Machine/XpCvt.lean ====
section
/-! DEFINITION. Conversions of the XP (R254 to R258). -/

namespace Sys2Proof.Machine
open Sys2Proof

/-- The placement of a conversion (R255): widths of source and destination, and PART. -/
structure Placing where
  ws : Nat
  wd : Nat
  part : Nat

def Placing.wide (p : Placing) : Nat := max p.ws p.wd
/-- Elements that one conversion handles. -/
def Placing.count (p : Placing) : Nat := 2048 / p.wide
def Placing.srcIdx (p : Placing) (k : Nat) : Nat := if p.ws < p.wd then p.part * p.count + k else k
def Placing.dstIdx (p : Placing) (k : Nat) : Nat := if p.wd < p.ws then p.part * p.count + k else k
/-- The lane of element `k` on the wider side. -/
def Placing.lane (p : Placing) (k : Nat) : Nat := k * p.wide / 32

/-- The sum over the elements that are converted. -/
def Placing.total (p : Placing) (act : BitVec 64) (f : Nat → Nat) : Nat :=
  (List.range p.count).foldl (fun t k => if act.getLsbD (p.lane k) then t + f k * 2 ^ (p.wd * p.dstIdx k) else t) 0

/-- The first converted element whose source is poisoned. -/
def Placing.badElem (p : Placing) (act : BitVec 64) (x : VV) : Option Nat :=
  (List.range p.count).find? fun k => act.getLsbD (p.lane k) && x.bad.getLsbD (p.srcIdx k * p.ws / 64)

/-- A conversion of elements by `f`, which acts on codes. -/
def cvtForm (h : XpHdr) (d a : Opnd) (p : Placing) (f : Nat → Nat) : Exec Next := do
  let (act, vs) ← operands h (some d) [a]
  let x := vs.headD {}
  match p.badElem act x with
  | some k => trap { code := 8, opnd := 1, lane := p.lane k, chunk := p.srcIdx k * p.ws / 64 }
  | none => do
    let code := fun k => bits x.v.toNat (p.ws * p.srcIdx k + p.ws - 1) (p.ws * p.srcIdx k)
    putV d { v := BitVec.ofNat 2048 (p.total act fun k => f (code k) % 2 ^ p.wd),
             mask := BitVec.ofNat 2048 (p.total act fun _ => 2 ^ p.wd - 1) }
    pure none

/-- The value rule of Table 02-4; an integer goes to an integer by wrapping (R9, R254). -/
def cvtCode (dst src : Fmt) (r : Rnd) (c : Nat) : Nat :=
  if (floatFmt dst).isNone && (floatFmt src).isNone then wrap dst.bits (if intSigned src then sgn src.bits c else (c : Int))
  else fmtCode dst r (fmtVal src c)

def cvtWord (h : XpHdr) (d a : Opnd) (ty ty2 : Fmt) (part : BitVec 3) (f : Nat → Nat) (s : State) : Out :=
  xpWord h (cvtForm h d a ⟨ty2.bits, ty.bits, part.toNat⟩ f) s

/-- `VCVT` (R254). -/
def execVcvt (h : XpHdr) (d a : Opnd) (ty ty2 : Fmt) (part : BitVec 3) (s : State) : Out :=
  cvtWord h d a ty ty2 part (cvtCode ty ty2 .ne) s
/-- `VCVTZR` (R254). -/
def execVcvtzr (h : XpHdr) (d a : Opnd) (ty ty2 : Fmt) (part : BitVec 3) (s : State) : Out :=
  cvtWord h d a ty ty2 part (cvtCode ty ty2 .tz) s
/-- `VCVTFL` (R254). -/
def execVcvtfl (h : XpHdr) (d a : Opnd) (ty ty2 : Fmt) (part : BitVec 3) (s : State) : Out :=
  cvtWord h d a ty ty2 part (cvtCode ty ty2 .dn) s
/-- `VCVTCL` (R254). -/
def execVcvtcl (h : XpHdr) (d a : Opnd) (ty ty2 : Fmt) (part : BitVec 3) (s : State) : Out :=
  cvtWord h d a ty ty2 part (cvtCode ty ty2 .up) s

/-- Sat of an integer element into a narrower format (R256). -/
def narrowSat (dst src : Fmt) (c : Nat) : Nat :=
  let x : Int := if intSigned src then sgn src.bits c else c
  wrap dst.bits (if intSigned dst then satS dst.bits x else satN dst.bits x)

/-- `VNARS` (R256). -/
def execVnars (h : XpHdr) (d a : Opnd) (ty ty2 : Fmt) (part : BitVec 3) (s : State) : Out :=
  cvtWord h d a ty ty2 part (narrowSat ty ty2) s
/-- `VNARW` (R256). -/
def execVnarw (h : XpHdr) (d a : Opnd) (ty ty2 : Fmt) (part : BitVec 3) (s : State) : Out :=
  cvtWord h d a ty ty2 part id s

/-- The eight blocks of R257 from 64 lane values: codes in bytes 0 to 31, scales in bytes 32 to 43. -/
def quantLanes (f : Nat → Num) : Nat :=
  (List.range 8).foldl (fun t k =>
    let (sc, cs) := quantise ((List.range 8).map fun i => f (8 * k + i))
    t + fields 4 8 (fun i => cs.getD i 0) * 2 ^ (32 * k) + sc * 2 ^ (256 + 12 * k)) 0

/-- `VQBLK` (R257): the whole destination is written. -/
def execVqblk (h : XpHdr) (d a : Opnd) (s : State) : Out :=
  xpWord h (do
    let (act, vs) ← operands h (some d) [a]
    checkLanes act vs
    let x := vs.headD {}
    let v := quantLanes fun i => if act.getLsbD i then f32 (x.lane i) else .fin false 0 0
    putV d { v := BitVec.ofNat 2048 v, mask := BitVec.allOnes 2048 }
    pure none) s

/-- The first active lane whose code or scale lies in a poisoned chunk, and that chunk (R258). -/
def blockBad (x : VV) (act : BitVec 64) : Option (Nat × Nat) :=
  (List.range 64).findSome? fun i => if act.getLsbD i then
    ([4 * i / 64, (256 + 12 * (i / 8)) / 64, (267 + 12 * (i / 8)) / 64].find? fun c => x.bad.getLsbD c).map fun c => (i, c)
  else none

/-- `VDQBLK` (R258). -/
def execVdqblk (h : XpHdr) (d a : Opnd) (s : State) : Out :=
  xpWord h (do
    let (act, vs) ← operands h (some d) [a]
    let x := vs.headD {}
    match blockBad x act with
    | some (i, c) => trap { code := 8, opnd := 1, lane := i, chunk := c }
    | none => do
      let n := x.v.toNat
      putV d (laneWrite act fun i =>
        toF32 .ne (blockVal (bits n (267 + 12 * (i / 8)) (256 + 12 * (i / 8))) (bits n (4 * i + 3) (4 * i))))
      pure none) s

end Sys2Proof.Machine
end

