-- ==== Sys2Proof/Machine/XpPerm.lean ====
section
/-! DEFINITION. Permutes and moves of lanes (R264). -/

namespace Sys2Proof.Machine
open Sys2Proof

/-- Lane `j` of a ++ b: past both, zero. -/
def srcPair (vs : List VV) (j : Nat) : Nat × Bool := if j < 64 then srcLane vs 0 j else srcLane vs 1 (j - 64)

/-- `VPERM` (R264): a poisoned index lane traps. -/
def execVperm (h : XpHdr) (d a b : Opnd) (s : State) : Out :=
  xpWord h (do
    let (act, vs) ← operands h (some d) [a, b]
    let x := vs.getD 1 {}
    match x.badLane act with
    | some l => trap { code := 8, opnd := 2, lane := l, chunk := l / 2 }
    | none => do
      putV d (moveWrite act fun i => if x.lane i < 64 then srcLane vs 0 (x.lane i) else (0, false))
      pure none) s
/-- `VBCAST` (R264). -/
def execVbcast (h : XpHdr) (d a : Opnd) (lane : BitVec 6) (s : State) : Out :=
  xpWord h (moveForm h d [a] fun vs _ => srcLane vs 0 lane.toNat) s
/-- `VROTL` (R264). -/
def execVrotl (h : XpHdr) (d a : Opnd) (lane : BitVec 6) (s : State) : Out :=
  xpWord h (moveForm h d [a] fun vs i => srcLane vs 0 ((i + lane.toNat) % 64)) s
/-- `VSLIDE` (R264). -/
def execVslide (h : XpHdr) (d a b : Opnd) (lane : BitVec 6) (s : State) : Out :=
  xpWord h (moveForm h d [a, b] fun vs i => srcPair vs (i + lane.toNat)) s
/-- `VZIP` (R264). -/
def execVzip (h : XpHdr) (d a b : Opnd) (half : Bool) (s : State) : Out :=
  xpWord h (moveForm h d [a, b] fun vs i => srcLane vs (i % 2) (32 * half.toNat + i / 2)) s
/-- `VUNZIP` (R264). -/
def execVunzip (h : XpHdr) (d a b : Opnd) (half : Bool) (s : State) : Out :=
  xpWord h (moveForm h d [a, b] fun vs i => srcPair vs (2 * i + half.toNat)) s
/-- `VMOV` (R264). -/
def execVmov (h : XpHdr) (d a : Opnd) (s : State) : Out := xpWord h (moveForm h d [a] fun vs i => srcLane vs 0 i) s
/-- `VSPLAT` (R264): the x register's poison moves with it (R243). -/
def execVsplat (h : XpHdr) (d : Opnd) (a : BitVec 4) (s : State) : Out :=
  xpWord h (do
    let (act, _) ← operands h (some d) []
    let s ← get
    let x := s.me.xreg a
    putV d (moveWrite act fun _ => (x.v.toNat, x.bad))
    pure none) s

end Sys2Proof.Machine
end

