-- ==== Sys2Proof/Machine/XpReduce.lean ====
section
/-! DEFINITION. Reductions, scans and the intersect unit of the XP (R56, R57, R259 to R263). -/

namespace Sys2Proof.Machine
open Sys2Proof

/-! ## Reductions -/

/-- One level of the reduction tree (R56). -/
def treeLevel (op : Nat → Nat → Nat) : List (Option Nat) → List (Option Nat)
  | some a :: some b :: ns => some (op a b) :: treeLevel op ns
  | none :: b :: ns => b :: treeLevel op ns
  | a :: none :: ns => a :: treeLevel op ns
  | ns => ns

/-- TreeReduce over 64 lanes (R56). -/
def treeReduce (op : Nat → Nat → Nat) (identity : Nat) (act : BitVec 64) (f : Nat → Nat) : Nat :=
  let n0 := (List.range 64).map fun i => if act.getLsbD i then some (f i) else none
  let n := (List.range 6).foldl (fun n _ => treeLevel op n) n0
  ((n.headD none)).getD identity

/-- `VREDF` (R259). -/
def execVredf (h : XpHdr) (d : BitVec 4) (a : Opnd) (s : State) : Out :=
  xpWord h (reduceForm h d a (treeReduce (fadd .ne) 0)) s
/-- `VREDFMAX` (R259). -/
def execVredfmax (h : XpHdr) (d : BitVec 4) (a : Opnd) (s : State) : Out :=
  xpWord h (reduceForm h d a (treeReduce fmax 0xFF800000)) s
/-- `VREDFMIN` (R259). -/
def execVredfmin (h : XpHdr) (d : BitVec 4) (a : Opnd) (s : State) : Out :=
  xpWord h (reduceForm h d a (treeReduce fmin 0x7F800000)) s

/-- The elements of the active lanes, read as TYPE says. -/
def activeElems (ty : Fmt) (act : BitVec 64) (f : Nat → Nat) : List Int :=
  (List.range 64).flatMap fun i => if act.getLsbD i then
    (List.range (32 / ty.bits)).map fun e =>
      let c := bits (f i) (ty.bits * e + ty.bits - 1) (ty.bits * e)
      if intSigned ty then sgn ty.bits c else (c : Int)
  else []

def sumInts (xs : List Int) : Int := xs.foldl (· + ·) 0

/-- The least and the greatest value of an integer format. -/
def typeMin (ty : Fmt) : Int := if intSigned ty then -(2 ^ (ty.bits - 1) : Nat) else 0
def typeMax (ty : Fmt) : Int := if intSigned ty then (2 ^ (ty.bits - 1) : Nat) - 1 else (2 ^ ty.bits : Nat) - 1

/-- `VRED` (R259). -/
def execVred (h : XpHdr) (d : BitVec 4) (a : Opnd) (ty : Fmt) (s : State) : Out :=
  xpWord h (reduceForm h d a fun act f => wrap 32 (sumInts (activeElems ty act f))) s
/-- `VREDS` (R259). -/
def execVreds (h : XpHdr) (d : BitVec 4) (a : Opnd) (ty : Fmt) (s : State) : Out :=
  xpWord h (reduceForm h d a fun act f =>
    let t := sumInts (activeElems ty act f)
    wrap 32 (if intSigned ty then satS 32 t else satN 32 t)) s
/-- `VREDMAX` (R259). -/
def execVredmax (h : XpHdr) (d : BitVec 4) (a : Opnd) (ty : Fmt) (s : State) : Out :=
  xpWord h (reduceForm h d a fun act f => wrap 32 ((activeElems ty act f).foldl max (typeMin ty))) s
/-- `VREDMIN` (R259). -/
def execVredmin (h : XpHdr) (d : BitVec 4) (a : Opnd) (ty : Fmt) (s : State) : Out :=
  xpWord h (reduceForm h d a fun act f => wrap 32 ((activeElems ty act f).foldl min (typeMax ty))) s

/-! ## Scans -/

/-- The sum of the active lanes below lane `i`. -/
def sumBelow (act : BitVec 64) (f : Nat → Nat) (i : Nat) : Nat :=
  (List.range i).foldl (fun t j => if act.getLsbD j then t + f j else t) 0

/-- `VSCAN` (R260). -/
def execVscan (h : XpHdr) (d a : Opnd) (b : BitVec 4) (_ty : Fmt) (exc : Bool) (s : State) : Out :=
  xpWord h (do
    let (act, vs) ← operands h (some d) [a]
    checkLanes act vs
    let x ← needX b 2
    let f := (vs.headD {}).lane
    putV d (laneWrite act fun i => x + sumBelow act f i + (if exc then 0 else f i))
    pure none) s

/-- The first poisoned lane that lies below an active lane (R261). -/
def belowBad (x : VV) (act : BitVec 64) : Option Nat :=
  (List.range 64).find? fun j => x.laneBad j && (List.range 64).any fun i => decide (j < i) && act.getLsbD i

/-- `VBPFX` (R261). -/
def execVbpfx (h : XpHdr) (d a : Opnd) (b : BitVec 4) (s : State) : Out :=
  xpWord h (do
    let (act, vs) ← operands h (some d) [a]
    let x := vs.headD {}
    match belowBad x act with
    | some j => trap { code := 8, opnd := 1, lane := j, chunk := j / 2 }
    | none => do
      let y ← needX b 2
      putV d (laneWrite act fun i => y + (List.range i).foldl (fun t j => t + popcNat 32 (x.lane j)) 0)
      pure none) s

/-! ## The intersect unit (R262) -/

/-- The ranks of the common elements of words `a` and `b`, counted in `r` from `base`. -/
def commonRanks (a b r base : Nat) : List Nat :=
  (List.range 32).filterMap fun q =>
    if bit (a &&& b) q then some ((base + popcNat 32 (r % 2 ^ q)) % 2 ^ 32) else none

/-- `VISECT` (R262). -/
def execVisect (h : XpHdr) (d a b c : Opnd) (half : Bool) (xw : BitVec 4) (s : State) : Out :=
  xpWord h (do
    let (act, vs) ← operands h (some d) [a, b, c]
    let w ← needX xw 15
    let w := w % 64
    match (List.range 3).find? fun k => (vs.getD k {}).laneBad w with
    | some k => trap { code := 8, opnd := k + 1, lane := w, chunk := w / 2 }
    | none => do
      let l := fun k => (vs.getD k {}).lane w
      let rs := commonRanks (l 0) (l 1) (if half then l 1 else l 0) (l 2)
      putV d (laneWrite act fun t => rs.getD t 0xFFFFFFFF)
      pure none) s

/-! ## Compress and expand (R263) -/

/-- The active lanes in ascending order. -/
def activeLanes (act : BitVec 64) : List Nat := (List.range 64).filter fun i => act.getLsbD i

/-- `VCMPRS` (R263): every lane of the destination is written. -/
def execVcmprs (h : XpHdr) (d a : Opnd) (s : State) : Out :=
  xpWord h (do
    let (act, vs) ← operands h (some d) [a]
    let ls := activeLanes act
    putV d (moveWrite (BitVec.allOnes 64) fun i => match ls[i]? with
      | some j => srcLane vs 0 j
      | none => (0, false))
    pure none) s

/-- `VEXPND` (R263). -/
def execVexpnd (h : XpHdr) (d a : Opnd) (s : State) : Out :=
  xpWord h (do
    let (act, vs) ← operands h (some d) [a]
    putV d (moveWrite act fun i => srcLane vs 0 ((activeLanes act).filter (· < i)).length)
    pure none) s

end Sys2Proof.Machine
end

