-- ==== Sys2Proof/Machine/XpScalar.lean ====
section
/-! DEFINITION. Mask-register forms, scalars, loops and branches of the XP (R265 to R269). -/

namespace Sys2Proof.Machine
open Sys2Proof

/-! ## Mask registers (R265) -/

/-- A mask form with two sources. -/
def maskForm (h : XpHdr) (d a b : BitVec 3) (f : BitVec 64 → BitVec 64 → BitVec 64) (s : State) : Out :=
  xpWord h (do
    let x ← needM a 1
    let y ← needM b 2
    writeM d (f x y)
    pure none) s

/-- `MAND` (R265). -/
def execMand (h : XpHdr) (d a b : BitVec 3) (s : State) : Out := maskForm h d a b (· &&& ·) s
/-- `MOR` (R265). -/
def execMor (h : XpHdr) (d a b : BitVec 3) (s : State) : Out := maskForm h d a b (· ||| ·) s
/-- `MXOR` (R265). -/
def execMxor (h : XpHdr) (d a b : BitVec 3) (s : State) : Out := maskForm h d a b (· ^^^ ·) s
/-- `MNOT` (R265). -/
def execMnot (h : XpHdr) (d a : BitVec 3) (s : State) : Out :=
  xpWord h (do
    let x ← needM a 1
    writeM d (~~~x)
    pure none) s
/-- `MPOPC` (R265). -/
def execMpopc (h : XpHdr) (d : BitVec 4) (a : BitVec 3) (s : State) : Out :=
  xpWord h (do
    let x ← needM a 1
    writeX d (popcNat 64 x.toNat)
    pure none) s
/-- `MSETX` (R265). -/
def execMsetx (h : XpHdr) (d : BitVec 3) (a b : BitVec 4) (s : State) : Out :=
  xpWord h (do
    let lo ← needX a 1
    let hi ← needX b 2
    writeM d (BitVec.ofNat 64 (lo + hi * 2 ^ 32))
    pure none) s
/-- `MGETX` (R265). -/
def execMgetx (h : XpHdr) (d : BitVec 4) (a : BitVec 3) (half : Bool) (s : State) : Out :=
  xpWord h (do
    let x ← needM a 1
    writeX d (x.toNat / 2 ^ (32 * half.toNat))
    pure none) s

/-! ## Scalars (R266) -/

/-- The second source of a scalar form. -/
def needXOp (o : XOp2) : Exec Nat :=
  match o with
  | .reg x => needX x 2
  | .imm v => pure v.toNat

def scalarForm (h : XpHdr) (d a : BitVec 4) (b : XOp2) (f : Nat → Nat → Nat) (s : State) : Out :=
  xpWord h (do
    let x ← needX a 1
    let y ← needXOp b
    writeX d (f x y)
    pure none) s

/-- `XADD` (R266). -/
def execXadd (h : XpHdr) (d a : BitVec 4) (b : XOp2) (s : State) : Out := scalarForm h d a b (· + ·) s
/-- `XSUB` (R266). -/
def execXsub (h : XpHdr) (d a : BitVec 4) (b : XOp2) (s : State) : Out := scalarForm h d a b (natural2 32 (· - ·)) s
/-- `XMUL` (R266). -/
def execXmul (h : XpHdr) (d a : BitVec 4) (b : XOp2) (s : State) : Out := scalarForm h d a b (· * ·) s
/-- `XAND` (R266). -/
def execXand (h : XpHdr) (d a : BitVec 4) (b : XOp2) (s : State) : Out := scalarForm h d a b (· &&& ·) s
/-- `XIOR` (R266). -/
def execXior (h : XpHdr) (d a : BitVec 4) (b : XOp2) (s : State) : Out := scalarForm h d a b (· ||| ·) s
/-- `XXOR` (R266). -/
def execXxor (h : XpHdr) (d a : BitVec 4) (b : XOp2) (s : State) : Out := scalarForm h d a b (· ^^^ ·) s
/-- `XSHL` (R266). -/
def execXshl (h : XpHdr) (d a : BitVec 4) (b : XOp2) (s : State) : Out := scalarForm h d a b (fun x y => x * 2 ^ (y % 32)) s
/-- `XSHR` (R266). -/
def execXshr (h : XpHdr) (d a : BitVec 4) (b : XOp2) (s : State) : Out := scalarForm h d a b (fun x y => x / 2 ^ (y % 32)) s
/-- `XMOVI` (R266). -/
def execXmovi (h : XpHdr) (d : BitVec 4) (imm : BitVec 32) (s : State) : Out :=
  xpWord h (do
    writeX d imm.toNat
    pure none) s
/-- `XLANE` (R266): a move, with its poison (R243). -/
def execXlane (h : XpHdr) (d : BitVec 4) (a : Opnd) (lane : BitVec 6) (s : State) : Out :=
  xpWord h (do
    let (_, vs) ← operands h none [a]
    let x := vs.headD {}
    modify fun s => s.modMe (·.setX d { v := BitVec.ofNat 32 (x.lane lane.toNat), bad := x.laneBad lane.toNat })
    pure none) s

/-! ## Loops (R267) -/

/-- Range `r` of a loop header: base and ring length. -/
def rangeOf (hdr r : Nat) : Nat × Nat := (bits hdr (16 * r + 6) (16 * r), bits hdr (16 * r + 14) (16 * r + 8) + 1)

/-- Whether a loop header's layout is kept: bits 7 and 15 of a range are zero, as is every range past the number given, and
no range runs past the main file. -/
def headerOk (hdr nr : Nat) : Bool :=
  (List.range 8).all fun r =>
    if r < nr then
      let (b, l) := rangeOf hdr r
      !bit hdr (16 * r + 7) && !bit hdr (16 * r + 15) && decide (b + l ≤ 128)
    else bits hdr (16 * r + 15) (16 * r) == 0

/-- The operation word of the data literal at an offset of IMEM; none for another group. -/
def Core.dataLiteral (c : Core) (o : Nat) : Option Nat :=
  if Config.imemSize < o + 20 then none
  else
    let hdr := (List.range 4).foldl (fun t i => t + (c.imem.get 0 (o + i)).toNat * 256 ^ i) 0
    if hdr ≠ 0xFC000000 then none
    else some ((List.range 16).foldl (fun t i => t + (c.imem.get 0 (o + 4 + i)).toNat * 256 ^ i) 0)

/-- A poisoned word of an XLOOP's literal traps at decode, for the two form one instruction (R267, R424). -/
def loopPoison (nr : Nat) : Exec Unit := do
  let s ← get
  if nr ≠ 0 ∧ (List.range 5).any fun i => (s.core s.cur.tid.core).imemBad.get false (s.cur.pcn / 4 + i) then
    trap { code := 8, addr := s.cur.pc, noOp := true }
  else pure ()

/-- The ranges of an XLOOP: those of the data literal that follows the word, where it has any (R267). -/
def loopHeader (nr : Nat) : Exec (List (Nat × Nat)) := do
  let s ← get
  if nr = 0 then pure []
  else
    match (s.core s.cur.tid.core).dataLiteral s.cur.pcn with
    | none => illegal
    | some hdr => if headerOk hdr nr then pure ((List.range nr).map (rangeOf hdr)) else illegal

/-- The body of XLOOP, for a count that is read when the checks have passed. The loop starts where the rule's formula says, counted from the
group (log entry 21). -/
def xloopBody (nr fin : Nat) (count : Exec Nat) : Exec Next := do
  loopPoison nr
  let s ← get
  let bs := s.cur.pc + 4 + (if nr = 0 then 0 else 20)
  let e := s.cur.pc + fin
  if 8 < nr ∨ e % 4 ≠ 0 ∨ e ≤ bs then illegal
  else do
    let rs ← loopHeader nr
    if 4 ≤ s.me.xpLoops.length then illegal
    else do
      let n ← count
      if n = 0 then pure (some e)
      else do
        modify fun s => s.modMe fun c => { c with
          xpLoops := { start := bs, fin := e, remaining := n, iter := 0, ranges := rs } :: c.xpLoops }
        pure (some bs)

/-- `XLOOP` with its count in a register (R267). -/
def execXloop (h : XpHdr) (xc nr : BitVec 4) (fin : BitVec 18) (s : State) : Out :=
  xpWord h (xloopBody nr.toNat fin.toNat (needX xc 15)) s
/-- `XLOOP` with an immediate count (R267). -/
def execXloopImmediate (h : XpHdr) (nr : BitVec 4) (limm : BitVec 16) (fin : BitVec 18) (s : State) : Out :=
  xpWord h (xloopBody nr.toNat fin.toNat (pure limm.toNat)) s

/-! ## Branches (R269) -/

/-- Whether a branch condition holds (Table 10-9). -/
def branchTest (t : BrTest) : Exec Bool := do
  let s ← get
  let flag := fun (n : BitVec 4) => do
    if s.me.streamCount s.cur.tid.ctx ≤ n.toNat then illegal else pure (s.me.port n.toNat).eflag
  match t with
  | .zero x => return decide ((← needX x 1) = 0)
  | .nz x => return decide ((← needX x 1) ≠ 0)
  | .neg x => return decide (2 ^ 31 ≤ (← needX x 1))
  | .nneg x => return decide ((← needX x 1) < 2 ^ 31)
  | .ended n => flag n
  | .nend n => return !(← flag n)
  | .always => return true

/-- The target of a branch: a multiple of 4. -/
def xpTarget (imm : BitVec 32) : Exec Nat := do
  let s ← get
  let t := (BitVec.ofNat 64 s.cur.pc + imm.signExtend 64).toNat
  if t % 4 ≠ 0 then illegal else pure t

/-- `XBR` (R269). -/
def execXbr (h : XpHdr) (imm : BitVec 32) (s : State) : Out :=
  xpWord h (do
    let t ← xpTarget imm
    pure (some t)) s

/-- `XBRC` (R269). -/
def execXbrc (h : XpHdr) (t : BrTest) (imm : BitVec 32) (s : State) : Out :=
  xpWord h (do
    let n ← xpTarget imm
    if ← branchTest t then pure (some n) else pure none) s

/-- `XBEND` (R269): the entry is popped, and the loop-back rule applies to those that remain. -/
def execXbend (h : XpHdr) (t : BrTest) (s : State) : Out :=
  xpWord h (do
    let s ← get
    match s.me.xpLoops with
    | [] => illegal
    | l :: ls => do
      if ← branchTest t then do
        modify fun s => s.modMe fun c => { c with xpLoops := ls }
        pure (some l.fin)
      else pure none) s

end Sys2Proof.Machine
end

