-- ==== Sys2Proof/Machine/Dispatch.lean ====
section
/-! DEFINITION. The dispatch of every row of the opcode table to its meaning. -/

namespace Sys2Proof.Machine
open Sys2Proof

/-- The effect of one instruction, engine step or event. -/
def exec (i : Instr) (s : State) : Host.Outcome State Fault Refusal :=
  match i with
  | .nop h => Sys2Proof.Machine.execNop h s
  | .add h rd ra o => Sys2Proof.Machine.execAdd h rd ra o s
  | .sub h rd ra o => Sys2Proof.Machine.execSub h rd ra o s
  | .mul h rd ra o => Sys2Proof.Machine.execMul h rd ra o s
  | .mulh h rd ra o => Sys2Proof.Machine.execMulh h rd ra o s
  | .mulhn h rd ra o => Sys2Proof.Machine.execMulhn h rd ra o s
  | .div h rd ra o => Sys2Proof.Machine.execDiv h rd ra o s
  | .divn h rd ra o => Sys2Proof.Machine.execDivn h rd ra o s
  | .rem h rd ra o => Sys2Proof.Machine.execRem h rd ra o s
  | .remn h rd ra o => Sys2Proof.Machine.execRemn h rd ra o s
  | .adds h rd ra o => Sys2Proof.Machine.execAdds h rd ra o s
  | .subs h rd ra o => Sys2Proof.Machine.execSubs h rd ra o s
  | .addsn h rd ra o => Sys2Proof.Machine.execAddsn h rd ra o s
  | .subsn h rd ra o => Sys2Proof.Machine.execSubsn h rd ra o s
  | .and h rd ra o => Sys2Proof.Machine.execAnd h rd ra o s
  | .or h rd ra o => Sys2Proof.Machine.execOr h rd ra o s
  | .xor h rd ra o => Sys2Proof.Machine.execXor h rd ra o s
  | .andn h rd ra o => Sys2Proof.Machine.execAndn h rd ra o s
  | .orn h rd ra o => Sys2Proof.Machine.execOrn h rd ra o s
  | .shl h rd ra o => Sys2Proof.Machine.execShl h rd ra o s
  | .shr h rd ra o => Sys2Proof.Machine.execShr h rd ra o s
  | .sar h rd ra o => Sys2Proof.Machine.execSar h rd ra o s
  | .rol h rd ra o => Sys2Proof.Machine.execRol h rd ra o s
  | .ror h rd ra o => Sys2Proof.Machine.execRor h rd ra o s
  | .min h rd ra o => Sys2Proof.Machine.execMin h rd ra o s
  | .max h rd ra o => Sys2Proof.Machine.execMax h rd ra o s
  | .minn h rd ra o => Sys2Proof.Machine.execMinn h rd ra o s
  | .maxn h rd ra o => Sys2Proof.Machine.execMaxn h rd ra o s
  | .abs h rd ra => Sys2Proof.Machine.execAbs h rd ra s
  | .clz h rd ra => Sys2Proof.Machine.execClz h rd ra s
  | .ctz h rd ra => Sys2Proof.Machine.execCtz h rd ra s
  | .popc h rd ra => Sys2Proof.Machine.execPopc h rd ra s
  | .bswap h rd ra => Sys2Proof.Machine.execBswap h rd ra s
  | .exts h rd ra pos lenm1 => Sys2Proof.Machine.execExts h rd ra pos lenm1 s
  | .extn h rd ra pos lenm1 => Sys2Proof.Machine.execExtn h rd ra pos lenm1 s
  | .ins h rd o pos lenm1 => Sys2Proof.Machine.execIns h rd o pos lenm1 s
  | .movi h rd imm => Sys2Proof.Machine.execMovi h rd imm s
  | .movhi h rd imm => Sys2Proof.Machine.execMovhi h rd imm s
  | .sel h rd ra o pa => Sys2Proof.Machine.execSel h rd ra o pa s
  | .pcmp h ra o pd cc => Sys2Proof.Machine.execPcmp h ra o pd cc s
  | .pcmpn h ra o pd cc => Sys2Proof.Machine.execPcmpn h ra o pd cc s
  | .pand h pd pa pb => Sys2Proof.Machine.execPand h pd pa pb s
  | .por h pd pa pb => Sys2Proof.Machine.execPor h pd pa pb s
  | .pxor h pd pa pb => Sys2Proof.Machine.execPxor h pd pa pb s
  | .pnot h pd pa => Sys2Proof.Machine.execPnot h pd pa s
  | .pset h ra pd => Sys2Proof.Machine.execPset h ra pd s
  | .ptst h ra o pd => Sys2Proof.Machine.execPtst h ra o pd s
  | .br h off => Sys2Proof.Machine.execBr h off s
  | .jmpr h ra off => Sys2Proof.Machine.execJmpr h ra off s
  | .call h rd off => Sys2Proof.Machine.execCall h rd off s
  | .ret h ra => Sys2Proof.Machine.execRet h ra s
  | .loop h ra off => Sys2Proof.Machine.execLoop h ra off s
  | .loopImmediate h off limm => Sys2Proof.Machine.execLoopImmediate h off limm s
  | .lbrk h => Sys2Proof.Machine.execLbrk h s
  | .ld h rd ra off ty => Sys2Proof.Machine.execLd h rd ra off ty s
  | .st h ra rb off ty => Sys2Proof.Machine.execSt h ra rb off ty s
  | .ldc h rd ra off ty => Sys2Proof.Machine.execLdc h rd ra off ty s
  | .ldacq h rd ra off ty sc => Sys2Proof.Machine.execLdacq h rd ra off ty sc s
  | .strel h ra rb off ty sc => Sys2Proof.Machine.execStrel h ra rb off ty sc s
  | .lds h rd ra off ty => Sys2Proof.Machine.execLds h rd ra off ty s
  | .sts h ra rb off ty => Sys2Proof.Machine.execSts h ra rb off ty s
  | .aswap h rd ra rb off ty => Sys2Proof.Machine.execAswap h rd ra rb off ty s
  | .acas h rd ra rb off ty pd => Sys2Proof.Machine.execAcas h rd ra rb off ty pd s
  | .aadd h rd ra rb off ty => Sys2Proof.Machine.execAadd h rd ra rb off ty s
  | .aand h rd ra rb off ty => Sys2Proof.Machine.execAand h rd ra rb off ty s
  | .aor h rd ra rb off ty => Sys2Proof.Machine.execAor h rd ra rb off ty s
  | .axor h rd ra rb off ty => Sys2Proof.Machine.execAxor h rd ra rb off ty s
  | .amin h rd ra rb off ty => Sys2Proof.Machine.execAmin h rd ra rb off ty s
  | .amax h rd ra rb off ty => Sys2Proof.Machine.execAmax h rd ra rb off ty s
  | .aminn h rd ra rb off ty => Sys2Proof.Machine.execAminn h rd ra rb off ty s
  | .amaxn h rd ra rb off ty => Sys2Proof.Machine.execAmaxn h rd ra rb off ty s
  | .aminp h rd ra rb off pd => Sys2Proof.Machine.execAminp h rd ra rb off pd s
  | .fenceAcq h sc => Sys2Proof.Machine.execFenceAcq h sc s
  | .fenceRel h sc => Sys2Proof.Machine.execFenceRel h sc s
  | .fenceSc h sc => Sys2Proof.Machine.execFenceSc h sc s
  | .slb h rd ra off fboff => Sys2Proof.Machine.execSlb h rd ra off fboff s
  | .slc h => Sys2Proof.Machine.execSlc h s
  | .slx h xcode => Sys2Proof.Machine.execSlx h xcode s
  | .ifence h => Sys2Proof.Machine.execIfence h s
  | .scfg h o sp word => Sys2Proof.Machine.execScfg h o sp word s
  | .sgo h sp => Sys2Proof.Machine.execSgo h sp s
  | .srewStart h sp => Sys2Proof.Machine.execSrewStart h sp s
  | .srewMark h sp => Sys2Proof.Machine.execSrewMark h sp s
  | .smark h sp => Sys2Proof.Machine.execSmark h sp s
  | .sfork h ra sp pport => Sys2Proof.Machine.execSfork h ra sp pport s
  | .send h sp => Sys2Proof.Machine.execSend h sp s
  | .ssave h ra off sp => Sys2Proof.Machine.execSsave h ra off sp s
  | .ssaveb h ra off sp => Sys2Proof.Machine.execSsaveb h ra off sp s
  | .srstr h ra off sp => Sys2Proof.Machine.execSrstr h ra off sp s
  | .sqry h rd sp => Sys2Proof.Machine.execSqry h rd sp s
  | .smask h sp g mbase => Sys2Proof.Machine.execSmask h sp g mbase s
  | .grd h rd g => Sys2Proof.Machine.execGrd h rd g s
  | .cpy h rd ra off => Sys2Proof.Machine.execCpy h rd ra off s
  | .cpyi h rd ra rb off => Sys2Proof.Machine.execCpyi h rd ra rb off s
  | .wmrd h rd nxt chan => Sys2Proof.Machine.execWmrd h rd nxt chan s
  | .cpq h rd chan => Sys2Proof.Machine.execCpq h rd chan s
  | .twait h rd o all => Sys2Proof.Machine.execTwait h rd o all s
  | .tffr h rd o clr => Sys2Proof.Machine.execTffr h rd o clr s
  | .wait h rd ra rb off all ncm1 => Sys2Proof.Machine.execWait h rd ra rb off all ncm1 s
  | .binit h ra o => Sys2Proof.Machine.execBinit h ra o s
  | .barr h rd ra sc => Sys2Proof.Machine.execBarr h rd ra sc s
  | .barrx h ra rb sc => Sys2Proof.Machine.execBarrx h ra rb sc s
  | .bwait h ra o sc => Sys2Proof.Machine.execBwait h ra o sc s
  | .wlcfg h ra rb => Sys2Proof.Machine.execWlcfg h ra rb s
  | .wlpush h o => Sys2Proof.Machine.execWlpush h o s
  | .wlins h o pd => Sys2Proof.Machine.execWlins h o pd s
  | .wlclr h => Sys2Proof.Machine.execWlclr h s
  | .wlcnt h rd => Sys2Proof.Machine.execWlcnt h rd s
  | .chlink h ra chan => Sys2Proof.Machine.execChlink h ra chan s
  | .chkick h sc chan => Sys2Proof.Machine.execChkick h sc chan s
  | .chq h rd chan => Sys2Proof.Machine.execChq h rd chan s
  | .jpost h rd ra rb off sc => Sys2Proof.Machine.execJpost h rd ra rb off sc s
  | .fork h ra off => Sys2Proof.Machine.execFork h ra off s
  | .forkEntry h => Sys2Proof.Machine.execForkEntry h s
  | .rdv h => Sys2Proof.Machine.execRdv h s
  | .yield h => Sys2Proof.Machine.execYield h s
  | .trap h code => Sys2Proof.Machine.execTrap h code s
  | .eret h tctx => Sys2Proof.Machine.execEret h tctx s
  | .rdsr h rd srn => Sys2Proof.Machine.execRdsr h rd srn s
  | .wrsr h ra srn => Sys2Proof.Machine.execWrsr h ra srn s
  | .gtcrd h rd => Sys2Proof.Machine.execGtcrd h rd s
  | .apDone h => Sys2Proof.Machine.execApDone h s
  | .templateStoreLiteral tgt op => Sys2Proof.Machine.execTemplateStoreLiteral tgt op s
  | .vadd h d a b ty => Sys2Proof.Machine.execVadd h d a b ty s
  | .vsub h d a b ty => Sys2Proof.Machine.execVsub h d a b ty s
  | .vmul h d a b ty => Sys2Proof.Machine.execVmul h d a b ty s
  | .vmulh h d a b ty => Sys2Proof.Machine.execVmulh h d a b ty s
  | .vmulhn h d a b ty => Sys2Proof.Machine.execVmulhn h d a b ty s
  | .vadds h d a b ty => Sys2Proof.Machine.execVadds h d a b ty s
  | .vsubs h d a b ty => Sys2Proof.Machine.execVsubs h d a b ty s
  | .vaddsn h d a b ty => Sys2Proof.Machine.execVaddsn h d a b ty s
  | .vsubsn h d a b ty => Sys2Proof.Machine.execVsubsn h d a b ty s
  | .vmad h d a b c ty => Sys2Proof.Machine.execVmad h d a b c ty s
  | .vabs h d a ty => Sys2Proof.Machine.execVabs h d a ty s
  | .vand h d a b ty => Sys2Proof.Machine.execVand h d a b ty s
  | .vor h d a b ty => Sys2Proof.Machine.execVor h d a b ty s
  | .vxor h d a b ty => Sys2Proof.Machine.execVxor h d a b ty s
  | .vandn h d a b ty => Sys2Proof.Machine.execVandn h d a b ty s
  | .vshl h d a b ty => Sys2Proof.Machine.execVshl h d a b ty s
  | .vshr h d a b ty => Sys2Proof.Machine.execVshr h d a b ty s
  | .vsar h d a b ty => Sys2Proof.Machine.execVsar h d a b ty s
  | .vclz h d a ty => Sys2Proof.Machine.execVclz h d a ty s
  | .vpopc h d a ty => Sys2Proof.Machine.execVpopc h d a ty s
  | .vmin h d a b ty => Sys2Proof.Machine.execVmin h d a b ty s
  | .vmax h d a b ty => Sys2Proof.Machine.execVmax h d a b ty s
  | .vminn h d a b ty => Sys2Proof.Machine.execVminn h d a b ty s
  | .vmaxn h d a b ty => Sys2Proof.Machine.execVmaxn h d a b ty s
  | .vcmp h d a b cc => Sys2Proof.Machine.execVcmp h d a b cc s
  | .vcmpn h d a b cc => Sys2Proof.Machine.execVcmpn h d a b cc s
  | .vsel h d a b c => Sys2Proof.Machine.execVsel h d a b c s
  | .vdot4 h d a b c => Sys2Proof.Machine.execVdot4 h d a b c s
  | .vdot4n h d a b c => Sys2Proof.Machine.execVdot4n h d a b c s
  | .vdot4s h d a b c => Sys2Proof.Machine.execVdot4s h d a b c s
  | .vdot4sn h d a b c => Sys2Proof.Machine.execVdot4sn h d a b c s
  | .vfadd h d a b => Sys2Proof.Machine.execVfadd h d a b s
  | .vfaddzr h d a b => Sys2Proof.Machine.execVfaddzr h d a b s
  | .vfaddfl h d a b => Sys2Proof.Machine.execVfaddfl h d a b s
  | .vfaddcl h d a b => Sys2Proof.Machine.execVfaddcl h d a b s
  | .vfsub h d a b => Sys2Proof.Machine.execVfsub h d a b s
  | .vfsubzr h d a b => Sys2Proof.Machine.execVfsubzr h d a b s
  | .vfsubfl h d a b => Sys2Proof.Machine.execVfsubfl h d a b s
  | .vfsubcl h d a b => Sys2Proof.Machine.execVfsubcl h d a b s
  | .vfmul h d a b => Sys2Proof.Machine.execVfmul h d a b s
  | .vfmulzr h d a b => Sys2Proof.Machine.execVfmulzr h d a b s
  | .vfmulfl h d a b => Sys2Proof.Machine.execVfmulfl h d a b s
  | .vfmulcl h d a b => Sys2Proof.Machine.execVfmulcl h d a b s
  | .vfma h d a b c => Sys2Proof.Machine.execVfma h d a b c s
  | .vfmazr h d a b c => Sys2Proof.Machine.execVfmazr h d a b c s
  | .vfmafl h d a b c => Sys2Proof.Machine.execVfmafl h d a b c s
  | .vfmacl h d a b c => Sys2Proof.Machine.execVfmacl h d a b c s
  | .vfdiv h d a b => Sys2Proof.Machine.execVfdiv h d a b s
  | .vfdivzr h d a b => Sys2Proof.Machine.execVfdivzr h d a b s
  | .vfsqrt h d a => Sys2Proof.Machine.execVfsqrt h d a s
  | .vfmin h d a b => Sys2Proof.Machine.execVfmin h d a b s
  | .vfmax h d a b => Sys2Proof.Machine.execVfmax h d a b s
  | .vfabs h d a => Sys2Proof.Machine.execVfabs h d a s
  | .vfneg h d a => Sys2Proof.Machine.execVfneg h d a s
  | .vfcmp h d a b cc => Sys2Proof.Machine.execVfcmp h d a b cc s
  | .vfexp h d a => Sys2Proof.Machine.execVfexp h d a s
  | .vfscale h d a b => Sys2Proof.Machine.execVfscale h d a b s
  | .vfrint h d a => Sys2Proof.Machine.execVfrint h d a s
  | .vfrintfl h d a => Sys2Proof.Machine.execVfrintfl h d a s
  | .vcvt h d a ty ty2 part => Sys2Proof.Machine.execVcvt h d a ty ty2 part s
  | .vcvtzr h d a ty ty2 part => Sys2Proof.Machine.execVcvtzr h d a ty ty2 part s
  | .vcvtfl h d a ty ty2 part => Sys2Proof.Machine.execVcvtfl h d a ty ty2 part s
  | .vcvtcl h d a ty ty2 part => Sys2Proof.Machine.execVcvtcl h d a ty ty2 part s
  | .vnars h d a ty ty2 part => Sys2Proof.Machine.execVnars h d a ty ty2 part s
  | .vnarw h d a ty ty2 part => Sys2Proof.Machine.execVnarw h d a ty ty2 part s
  | .vqblk h d a => Sys2Proof.Machine.execVqblk h d a s
  | .vdqblk h d a => Sys2Proof.Machine.execVdqblk h d a s
  | .vredf h d a => Sys2Proof.Machine.execVredf h d a s
  | .vredfmax h d a => Sys2Proof.Machine.execVredfmax h d a s
  | .vredfmin h d a => Sys2Proof.Machine.execVredfmin h d a s
  | .vred h d a ty => Sys2Proof.Machine.execVred h d a ty s
  | .vreds h d a ty => Sys2Proof.Machine.execVreds h d a ty s
  | .vredmax h d a ty => Sys2Proof.Machine.execVredmax h d a ty s
  | .vredmin h d a ty => Sys2Proof.Machine.execVredmin h d a ty s
  | .vscan h d a b ty exc => Sys2Proof.Machine.execVscan h d a b ty exc s
  | .vbpfx h d a b => Sys2Proof.Machine.execVbpfx h d a b s
  | .visect h d a b c half xw => Sys2Proof.Machine.execVisect h d a b c half xw s
  | .vcmprs h d a => Sys2Proof.Machine.execVcmprs h d a s
  | .vexpnd h d a => Sys2Proof.Machine.execVexpnd h d a s
  | .vperm h d a b => Sys2Proof.Machine.execVperm h d a b s
  | .vbcast h d a lane => Sys2Proof.Machine.execVbcast h d a lane s
  | .vrotl h d a lane => Sys2Proof.Machine.execVrotl h d a lane s
  | .vslide h d a b lane => Sys2Proof.Machine.execVslide h d a b lane s
  | .vzip h d a b half => Sys2Proof.Machine.execVzip h d a b half s
  | .vunzip h d a b half => Sys2Proof.Machine.execVunzip h d a b half s
  | .vmov h d a => Sys2Proof.Machine.execVmov h d a s
  | .vsplat h d a => Sys2Proof.Machine.execVsplat h d a s
  | .mand h d a b => Sys2Proof.Machine.execMand h d a b s
  | .mor h d a b => Sys2Proof.Machine.execMor h d a b s
  | .mxor h d a b => Sys2Proof.Machine.execMxor h d a b s
  | .mnot h d a => Sys2Proof.Machine.execMnot h d a s
  | .mpopc h d a => Sys2Proof.Machine.execMpopc h d a s
  | .msetx h d a b => Sys2Proof.Machine.execMsetx h d a b s
  | .mgetx h d a half => Sys2Proof.Machine.execMgetx h d a half s
  | .xadd h d a b => Sys2Proof.Machine.execXadd h d a b s
  | .xsub h d a b => Sys2Proof.Machine.execXsub h d a b s
  | .xmul h d a b => Sys2Proof.Machine.execXmul h d a b s
  | .xand h d a b => Sys2Proof.Machine.execXand h d a b s
  | .xior h d a b => Sys2Proof.Machine.execXior h d a b s
  | .xxor h d a b => Sys2Proof.Machine.execXxor h d a b s
  | .xshl h d a b => Sys2Proof.Machine.execXshl h d a b s
  | .xshr h d a b => Sys2Proof.Machine.execXshr h d a b s
  | .xmovi h d imm => Sys2Proof.Machine.execXmovi h d imm s
  | .xlane h d a lane => Sys2Proof.Machine.execXlane h d a lane s
  | .xloop h xc nr fin => Sys2Proof.Machine.execXloop h xc nr fin s
  | .xloopImmediate h nr limm fin => Sys2Proof.Machine.execXloopImmediate h nr limm fin s
  | .xbr h imm => Sys2Proof.Machine.execXbr h imm s
  | .xbrc h t imm => Sys2Proof.Machine.execXbrc h t imm s
  | .xbend h t => Sys2Proof.Machine.execXbend h t s
  | .vld h d a imm => Sys2Proof.Machine.execVld h d a imm s
  | .vldIndexed h d a b ty imm => Sys2Proof.Machine.execVldIndexed h d a b ty imm s
  | .vst h a b imm => Sys2Proof.Machine.execVst h a b imm s
  | .vstIndexed h a b c ty imm => Sys2Proof.Machine.execVstIndexed h a b c ty imm s
  | .mwldF4 h a w => Sys2Proof.Machine.execMwldF4 h a w s
  | .mwldE4m3 h a w => Sys2Proof.Machine.execMwldE4m3 h a w s
  | .mwldE5m2 h a w => Sys2Proof.Machine.execMwldE5m2 h a w s
  | .mwldBf16 h a w => Sys2Proof.Machine.execMwldBf16 h a w s
  | .mwldF16 h a w => Sys2Proof.Machine.execMwldF16 h a w s
  | .mwldI8 h a w => Sys2Proof.Machine.execMwldI8 h a w s
  | .mwldN8 h a w => Sys2Proof.Machine.execMwldN8 h a w s
  | .mwldI4 h a w => Sys2Proof.Machine.execMwldI4 h a w s
  | .mwldN4 h a w => Sys2Proof.Machine.execMwldN4 h a w s
  | .mwid h ty => Sys2Proof.Machine.execMwid h ty s
  | .mwperm h a ty => Sys2Proof.Machine.execMwperm h a ty s
  | .mwones h ty => Sys2Proof.Machine.execMwones h ty s
  | .mwsel h a ty => Sys2Proof.Machine.execMwsel h a ty s
  | .mwswp h => Sys2Proof.Machine.execMwswp h s
  | .mmul h a ty abase => Sys2Proof.Machine.execMmul h a ty abase s
  | .mmulz h a ty abase => Sys2Proof.Machine.execMmulz h a ty abase s
  | .mmulm h a ty abase g mbase ngm1 gte => Sys2Proof.Machine.execMmulm h a ty abase g mbase ngm1 gte s
  | .mmulmz h a ty abase g mbase ngm1 gte => Sys2Proof.Machine.execMmulmz h a ty abase g mbase ngm1 gte s
  | .macrd h d row cg clr => Sys2Proof.Machine.execMacrd h d row cg clr s
  | .macrdScratchpad h a row cg clr => Sys2Proof.Machine.execMacrdScratchpad h a row cg clr s
  | .macclr h row nrm1 => Sys2Proof.Machine.execMacclr h row nrm1 s
  | .mscoutQuery h a eidx => Sys2Proof.Machine.execMscoutQuery h a eidx s
  | .mscoutKey h a eidx => Sys2Proof.Machine.execMscoutKey h a eidx s
  | .mscoutScore h d a eidx nqm1 nkm1 slane nsegm1 => Sys2Proof.Machine.execMscoutScore h d a eidx nqm1 nkm1 slane nsegm1 s
  | .mcairn h d a b c => Sys2Proof.Machine.execMcairn h d a b c s
  | .gand h d a b => Sys2Proof.Machine.execGand h d a b s
  | .gor h d a b => Sys2Proof.Machine.execGor h d a b s
  | .gandn h d a b => Sys2Proof.Machine.execGandn h d a b s
  | .gset h d a => Sys2Proof.Machine.execGset h d a s
  | .gget h d a => Sys2Proof.Machine.execGget h d a s
  | .xpRdv h => Sys2Proof.Machine.execXpRdv h s
  | .xpWait h d a b all ncm1 imm => Sys2Proof.Machine.execXpWait h d a b all ncm1 imm s
  | .wlpopv h d xn => Sys2Proof.Machine.execWlpopv h d xn s
  | .xpIfence h => Sys2Proof.Machine.execXpIfence h s
  | .xpRdsr h d half srn => Sys2Proof.Machine.execXpRdsr h d half srn s
  | .xpWrsr h a srn => Sys2Proof.Machine.execXpWrsr h a srn s
  | .xpYield h => Sys2Proof.Machine.execXpYield h s
  | .xpTrap h code => Sys2Proof.Machine.execXpTrap h code s
  | .xpDone h => Sys2Proof.Machine.execXpDone h s
  | .xpNop h => Sys2Proof.Machine.execXpNop h s
  | .xpFenceAcq h sc => Sys2Proof.Machine.execXpFenceAcq h sc s
  | .xpFenceRel h sc => Sys2Proof.Machine.execXpFenceRel h sc s
  | .xpFenceSc h sc => Sys2Proof.Machine.execXpFenceSc h sc s
  | .stallRelease t => Sys2Proof.Machine.execStallRelease t s
  | .waitTimeout t => Sys2Proof.Machine.execWaitTimeout t s
  | .watchdog t => Sys2Proof.Machine.execWatchdog t s
  | .loadDataArrival id => Sys2Proof.Machine.execLoadDataArrival id s
  | .longLatencyDelivery id => Sys2Proof.Machine.execLongLatencyDelivery id s
  | .tokenArrival id => Sys2Proof.Machine.execTokenArrival id s
  | .memoryRequestArrival id ue => Sys2Proof.Machine.execMemoryRequestArrival id ue s
  | .atomicPerform id ue => Sys2Proof.Machine.execAtomicPerform id ue s
  | .pageTableWalk core ctx va acc => Sys2Proof.Machine.execPageTableWalk core ctx va acc s
  | .copy core id => Sys2Proof.Machine.execCopy core id s
  | .copyToImem core id => Sys2Proof.Machine.execCopyToImem core id s
  | .copyToTemplateStore core id => Sys2Proof.Machine.execCopyToTemplateStore core id s
  | .publish core id => Sys2Proof.Machine.execPublish core id s
  | .gather core id => Sys2Proof.Machine.execGather core id s
  | .rread core id => Sys2Proof.Machine.execRread core id s
  | .rreadReply core id row => Sys2Proof.Machine.execRreadReply core id row s
  | .pool core id => Sys2Proof.Machine.execPool core id s
  | .csr core id => Sys2Proof.Machine.execCsr core id s
  | .decode core id => Sys2Proof.Machine.execDecode core id s
  | .encode core id => Sys2Proof.Machine.execEncode core id s
  | .hist core id => Sys2Proof.Machine.execHist core id s
  | .build core id => Sys2Proof.Machine.execBuild core id s
  | .copyCompletion core id => Sys2Proof.Machine.execCopyCompletion core id s
  | .almanacRelease core id => Sys2Proof.Machine.execAlmanacRelease core id s
  | .codecDecodeBlock u => Sys2Proof.Machine.execCodecDecodeBlock u s
  | .codecEncodeBlock u => Sys2Proof.Machine.execCodecEncodeBlock u s
  | .chainEntryFetch core ctx chan => Sys2Proof.Machine.execChainEntryFetch core ctx chan s
  | .chainSlotConsume core ctx chan => Sys2Proof.Machine.execChainSlotConsume core ctx chan s
  | .chainPost core ctx chan => Sys2Proof.Machine.execChainPost core ctx chan s
  | .ringAuditEvent ten n flip => Sys2Proof.Machine.execRingAuditEvent ten n flip s
  | .triggerLaunch ten n => Sys2Proof.Machine.execTriggerLaunch ten n s
  | .streamElementGenerate core ctx sp => Sys2Proof.Machine.execStreamElementGenerate core ctx sp s
  | .streamLineFull core ctx sp line => Sys2Proof.Machine.execStreamLineFull core ctx sp line s
  | .streamDrain core ctx sp => Sys2Proof.Machine.execStreamDrain core ctx sp s
  | .maskLatch core ctx sp => Sys2Proof.Machine.execMaskLatch core ctx sp s
  | .peerElementArrival id => Sys2Proof.Machine.execPeerElementArrival id s
  | .endMarkerArrival id => Sys2Proof.Machine.execEndMarkerArrival id s
  | .workListSpill core ctx => Sys2Proof.Machine.execWorkListSpill core ctx s
  | .workListRefill core ctx => Sys2Proof.Machine.execWorkListRefill core ctx s
  | .arrayOperation core => Sys2Proof.Machine.execArrayOperation core s
  | .scoutOperation core => Sys2Proof.Machine.execScoutOperation core s
  | .deferredPoisonTrap core ctx => Sys2Proof.Machine.execDeferredPoisonTrap core ctx s
  | .barrierArrivalMessage id => Sys2Proof.Machine.execBarrierArrivalMessage id s
  | .handlerDispatch core => Sys2Proof.Machine.execHandlerDispatch core s
  | .correctableErrorFreeze err => Sys2Proof.Machine.execCorrectableErrorFreeze err s
  | .freezeEnd core => Sys2Proof.Machine.execFreezeEnd core s
  | .msixWrite write => Sys2Proof.Machine.execMsixWrite write s
  | .tailSwapReport ten cls => Sys2Proof.Machine.execTailSwapReport ten cls s
  | .stepBind ten pick => Sys2Proof.Machine.execStepBind ten pick s
  | .gangRelease step => Sys2Proof.Machine.execGangRelease step s
  | .transformNodeStart ten => Sys2Proof.Machine.execTransformNodeStart ten s
  | .nodeCompletion run => Sys2Proof.Machine.execNodeCompletion run s
  | .cardCompletion id => Sys2Proof.Machine.execCardCompletion id s
  | .stepAgeing step => Sys2Proof.Machine.execStepAgeing step s
  | .yieldRequest step victim => Sys2Proof.Machine.execYieldRequest step victim s
  | .setAside step => Sys2Proof.Machine.execSetAside step s
  | .qtailWrite ten cls v => Sys2Proof.Machine.execQtailWrite ten cls v s
  | .ctrWrite ten n v => Sys2Proof.Machine.execCtrWrite ten n v s
  | .ccfgWrite ten n v => Sys2Proof.Machine.execCcfgWrite ten n v s
  | .lpost ten v => Sys2Proof.Machine.execLpost ten v s
  | .forcedHalt ten => Sys2Proof.Machine.execForcedHalt ten s
  | .haltRelease ten => Sys2Proof.Machine.execHaltRelease ten s
  | .cooperativeRequest ten => Sys2Proof.Machine.execCooperativeRequest ten s
  | .swapOut ten => Sys2Proof.Machine.execSwapOut ten s
  | .swapIn ten => Sys2Proof.Machine.execSwapIn ten s
  | .swapExchange ten => Sys2Proof.Machine.execSwapExchange ten s
  | .tlbiWholeTenant ten => Sys2Proof.Machine.execTlbiWholeTenant ten s
  | .tlbiRange ten npages => Sys2Proof.Machine.execTlbiRange ten npages s
  | .tlbInvalidationComplete ten => Sys2Proof.Machine.execTlbInvalidationComplete ten s
  | .parkqRead core => Sys2Proof.Machine.execParkqRead core s
  | .parkResume core ctx sp => Sys2Proof.Machine.execParkResume core ctx sp s
  | .parkDeliver core ctx sp => Sys2Proof.Machine.execParkDeliver core ctx sp s
  | .cecountRead core => Sys2Proof.Machine.execCecountRead core s
  | .lostRead ten => Sys2Proof.Machine.execLostRead ten s
  | .cctlResume core ctx => Sys2Proof.Machine.execCctlResume core ctx s
  | .cctlParkResume core ctx sp => Sys2Proof.Machine.execCctlParkResume core ctx sp s
  | .cctlParkDeliver core ctx sp => Sys2Proof.Machine.execCctlParkDeliver core ctx sp s
  | .cpartMove c v => Sys2Proof.Machine.execCpartMove c v s
  | .cpartMoveComplete c => Sys2Proof.Machine.execCpartMoveComplete c s
  | .retrain => Sys2Proof.Machine.execRetrain s
  | .portModeOff p => Sys2Proof.Machine.execPortModeOff p s
  | .portModeNymay p => Sys2Proof.Machine.execPortModeNymay p s
  | .portModeIngress p => Sys2Proof.Machine.execPortModeIngress p s
  | .portCounterRead p ctr => Sys2Proof.Machine.execPortCounterRead p ctr s
  | .registerWrite fn off n v => Sys2Proof.Machine.execRegisterWrite fn off n v s
  | .vfFlr ten => Sys2Proof.Machine.execVfFlr ten s
  | .pf0Flr => Sys2Proof.Machine.execPf0Flr s
  | .hostPostedWrite fn off bs => Sys2Proof.Machine.execHostPostedWrite fn off bs s
  | .hostRead fn bar0 off n => Sys2Proof.Machine.execHostRead fn bar0 off n s
  | .hostAtomicop fn off n op v => Sys2Proof.Machine.execHostAtomicop fn off n op v s
  | .spdmRequest req => Sys2Proof.Machine.execSpdmRequest req s
  | .deviceReset => Sys2Proof.Machine.execDeviceReset s
  | .firmwareImageVerify => Sys2Proof.Machine.execFirmwareImageVerify s
  | .thermalWarning temp => Sys2Proof.Machine.execThermalWarning temp s
  | .thermalTrip temp => Sys2Proof.Machine.execThermalTrip temp s
  | .bridgeRetrainEvent => Sys2Proof.Machine.execBridgeRetrainEvent s
  | .bridgeLinkDown => Sys2Proof.Machine.execBridgeLinkDown s
  | .bridgeTrainingComplete => Sys2Proof.Machine.execBridgeTrainingComplete s
  | .nymayLinkDown p => Sys2Proof.Machine.execNymayLinkDown p s
  | .nymayRequestArrival p off n op v => Sys2Proof.Machine.execNymayRequestArrival p off n op v s
  | .gvspLeader p g width height pix => Sys2Proof.Machine.execGvspLeader p g width height pix s
  | .gvspPayload p g pkt bs => Sys2Proof.Machine.execGvspPayload p g pkt bs s
  | .gvspTrailer p g len => Sys2Proof.Machine.execGvspTrailer p g len s
  | .gvspPacketRefused d => Sys2Proof.Machine.execGvspPacketRefused d s
  | .frameTimeout p => Sys2Proof.Machine.execFrameTimeout p s
  | .hostIngressFrame p bs => Sys2Proof.Machine.execHostIngressFrame p bs s
  | .timeSyncMessage => Sys2Proof.Machine.execTimeSyncMessage s
  | .cxlMemRequest ten off n wr => Sys2Proof.Machine.execCxlMemRequest ten off n wr s
  | .nymayLinkRetrain p => Sys2Proof.Machine.execNymayLinkRetrain p s
  | .ethernetLinkUp p => Sys2Proof.Machine.execEthernetLinkUp p s

end Sys2Proof.Machine
end

