-- ==== Sys2Proof/Machine/Errors.lean ====
section
/-! DEFINITION. Uncorrectable errors of every kind of storage (R420, R422, R424), and the end of an abandoned step (R402). -/

namespace Sys2Proof.Machine
open Sys2Proof

/-! ## Where poison is put (R422) -/

/-- Poison chunk `j` of a vector register. -/
def VReg.spoil (v : VReg) (j : Nat) : VReg := { v with bad := v.bad ||| BitVec.ofNat 32 (2 ^ j) }
def EBuf.spoil (e : EBuf) (j : Nat) : EBuf := { e with bad := e.bad ||| BitVec.ofNat 32 (2 ^ j) }

/-- Poison a chunk of register `i` of a file, the latch file or the main file. A port holds no register. -/
def Ctx.spoilVec (c : Ctx) (l : Level) (i j : Nat) : Ctx := match l with
  | .main => { c with v := c.v.put i ((c.v.get {} i).spoil j) }
  | .file => { c with o := c.o.put i ((c.o.get {} i).spoil j) }
  | .latch => { c with lt := c.lt.put i ((c.lt.get {} i).spoil j) }
  | .port => c

/-- Poison 8-byte word `j` of a K-row of a bank. -/
def Bank.spoil (b : Bank) (k j : Nat) : Bank :=
  { b with bad := b.bad.set 0 k (b.bad.get 0 k ||| BitVec.ofNat 256 (0xFFFF * 2 ^ (16 * j))) }

/-- Poison 8-byte word `j` of the block scales of a bank. -/
def Bank.spoilScales (b : Bank) (j : Nat) : Bank :=
  { b with scaleBad := (scalesIn j).foldl (fun m n => m.set 0 (n / 8) (m.get 0 (n / 8) ||| BitVec.ofNat 8 (2 ^ (n % 8)))) b.scaleBad }

/-- Change one parked context of a tenant, of a set in shadow storage (R412, R429). -/
def State.modShadow (s : State) (ten rank ctx : Nat) (f : ParkedCtx → ParkedCtx) : State :=
  match s.dev.parked.find? fun p => p.1 == ten with
  | some (_, p) =>
    if p.host then s else
    let cs := p.ctxs.map fun c => if c.rank = rank ∧ c.ctx = ctx then f c else c
    { s with dev := { s.dev with parked := s.dev.parked.put ten { p with ctxs := cs } } }
  | none => s

def CodecTable.spoil (t : CodecTable) : CodecTable := { t with bad := true }

/-- Mark the word of a place as poisoned. An entry of the Almanac gives its command poisoned input (log entry 83). -/
def State.spoil (s : State) : ErrorSite → State
  | .memory _ _ pa => { s with bad := s.bad.set false (pa / 8) true }
  | .areg k x i => s.modCtx k x fun c => { c with a := c.a.put (i % 32) { c.a.get {} (i % 32) with bad := true } }
  | .xreg k x i => s.modCtx k x fun c => { c with x := c.x.put (i % 16) { c.x.get {} (i % 16) with bad := true } }
  | .mreg k x i => s.modCtx k x fun c => { c with m := c.m.put (i % 8) { c.m.get {} (i % 8) with bad := true } }
  | .greg k x i => s.modCtx k x fun c => { c with g := c.g.put (i % 8) { c.g.get {} (i % 8) with bad := true } }
  | .vec k x l i j => s.modCtx k x fun c => c.spoilVec l (i % 128) (j % 32)
  | .acc k x n => s.modCtx k x fun c => { c with mx := { c.mx with accBad := c.mx.accBad.set false (n % 8192) true } }
  | .weight k x b r j => s.modCtx k x fun c => { c with mx := c.mx.setBank b ((c.mx.bank b).spoil (r % 64) (j % 16)) }
  | .scale k x b j => s.modCtx k x fun c => { c with mx := c.mx.setBank b ((c.mx.bank b).spoilScales (j % 384)) }
  | .query k x e j => s.modCtx k x fun c =>
      { c with mx := { c.mx with qry := c.mx.qry.put (e % 32) ((c.mx.qry.get {} (e % 32)).spoil (j % 32)) } }
  | .key k x e j => s.modCtx k x fun c =>
      { c with mx := { c.mx with key := c.mx.key.put (e % 32) ((c.mx.key.get {} (e % 32)).spoil (j % 32)) } }
  | .imem k w => s.modCore k fun c => { c with imemBad := c.imemBad.set false (w % 65536) true }
  | .template t i => s.modHalf t fun h => { h with tmplBad := h.tmplBad.set false (i % 62) true }
  | .shadow t r x => s.modShadow t r x fun c => { c with shadowBad := true }
  | .shadowVec t r x l i j => s.modShadow t r x fun c => { c with held := c.held.spoilVec l (i % 128) (j % 32) }
  | .shadowAcc t r x n => s.modShadow t r x fun c =>
      { c with held := { c.held with mx := { c.held.mx with accBad := c.held.mx.accBad.set false (n % 8192) true } } }
  | .preg k x i => s.modCtx k x fun c => { c with p := c.p.put (i % 8) { c.p.get {} (i % 8) with bad := true } }
  | .barrier k n => s.modCore k fun c => { c with bars := c.bars.put (n % 2048) { c.bars.get {} (n % 2048) with bad := true } }
  | .almanac k id => s.modCmd k id fun q => if q.time.isSome then { q with res := { q.res with pois := true } } else q
  | .table (.cmd k id) => s.modCmd k id fun q => { q with table := q.table.map CodecTable.spoil }
  | .table (.port k x n) => s.modPort k x n fun p => { p with table := p.table.map CodecTable.spoil }

/-! ## The log entry -/

/-- The storage of a place, by number; Table 16-10 gives no codes (log entry 2). -/
def ErrorSite.storage : ErrorSite → Nat
  | .memory _ _ pa => if inSpad pa then 1 else if inSram pa then 2 else 0
  | .areg _ _ _ | .xreg _ _ _ | .mreg _ _ _ | .greg _ _ _ | .preg _ _ _ | .vec _ _ _ _ _ => 3
  | .acc _ _ _ => 4
  | .weight _ _ _ _ _ | .scale _ _ _ _ => 5
  | .query _ _ _ _ | .key _ _ _ _ => 6
  | .imem _ _ => 7
  | .template _ _ => 8
  | .shadow _ _ _ | .shadowVec _ _ _ _ _ _ | .shadowAcc _ _ _ _ => 10
  | .barrier _ _ => 9
  | .almanac _ _ => 11
  | .table _ => 12

/-- The core and the context of a place, where it has them. -/
def ErrorSite.place : ErrorSite → Option (Nat × Option Nat)
  | .memory k x _ | .areg k x _ | .xreg k x _ | .mreg k x _ | .greg k x _ | .preg k x _ | .table (.port k x _) | .vec k x _ _ _ | .acc k x _ | .weight k x _ _ _
  | .scale k x _ _ | .query k x _ _ | .key k x _ _ => some (k, some x)
  | .template t _ => some (t.core, some t.ctx)
  | .imem k _ | .barrier k _ | .almanac k _ | .table (.cmd k _) => some (k, none)
  | .shadow _ _ _ | .shadowVec _ _ _ _ _ _ | .shadowAcc _ _ _ _ => none

/-- The tenant whose log takes the error of a place. -/
def State.errorLog (s : State) : ErrorSite → Option Nat
  | .shadow t _ _ | .shadowVec t _ _ _ _ _ | .shadowAcc t _ _ _ => some t
  | e => match e.place with
    | some (k, some x) => (s.src k x).log
    | some (k, none) => s.coreTenant k
    | none => none

/-- An uncorrectable error is found (R422): its word is marked poisoned, and it is logged as class 2 with the storage, the core and
the word's address, or its location, whose code is open (log entry 83). -/
def State.findError (s : State) (e : ErrorSite) : State :=
  let (f, s) := (s.spoil e).newFree
  let (k, x) := e.place.getD (0, none)
  s.logError (s.errorLog e)
    { cls := 2, sub := (Config.storageKind e.storage).toNat, core := k, ctx := x.getD 0, sys := x == some 4
      d0 := match e with
        | .memory _ _ pa => pa
        | _ => Config.errorPlace f }

/-! ## The end of an abandoned step (R402) -/

/-- An abandoned step leaves its context once its sinks have drained and its chains are over, as AP DONE waits for them (log entry
84), and while its core is not frozen (R420). -/
def State.leave (s : State) (k x : Nat) : State :=
  if (s.ctx k x).ending && !s.frozen k && s.sinksDrained k x && s.chainsOver k x then (s.unbind k x).dropTokens k x else s

end Sys2Proof.Machine
end

