-- ==== Sys2Proof/Machine/Pass.lean ====
section
/-! DEFINITION. What the machine sees at the end of a cycle, before time passes: waits that end, steps that wait for others (R323, R325, R388). -/

namespace Sys2Proof.Machine
open Sys2Proof

/-- A half that waits in a WAIT tests its conditions in this cycle, after all that happens in it; then its limit, which is over where
the deadline has come, or comes in a cycle before the time of the next turn. A frozen core tests nothing (R325). -/
def State.latch (s : State) (ticks : Nat) (t : Tid) : State :=
  match (s.half t).stall with
  | some w =>
    match w.conds, w.deadline, w.latched with
    | some c, some d, none =>
      if s.runnable t then
        (s.lookConds t c.entries).modHalf t fun h => { h with stall := h.stall.map fun w =>
          { w with latched := s.waitEnd t c (decide (d ≤ s.gtc) || decide (d < s.gtc + ticks)) } }
      else s
    | _, _, _ => s
  | none => s

/-- The halves of the machine that wait. -/
def State.waiters (s : State) : List Tid :=
  s.cores.flatMap fun k => k.2.ctxs.flatMap fun x => ([.ap, .xp].filter fun h => (x.2.half h).stall.isSome).map fun h => ⟨k.1, x.1, h⟩

/-- Ticks of GTC and cycles pass. -/
def State.pass (s : State) (ticks cycles : Nat) : State :=
  if ticks = 0 ∧ cycles = 0 then s else
  let s := (s.waiters.foldl (fun s t => s.latch ticks t) s).noteHeld
  { s with gtc := s.gtc + ticks, cc := s.cc + cycles }

end Sys2Proof.Machine
end

