-- ==== Sys2Proof/Machine/Step.lean ====
section
/-! DEFINITION. One step of the machine: the next turn of the schedule (log entry 1). -/

namespace Sys2Proof.Machine
open Sys2Proof

/-- A turn in which half `t` issues its next word, where it may (R21, R185). A Poison trap of a multiplication that is pending
comes first at a boundary of the XP (R300). A data literal and a literal that is only stored take no issue slot (R187). -/
noncomputable def issue (t : Tid) (late : List Nat) (s : State) : Out :=
  let none' : Out := .next { s with cur := { s.cur with tid := t } }
  if s.mayIssue t late then
    match s.boundaryTrap t with
    | some m => .next (s.takeMmTrap t.core t.ctx m)
    | none =>
      match s.fetch t with
      | .word c i =>
        if takesNoSlot i then exec i { s with cur := c }
        else if s.inOrder t c.op (streamPort i) then exec i { s.countIssue t (streamPort i) (samples i) with cur := c }
        else none'
      | .data c => .next (({ s with cur := c } : State).advance c.pcn)
      | .fault c i =>
        if s.inOrder t c.op none then .next (({ s.countIssue t none false with cur := c } : State).trapWord 0 c.pc i) else none'
  else none'

/-- What still happens while a thermal trip has stopped every core and every link (R463; log entry 105). -/
def Act.whileTripped : Act → Bool
  | .event (.deviceReset) | .event (.thermalWarning _) | .event (.thermalTrip _) => true
  | _ => false

/-- The step: GTC ticks and core cycles pass, then the turn at the head of the schedule happens. An empty schedule lets the current
half issue after one tick and one cycle, where no other context is ready. -/
noncomputable def step (s : State) : Host.Outcome State Fault Refusal :=
  match s.agenda with
  | [] => issue s.cur.tid (otherCtxs s.cur.tid.ctx) (s.pass 1 1)
  | u :: as =>
    let s := ({ s with agenda := as } : State).pass u.ticks u.cycles
    if s.dev.tripped && !u.act.whileTripped then .next s else
    match u.act with
    | .issue t => issue t u.late s
    | .event i => if i.side = .event then exec i s else .next s
    | .error e => .next (s.findError e)
    | .leave k x => .next (s.leave k x)
    | .beat k id n => .next (s.beat k id n)
    | .fetch k x p i n => .next (s.fetchPart k x p i n)
    | .drain k x p n => .next (s.drainPart k x p n)

/-! ## Placing an instruction -/

/-- The bytes of the literal group that issues an operation word, or stores it only (R184). -/
def literalBytes (st : Option Nat) (op : Nat) : List Byte :=
  let hdr := 63 * 2 ^ 26 + (match st with | some t => 2 ^ 15 + t % 64 | none => 2 ^ 14)
  leBytes 4 hdr ++ leBytes 16 op

/-- The state in which the next step fetches and runs the instruction with the bits of an opcode-table row (log entry 9):
context 0 of core 0 bound and released, its half at IMEM offset 0, the instruction's literal group there, and that half's
turn next. -/
def State.withFetchWord (s : State) (_nbits w : Nat) : State :=
  let only := w / 2 ^ 129 % 2 = 1
  let h : HalfId := if w / 2 ^ 128 % 2 = 1 ∧ ¬ only then .xp else .ap
  let grp := literalBytes (if only then some (w / 2 ^ 130) else none) (w % 2 ^ 128)
  let s := s.modCore 0 fun c => { c with imem := placeBytes c.imem 0 grp, imemBad := [], freezes := 0, issuedAt := [], portAt := none, frozenAt := none }
  let s := s.modCtx 0 0 fun c => { c with
    bind := some { (c.bind.getD {}) with released := true }
    trapped := false
    halted := false
    ending := false
    mx := { c.mx with pend := none } }
  let s := s.modHalf ⟨0, 0, h⟩ fun x => { x with pc := 0, active := true, stall := none }
  { s with
    agenda := [{ act := .issue ⟨0, 0, h⟩, late := otherCtxs 0 }]
    dev := { s.dev with tripped := false, cparts := s.dev.cparts.put 0 { valid := true } } }

end Sys2Proof.Machine
end

