-- ==== Sys2Proof/Safety.lean ====
section
/-! DEFINITION. What a safe state and a safe run are. -/

namespace Sys2Proof.Machine

/-- A safe state: memory is in its canonical form. -/
def Safe (s : State) : Prop := Memory.wf s = true

/-- The state after `n` steps, where each gives a next state. -/
noncomputable def run : Nat → State → Option State
  | 0, s => some s
  | n + 1, s =>
    match step s with
    | .next s' => run n s'
    | .fault _ => none
    | .refused _ => none

/-- A safe run: no step of it faults or is refused, and each state of it is safe. -/
def SafeRun (n : Nat) (s : State) : Prop := ∀ k, k ≤ n → ∃ s', run k s = some s' ∧ Safe s'

end Sys2Proof.Machine
end

