-- ==== Sys2Proof/Safety/Terms.lean ====
section
/-! DEFINITION. The terms in which the statements speak: when a word may start and complete, the state in which its body runs,
what it leaves. -/

namespace Sys2Proof.Machine
open Sys2Proof

/-- Every channel of a word's masks is linked and can be crossed, the tokens it takes are there, and there is room for those
it pushes (R29, R176). -/
def tokensReady (popm pushm : BitVec 5) (s : State) : Bool :=
  ((channels (popm ||| pushm)).all fun c => (s.chanTrap s.cur.tid c).isNone)
    && s.canPop s.cur.tid popm && s.canPush s.cur.tid pushm

/-- A word with these masks starts, or goes on after a wait (R176). -/
def starts (popm pushm : BitVec 5) (s : State) : Bool := (s.half s.cur.tid).inWord || tokensReady popm pushm s

/-- The state in which the body of a word runs: its masks have acted, once (R176). -/
def started (popm pushm : BitVec 5) (s : State) : State :=
  if (s.half s.cur.tid).inWord then s else s.takeTokens s.cur.tid popm pushm

/-- An AP word executes: its predicate is at hand, unpoisoned and lets it run, its masks are allowed and ready (R198, R202,
R224). -/
def apGo (h : ApHdr) (s : State) : Bool :=
  !s.busyP h.pred && !(s.me.pred h.pred).bad && ((s.me.pred h.pred).v != h.psense)
    && (s.me.elide.isNone || h.popm ||| h.pushm == 0) && starts h.popm h.pushm s

/-- An AP word executes, and no elided region is open: the condition of the forms that abort a region (R224). -/
def apGoPlain (h : ApHdr) (s : State) : Bool := apGo h s && s.me.elide.isNone

/-- An XP word executes: its masks are ready. -/
def xpGo (h : XpHdr) (s : State) : Bool := starts h.popm h.pushm s

/-- The state of an AP word's body, and of an XP word's. -/
def apIn (h : ApHdr) (s : State) : State := started h.popm h.pushm s
def xpIn (h : XpHdr) (s : State) : State := started h.popm h.pushm s

/-- An AP word that has completed, its body having reached `t`: template store, pushes, the next group (R176, R185, R210). -/
def apOut (h : ApHdr) (s t : State) (next : Next := none) : State := t.retire (apIn h s).nextId next
def xpOut (h : XpHdr) (s t : State) (next : Next := none) : State := t.retire (xpIn h s).nextId next

/-- An AP register that a word can compute on: no load in flight will write it, and it is not poisoned (R201, R202). -/
def canUse (s : State) (r : BitVec 5) : Bool := !s.busyA r && !(s.me.areg r).bad
def canUse2 (s : State) : Op2 → Bool
  | .reg r => canUse s r
  | .imm _ => true
/-- A predicate that a word can compute on. -/
def canTest (s : State) (p : BitVec 3) : Bool := !s.busyP p && !(s.me.pred p).bad

/-- The value of an AP register: `a0` reads as zero (R165). -/
def aVal (s : State) (r : BitVec 5) : BitVec 64 := (s.me.areg r).v
def aTaint (s : State) (r : BitVec 5) : Bool := (s.me.areg r).taint
/-- The second operand (R199): RB, or the immediate, sign-extended. -/
def op2Val (s : State) : Op2 → BitVec 64
  | .reg r => aVal s r
  | .imm v => v.signExtend 64
def op2Taint (s : State) : Op2 → Bool
  | .reg r => aTaint s r
  | .imm _ => false

/-- An AP word that has written one register, and gone to the next group or to `next`. -/
def apSets (h : ApHdr) (s : State) (rd : BitVec 5) (v : AReg) (next : Next := none) : State :=
  apOut h s ((apIn h s).modMe (·.setA rd v)) next
/-- An AP word that has written one predicate. -/
def apSetsP (h : ApHdr) (s : State) (pd : BitVec 3) (v : Bool) : State :=
  apOut h s ((apIn h s).modMe (·.setP pd { v := v }))

/-! ## Accesses -/

/-- The effective address of an AP form (R199). -/
def effVal (s : State) (ra : BitVec 5) (off : BitVec 32) : Nat := (aVal s ra + off.signExtend 64).toNat

/-- An aligned access of the current word translates to a part `p`, whose home it can reach, in the state `t` (R72, R213, R426). -/
def reaches (s : State) (va n : Nat) (acc : AccessKind) (p : Part) (t : State) : Prop :=
  va % n = 0 ∧ s.xlat (s.rq s.cur.tid.core s.cur.tid.ctx 0) va n n acc = (.ok p, t) ∧ t.linkCut s.cur.tid.core p.pa = none

/-- The part of a local offset (R81, R82, R214): the core's own scratchpad, RC, memory type 11b. -/
def ownPart (s : State) (o : Nat) : Part := { pa := spad s.cur.tid.core o, ord := .rc, mt := 3 }

/-- An access of the current word, at the part it goes to. -/
def request (s : State) (op : ReqOp) (p : Part) (n : Nat) (data : AReg) (dst : ReqDst) : Req :=
  { id := s.nextId, tid := s.cur.tid, op := op, pa := p.pa, n := n, ord := p.ord, mt := p.mt,
    ten := s.ctxTenant s.cur.tid.core s.cur.tid.ctx, sys := s.cur.tid.ctx == 4, data := data.v, dbad := data.bad, dst := dst }

/-- The state in which an access is in flight (R353). -/
def sends (s : State) (q : Req) : State := s.putReq q

/-! ## Vector operands -/

/-- The value of a V-class operand that names a register, at its index after rotation (R166, R174). -/
def regVal (s : State) (o : Opnd) : VV :=
  let r : VReg := match o.lvl with
    | .main => s.me.v.get {} (s.me.index o)
    | .file => s.me.o.get {} o.idx.toNat
    | _ => s.me.lt.get {} o.idx.toNat
  { v := r.v, bad := r.bad }

/-- A V-class operand that names a register a word can use now: a main vector that the context has, and that is full; no scout
score of it on its way (R170, R171, R240, R303). -/
def regReady (s : State) (o : Opnd) : Bool :=
  match o.lvl with
  | .main => let r := s.me.v.get {} (s.me.index o)
             decide (s.me.index o < s.me.mains s.cur.tid.ctx) && r.full && !r.busy
  | .file => !(s.me.o.get {} o.idx.toNat).busy
  | .latch => !(s.me.lt.get {} o.idx.toNat).busy
  | .port => false

/-- The operands of an XP word are at hand: the lane mask, the values of its sources in order, and the state once ports have
been popped (R11, R240, R242). -/
def hasOperands (h : XpHdr) (d : Option Opnd) (srcs : List Opnd) (s : State) (act : BitVec 64) (vs : List VV) (t : State) : Prop :=
  operands h d srcs (xpIn h s) = .ok ((act, vs), t)

/-- A destination that takes a value whatever it is: a register, or a port that a push succeeds on. -/
def takes (d : Opnd) (s : State) : Prop := ∀ w, ∃ t, putV d w s = .ok ((), t)

/-- The state after a V-class write (R242). -/
def puts (d : Opnd) (s : State) (w : VW) : State :=
  match putV d w s with
  | .ok (_, t) => t
  | .error _ => s

/-- No active lane of a source is poisoned (R243). -/
def clean (act : BitVec 64) (vs : List VV) : Bool := vs.all fun x => (x.badLane act).isNone

/-- What the Poison trap of a computing form says (R243): the first source with a poisoned active lane, and the first such lane. -/
def poisonOf (act : BitVec 64) (vs : List VV) (i : TrapInfo) : Prop :=
  ∃ k l, k < vs.length ∧ l < 64 ∧ i = { code := 8, opnd := k + 1, lane := l, chunk := l / 2 } ∧
    act.getLsbD l = true ∧ (vs.getD k {}).bad.getLsbD (l / 2) = true ∧
    (∀ j < l, act.getLsbD j = true → (vs.getD k {}).bad.getLsbD (j / 2) = false) ∧
    ∀ j < k, clean act [vs.getD j {}] = true

/-- An XP word that has written one V-class destination, after its operands led to `t`. -/
def xpPuts (h : XpHdr) (s t : State) (d : Opnd) (w : VW) : Out := .next (xpOut h s (puts d t w))

/-- An XP word that has written one lane-mask register, or one x register. -/
def xpSetsM (h : XpHdr) (s t : State) (d : BitVec 3) (v : BitVec 64) : Out := .next (xpOut h s (t.modMe (·.setM d { v := v })))
def xpSetsX (h : XpHdr) (s t : State) (d : BitVec 4) (v : Nat) : Out :=
  .next (xpOut h s (t.modMe (·.setX d { v := BitVec.ofNat 32 v })))

/-- A second scalar source that a word can compute on, and its value (R266). -/
def canUseX (s : State) : XOp2 → Bool
  | .reg x => !(s.me.xreg x).bad
  | .imm _ => true
def xOp2Val (s : State) : XOp2 → Nat
  | .reg x => (s.me.xreg x).v.toNat
  | .imm v => v.toNat

/-- A state with one more operation in the core's array queue, or its scout queue (R282). -/
def queued (s : State) (op : ArrOp) : State := s.modCore s.cur.tid.core fun c => { c with arrayQ := c.arrayQ ++ [op] }
def scouted (s : State) (op : ScoutOp) : State := s.modCore s.cur.tid.core fun c => { c with scoutQ := c.scoutQ ++ [op] }

/-- A word of the matrix array can be queued: the context is a user context, and the queue has room (R277, R282). -/
def arrayRoom (s : State) : Bool := s.cur.tid.ctx != 4 && decide ((s.core s.cur.tid.core).arrayQ.length < 8)

/-! ## What a word leaves alone -/

/-- Every byte of memory and its poison, the device, what is on its way, every other context, and what the cores hold beside
their contexts stay as they were. -/
def keepsRest (s t : State) : Prop :=
  (∀ a, t.byte a = s.byte a) ∧ t.bad = s.bad ∧ t.dev = s.dev ∧ t.gtc = s.gtc ∧ t.delivs = s.delivs ∧ t.barMsgs = s.barMsgs
    ∧ t.elems = s.elems ∧ (∀ k x, (k ≠ s.cur.tid.core ∨ x ≠ s.cur.tid.ctx) → t.ctx k x = s.ctx k x)
    ∧ ∀ k, { t.core k with ctxs := [] } = { s.core k with ctxs := [] }

/-- The same, where a word also reads the scratchpad, as a pop does: of the other contexts, one whose elided region has written the line
that is read is aborted with cause 2 (R224), and every other stays as it was. -/
def keepsRestRead (s t : State) : Prop :=
  (∀ a, t.byte a = s.byte a) ∧ t.bad = s.bad ∧ t.dev = s.dev ∧ t.gtc = s.gtc ∧ t.delivs = s.delivs ∧ t.barMsgs = s.barMsgs
    ∧ t.elems = s.elems
    ∧ (∀ k x, (k ≠ s.cur.tid.core ∨ x ≠ s.cur.tid.ctx) →
        t.ctx k x = s.ctx k x ∨ ∃ e, (s.ctx k x).elide = some e ∧ t.ctx k x = (s.ctx k x).abort e 0 2)
    ∧ ∀ k, { t.core k with ctxs := [] } = { s.core k with ctxs := [] }

/-- What a word with these V-class sources leaves alone: a port among them is popped. -/
def keepsRestPop (srcs : List Opnd) (s t : State) : Prop :=
  keepsRestRead s t ∧ ((∀ o ∈ srcs, o.lvl ≠ .port) → keepsRest s t)

/-- The accesses in flight and the translations kept stay as they were. -/
def keepsAccesses (s t : State) : Prop := t.reqs = s.reqs ∧ t.tlb = s.tlb ∧ t.walk = s.walk

/-- Of its own context an AP word changes the registers and predicates named elsewhere, its half, and the loops that end: every
special register, exception register, XP register, port and channel stays, and of its half the program counter, the wait, the
tokens and a template stored alone change, and what it still sees of special registers that the other half has written, which a token
brings up to date (R347). -/
def keepsOwnAp (s t : State) : Prop :=
  { t.me with a := [], p := [], ap := {}, apLoops := [] } = { s.me with a := [], p := [], ap := {}, apLoops := [] } ∧
    { t.me.ap with pc := 0, stall := none, toks := [], tmpl := [], tmplBad := [], srSeen := [] } =
      { s.me.ap with pc := 0, stall := none, toks := [], tmpl := [], tmplBad := [], srSeen := [] } ∧
    (t.me.ap.srSeen = s.me.ap.srSeen ∨ t.me.ap.srSeen = []) ∧
    (s.cur.store = none → t.me.ap.tmpl = s.me.ap.tmpl ∧ t.me.ap.tmplBad = s.me.ap.tmplBad)

/-- The same of an XP word, which may also pop and push its ports. -/
def keepsOwnXp (s t : State) : Prop :=
  { t.me with v := [], o := [], lt := [], x := [], m := [], ports := [], xp := {}, xpLoops := [] } =
    { s.me with v := [], o := [], lt := [], x := [], m := [], ports := [], xp := {}, xpLoops := [] } ∧
    { t.me.xp with pc := 0, stall := none, toks := [], tmpl := [], tmplBad := [], srSeen := [] } =
      { s.me.xp with pc := 0, stall := none, toks := [], tmpl := [], tmplBad := [], srSeen := [] } ∧
    (t.me.xp.srSeen = s.me.xp.srSeen ∨ t.me.xp.srSeen = []) ∧
    (s.cur.store = none → t.me.xp.tmpl = s.me.xp.tmpl ∧ t.me.xp.tmplBad = s.me.xp.tmplBad)

end Sys2Proof.Machine
end

