-- ==== Sys2Proof/Certificates/Slice0/Obligations.lean ====
section
/-! DEFINITION. The statements about the model, for the provers. -/

open Sys2Proof Sys2Proof.Machine

/-! ## The machine as a whole -/

/-- R21, R28, R181 to R185, R300: a turn of a half that may issue in this cycle fetches the group at its program counter, and the step is
exec of the instruction that the group decodes to, with the group noted as the current word and the issue counted, but for a store-only
literal, which takes no slot (R187); a literal that neither issues nor stores is passed over; what no group is traps; a Poison trap of a
multiplication that is pending comes first at a boundary of the XP; a half that may not issue does nothing. A context issues exactly where
it can run and no other comes before it: the system context first, then those from the one that the slot table names for the cycle on; in
one cycle one context issues, and up to two words. Of two words of a context in one cycle the AP's comes first (R337, R398), but a stream
form of a port comes after a pop or a push of that port (R152, R228); that a turn out of this order waits is the model's (log entry 1). A
turn of an event is exec of its instruction, and while a thermal trip stands only resets and temperatures count (log entry 105); the turns
that move part of a copy or of a line of a stream are the model's (log entries 45, 53, 54). Before a turn its time passes, and that alone
where no half waits in a WAIT and no tile step is ready. Which words are not ready for their latency, and when, is the model's own
schedule (log entry 1). -/
def Obligations.StepRunsTheDecodedInstruction : Prop :=
  (∀ (s u : State) (t : Tid) (late : List Nat),
    s.dev.tripped = false →
    ((s.agenda = [] ∧ t = s.cur.tid ∧ late = otherCtxs t.ctx ∧ u = s.pass 1 1) ∨
      (∃ n cy as, s.agenda = ⟨n, .issue t, cy, late⟩ :: as ∧ u = ({ s with agenda := as } : State).pass n cy)) →
    (u.mayIssue t late = false → step s = .next { u with cur := { u.cur with tid := t } }) ∧
    (u.mayIssue t late = true → ∀ m, u.boundaryTrap t = some m → step s = .next (u.takeMmTrap t.core t.ctx m)) ∧
    (u.mayIssue t late = true → u.boundaryTrap t = none →
      (∀ c i, u.fetch t = .word c i →
        ((∃ tgt op, i = .templateStoreLiteral tgt op) → step s = exec i { u with cur := c }) ∧
        ((∀ tgt op, i ≠ .templateStoreLiteral tgt op) →
          (u.inOrder t c.op (streamPort i) = true → step s = exec i { u.countIssue t (streamPort i) (samples i) with cur := c }) ∧
          (u.inOrder t c.op (streamPort i) = false → step s = .next { u with cur := { u.cur with tid := t } }))) ∧
      (∀ c, u.fetch t = .data c → step s = .next (({ u with cur := c } : State).advance c.pcn)) ∧
      (∀ c f, u.fetch t = .fault c f → u.inOrder t c.op none = true →
        step s = .next (({ u.countIssue t none false with cur := c } : State).trapWord 0 c.pc f)))) ∧
  (∀ (s : State) (n cy : Nat),
    (s.pass n cy).gtc = s.gtc + n ∧ (s.pass n cy).cc = s.cc + cy ∧ (s.pass n cy).mem = s.mem ∧
    ((∀ t : Tid, ((s.half t).stall.bind (·.conds)) = none) → s.dev.steps = [] → s.pass n cy = { s with gtc := s.gtc + n, cc := s.cc + cy })) ∧
  (∀ (s : State) (t : Tid) (late : List Nat),
    let u := (s.core t.core).issuedAt.get (0, 0, 0) (unitNo t.half)
    let cc := s.coreCc t.core
    let slot := bits ((s.core t.core).slots cc t.half).toNat (2 * (cc % 16) + 1) (2 * (cc % 16))
    let idle := fun x : Nat => s.runnable { t with ctx := x } = false ∨ x ∈ late
    (s.mayIssue t late = true → s.runnable t = true) ∧
    (u.1 = cc → u.2.2 = 1 → s.runnable t = true → (s.mayIssue t late = true ↔ u.2.1 = t.ctx)) ∧
    (u.1 = cc → 2 ≤ u.2.2 → s.mayIssue t late = false) ∧
    (u.1 ≠ cc ∨ u.2.2 = 0 → (s.mayIssue t late = true ↔ ¬ idle t.ctx ∧
      (t.ctx = 4 ∨ (t.ctx < 4 ∧ idle 4 ∧ ∀ i, i < (t.ctx + 4 - slot) % 4 → idle ((slot + i) % 4)))))) ∧
  (∀ (s : State) (k x : Nat) (op : BitVec 128) (port : Option Nat), let cc := s.coreCc k
    let u := (s.core k).issuedAt.get (0, 0, 0) 1
    (s.inOrder ⟨k, x, .ap⟩ op port = false ↔
      (u.1 = cc ∧ u.2.1 = x ∧ u.2.2 ≠ 0 ∧ ∀ n, port = some n → (s.port k x n).usedAt ≠ some cc)) ∧
    (s.inOrder ⟨k, x, .xp⟩ op port = false ↔ ∃ ns, (s.core k).portAt = some (cc, x, ns) ∧ ∃ n ∈ ns, xpNames op n = true)) ∧
  (∀ (i : Instr) (n : Nat), streamPort i = some n ↔ ∃ sp : BitVec 4, sp.toNat = n ∧
    ((∃ h, i = .sgo h sp ∨ i = .srewStart h sp ∨ i = .srewMark h sp ∨ i = .smark h sp ∨ i = .send h sp) ∨
    (∃ h o w, i = .scfg h o sp w) ∨ (∃ h ra q, i = .sfork h ra sp q) ∨ (∃ h rd, i = .sqry h rd sp) ∨
    (∃ h g m, i = .smask h sp g m) ∨ (∃ h ra o, i = .ssave h ra o sp ∨ i = .ssaveb h ra o sp ∨ i = .srstr h ra o sp))) ∧
  (∀ i : Instr, samples i = true ↔ (∃ h a b c, i = .tffr h a b c ∨ i = .twait h a b c) ∨ (∃ h a b c, i = .wmrd h a b c) ∨
    (∃ h a b, i = .cpq h a b) ∨ (∃ h a b c d e f, i = .wait h a b c d e f) ∨ ∃ h a b c d e f, i = .xpWait h a b c d e f) ∧
  (∀ (s : State) (n cy : Nat) (late : List Nat) (as : List Turn),
    let u := ({ s with agenda := as } : State).pass n cy
    (∀ a : Act, s.agenda = ⟨n, a, cy, late⟩ :: as → s.dev.tripped = true → a.whileTripped = false → step s = .next u) ∧
    (∀ i : Instr, s.agenda = ⟨n, .event i, cy, late⟩ :: as → s.dev.tripped = false ∨ (Act.event i).whileTripped = true →
      step s = if i.side = .event then exec i u else .next u) ∧
    (∀ k id m : Nat, s.agenda = ⟨n, .beat k id m, cy, late⟩ :: as → s.dev.tripped = false → step s = .next (u.beat k id m)) ∧
    (∀ k x p i m : Nat, s.agenda = ⟨n, .fetch k x p i m, cy, late⟩ :: as → s.dev.tripped = false → step s = .next (u.fetchPart k x p i m)) ∧
    (∀ k x p m : Nat, s.agenda = ⟨n, .drain k x p m, cy, late⟩ :: as → s.dev.tripped = false → step s = .next (u.drainPart k x p m)) ∧
    (∀ e : ErrorSite, s.agenda = ⟨n, .error e, cy, late⟩ :: as → s.dev.tripped = false → step s = .next (u.findError e))) ∧
  (∀ (s : State) (t : Tid) (g : GroupLen),
    let h := s.half t
    h.word = none → decodeGroup 0 [] ((s.core t.core).imemWords h.pc 5) = .ok g → (s.core t.core).imemPoison h.pc g.words = false →
    let c : Cur := { tid := t, pc := h.pc, pcn := h.pc + 4 * g.words }
    (∀ st ex op i, g.group = .literal st ex op → decodeLiteral t.half st ex op = .ok (some i) →
      s.fetch t = .word { c with op := op, store := st } i) ∧
    (∀ n ps op i, g.group = .patched n ps → h.tmplBad.get false n = false → applyPatches ps (h.tmpl.get 0 n) = .ok op →
      decodeOp t.half op.toNat = .ok i → s.fetch t = .word { c with op := op } i))

/-- R190, R191 with the tables of 08, 09, 10 and 12: words written out from the encoding tables decode to the instructions they stand for.
A check on fixed words. -/
def Obligations.WordsDecodeToTheirInstructions : Prop :=
  let v := fun (n : Nat) => ({ idx := BitVec.ofNat 8 n } : Opnd)
  let p := fun (n : Nat) => ({ lvl := .port, idx := BitVec.ofNat 8 n } : Opnd)
  decodeOp .ap 0x402028C0FFFFFFF80030000000000000 = .ok (.ld { pred := 2 } 5 3 (-8) .i32) ∧
  decodeOp .ap 0x02001901000000110000000000000000 = .ok (.add {} 3 4 (.imm 17)) ∧
  decodeOp .ap 0x520038CA000000000000040000000000 = .ok (.aminp {} 7 3 5 0 4) ∧
  decodeOp .ap 0xA80028C8000000000000010000000000 = .ok (.wait {} 5 3 4 0 false 1) ∧
  decodeOp .ap 0xAC000044000000000000100000000000 = .ok (.barrx {} 1 2 .cluster) ∧
  decodeOp .ap 0xB1200022000000000000000000000000 = .ok (.wlpush { pred := 2 } (.reg 17)) ∧
  decodeOp .xp 0x4C020030100420000000000000000000 =
    .ok (.vfma {} { lvl := .latch } (p 1) (v 4) { lvl := .latch }) ∧
  decodeOp .xp 0x8000090020000000000C020000000000 = .ok (.vcvt {} (v 9) (v 2) .e4m3 .f32 2) ∧
  decodeOp .xp 0x0A001901601701900030000000000000 = .ok (.vmad {} (v 25) (v 22) (v 23) (v 25) .i32) ∧
  decodeOp .xp 0xAA001400100200A00000005000000000 = .ok (.visect {} (v 20) (v 1) (v 2) (v 10) false 5) ∧
  decodeOp .xp 0xEA000000000000000000004400000024 = .ok (.xloop {} 1 1 0x24) ∧
  decodeOp .xp 0xEE001600801400000018020000000000 = .ok (.vldIndexed {} { idx := 22 } 8 (v 20) .i8 0) ∧
  decodeOp .xp 0xC1000030100000000000010420000000 =
    .ok (.mwldE4m3 {} (p 1) { mask := some { g := 1, mbase := 2 } }) ∧
  decodeOp .xp 0xD300000040000000000C008424000000 = .ok (.mmulmz {} (v 4) .e4m3 4 1 2 1 false) ∧
  decodeOp .xp 0xF2000200000000000000004000000000 = .ok (.wlpopv {} { idx := 2 } 4)

/-- R182: a patch replaces the field of OFF and width w and no other bit; the form OFF = 127 with WC = 000b replaces nothing; a field past
bit 127, a value past the width and a value with no patch are refused. A step that runs a patched issue, or any word that stores no
template, leaves the templates of its half as they were. -/
def Obligations.PatchesReplaceOneField : Prop :=
  (∀ (op : BitVec 128) (p : Patch),
    let w := patchWidth p.wc
    let none_ : Prop := p.off = 127 ∧ p.wc = 0
    (none_ → p.val = 0 → applyPatch op p = .ok op) ∧
    (none_ → p.val ≠ 0 → applyPatch op p = .error .illegalPatch) ∧
    (¬ none_ → (128 < p.off + w ∨ 2 ^ w ≤ p.val) → applyPatch op p = .error .illegalPatch) ∧
    (¬ none_ → p.off + w ≤ 128 → p.val < 2 ^ w →
      ∃ r, applyPatch op p = .ok r ∧ ∀ i, i < 128 →
        r.getLsbD i = if p.off ≤ i ∧ i < p.off + w then p.val.testBit (i - p.off) else op.getLsbD i)) ∧
  (∀ (s u : State) (t : Tid) (n cy : Nat) (late : List Nat) (as : List Turn) (c : Cur) (i : Instr),
    s.agenda = ⟨n, .issue t, cy, late⟩ :: as → s.fetch t = .word c i → c.store = none → (∀ tgt op, i ≠ .templateStoreLiteral tgt op) →
    step s = .next u → (u.half t).tmpl = (s.half t).tmpl)

/-- R184, R190, R191: every well-formed instruction that a word can hold is read back whole from the words the encoder writes, on its own
half, whatever words follow; a store-only literal is read back with its target; and whatever the decoder accepts is well formed. -/
def Obligations.DecodeReadsWhatEncodeWrites : Prop :=
  (∀ (i : Instr) (d : HalfId) (w : Nat) (rest : List (BitVec 32)), i.wf = true →
    encodeWord i = some (match d with | .ap => Side.ap | .xp => Side.xp, w) →
    w < 2 ^ 128 ∧ decodeOp d w = .ok i ∧
      decodeGroup 0 [] (encode i ++ rest) = .ok ⟨.literal none true (BitVec.ofNat 128 w), 5⟩ ∧
      decodeLiteral d none true (BitVec.ofNat 128 w) = .ok (some i)) ∧
  (∀ (d : HalfId) (tgt : BitVec 6) (op : BitVec 128) (rest : List (BitVec 32)), (Instr.templateStoreLiteral tgt op).wf = true →
    decodeGroup 0 [] (encode (.templateStoreLiteral tgt op) ++ rest) = .ok ⟨.literal (some tgt) false op, 5⟩ ∧
      decodeLiteral d (some tgt) false op = .ok (some (.templateStoreLiteral tgt op))) ∧
  (∀ (d : HalfId) (w : Nat) (i : Instr), decodeOp d w = .ok i →
    i.wf = true ∧ i.side = match d with | .ap => Side.ap | .xp => Side.xp)

/-- Whatever a step does, memory and its poison keep their canonical form: addresses rise strictly, and nothing is listed that an unlisted
address reads as. -/
def Obligations.StepsKeepMemoryCanonical : Prop :=
  ∀ s t : State, Memory.wf s = true → step s = .next t → Memory.wf t = true

/-- What the spec states of reset: GTC 0, the limits of Table 15-1 and of SR_WATCHDOG, SR_TRAPENTRY 0, every CPART 0, no barrier
initialised, no context bound or trapped; and memory, which lists nothing, is in its canonical form. What an unlisted byte reads as is the
model's choice (log entry 3). -/
def Obligations.ResetHoldsTheSpecsValues : Prop :=
  State.reset.gtc = 0 ∧ Memory.wf State.reset = true ∧
  (∀ ten, ten < 16 → (State.reset.regRead (0x1000008 + ten * 0x10000) 8).1 = 0x000F4240 ∧
    (State.reset.regRead (0x1000010 + ten * 0x10000) 8).1 = 0x00989680 ∧ (State.reset.regRead (0x1000018 + ten * 0x10000) 8).1 = 0x000186A0) ∧
  (∀ c, c < 32 → (State.reset.regRead (0x3000100 + 8 * c) 8).1 = 0) ∧
  (∀ k n, (State.reset.core k).bars.get {} n = ({} : Bar) ∧ (State.reset.core k).watchdog = 0x00989680 ∧ (State.reset.core k).trapEntry = 0) ∧
  (({} : Bar).e = 0 ∧ ({} : Bar).a = 0 ∧ ({} : Bar).p = false) ∧
  (∀ k x, (State.reset.ctx k x).bind = none ∧ (State.reset.ctx k x).trapped = false)

/-- R165, R199, R201, R204 to R211: where an AP register form, predicate form or branch ends without a trap, outside an elided region, it
leaves every byte of memory, every other context, every special register, and every register and predicate but the one it names. R201,
R213 to R220, R222, R353: where an access or a fence of the AP ends without a trap, outside an elided region, it has changed no register,
no predicate and no byte of memory: an access is in flight, and what it stores it stores when it performs. -/
def Obligations.ApFormsChangeOnlyWhatTheyName : Prop :=
  (∀ (h : ApHdr) (rd ra : BitVec 5) (o : Op2) (pos lenm1 : BitVec 6) (imm : BitVec 32) (limm : BitVec 16) (pd pa pb : BitVec 3) (cc : Cond)
    (i : Instr) (s t : State), s.cur.tid.half = .ap → s.me.elide = none → exec i s = .next t → t.me.trapped = false →
    let kept := keepsRest s t ∧ keepsAccesses s t ∧ keepsOwnAp s t
    (i ∈ ([.add h rd ra o, .sub h rd ra o, .mul h rd ra o, .mulh h rd ra o, .mulhn h rd ra o, .div h rd ra o, .divn h rd ra o,
        .rem h rd ra o, .remn h rd ra o, .adds h rd ra o, .subs h rd ra o, .addsn h rd ra o, .subsn h rd ra o, .and h rd ra o,
        .or h rd ra o, .xor h rd ra o, .andn h rd ra o, .orn h rd ra o, .shl h rd ra o, .shr h rd ra o, .sar h rd ra o,
        .rol h rd ra o, .ror h rd ra o, .min h rd ra o, .max h rd ra o, .minn h rd ra o, .maxn h rd ra o, .abs h rd ra,
        .clz h rd ra, .ctz h rd ra, .popc h rd ra, .bswap h rd ra, .exts h rd ra pos lenm1, .extn h rd ra pos lenm1,
        .ins h rd o pos lenm1, .movi h rd imm, .movhi h rd imm, .sel h rd ra o pa, .call h rd imm, .gtcrd h rd] : List Instr) →
      kept ∧ (∀ r, r ≠ rd → t.me.areg r = s.me.areg r) ∧ (∀ p, t.me.pred p = s.me.pred p) ∧ t.me.areg 0 = {}) ∧
    (i ∈ ([.pcmp h ra o pd cc, .pcmpn h ra o pd cc, .pand h pd pa pb, .por h pd pa pb, .pxor h pd pa pb, .pnot h pd pa, .pset h ra pd,
        .ptst h ra o pd] : List Instr) →
      kept ∧ (∀ r, t.me.areg r = s.me.areg r) ∧ (∀ p, p ≠ pd → t.me.pred p = s.me.pred p) ∧ t.me.pred 0 = { v := true }) ∧
    (i ∈ ([.nop h, .br h imm, .jmpr h ra imm, .ret h ra, .loop h ra imm, .loopImmediate h imm limm, .lbrk h] : List Instr) →
      kept ∧ (∀ r, t.me.areg r = s.me.areg r) ∧ (∀ p, t.me.pred p = s.me.pred p))) ∧
  (∀ (h : ApHdr) (rd ra rb : BitVec 5) (off : BitVec 32) (ty : AccTy) (sc : Scope) (pd : BitVec 3)
    (i : Instr) (s t : State), s.cur.tid.half = .ap → s.me.elide = none → exec i s = .next t → t.me.trapped = false →
    i ∈ ([.ld h rd ra off ty, .st h ra rb off ty, .ldc h rd ra off ty, .ldacq h rd ra off ty sc, .strel h ra rb off ty sc, .lds h rd ra off ty,
        .sts h ra rb off ty, .aswap h rd ra rb off ty, .acas h rd ra rb off ty pd, .aadd h rd ra rb off ty, .aand h rd ra rb off ty,
        .aor h rd ra rb off ty, .axor h rd ra rb off ty, .amin h rd ra rb off ty, .amax h rd ra rb off ty, .aminn h rd ra rb off ty,
        .amaxn h rd ra rb off ty, .aminp h rd ra rb off pd, .fenceAcq h sc, .fenceRel h sc, .fenceSc h sc, .ifence h] : List Instr) →
    keepsRest s t ∧ keepsOwnAp s t ∧ (∀ r, t.me.areg r = s.me.areg r) ∧ (∀ p, t.me.pred p = s.me.pred p) ∧
      (∃ l, t.reqs = s.reqs ++ l ∧ l.length ≤ 1 ∧ ∀ q ∈ l, q.tid = s.cur.tid ∧ q.done = false))

/-- R166, R171, R242, R12: where an element-wise, conversion, lane, scan or intersect form of the XP ends without a trap, no register but
its destination changes; with a register for destination no byte of memory changes, with a port only the 256 bytes of the ring's next
line, whose address is computed as the push computes it. A pop reads the ring: an elided region that has written the line aborts, and no
other context changes (R224). -/
def Obligations.VectorFormsChangeOnlyTheirDestination : Prop :=
  ∀ (h : XpHdr) (d a b c : Opnd) (ty ty2 : Fmt) (part : BitVec 3) (m : BitVec 3) (x : BitVec 4) (lane : BitVec 6) (half : Bool)
    (i : Instr) (s t : State), s.cur.tid.half = .xp → exec i s = .next t → t.me.trapped = false →
    i ∈ ([.vadd h d a b ty, .vsub h d a b ty, .vmul h d a b ty, .vmulh h d a b ty, .vmulhn h d a b ty, .vadds h d a b ty, .vsubs h d a b ty,
        .vaddsn h d a b ty, .vsubsn h d a b ty, .vmad h d a b c ty, .vabs h d a ty, .vand h d a b ty, .vor h d a b ty, .vxor h d a b ty,
        .vandn h d a b ty, .vshl h d a b ty, .vshr h d a b ty, .vsar h d a b ty, .vclz h d a ty, .vpopc h d a ty, .vmin h d a b ty,
        .vmax h d a b ty, .vminn h d a b ty, .vmaxn h d a b ty, .vsel h d a b m, .vdot4 h d a b c, .vdot4n h d a b c, .vdot4s h d a b c,
        .vdot4sn h d a b c, .vfadd h d a b, .vfaddzr h d a b, .vfaddfl h d a b, .vfaddcl h d a b, .vfsub h d a b, .vfsubzr h d a b,
        .vfsubfl h d a b, .vfsubcl h d a b, .vfmul h d a b, .vfmulzr h d a b, .vfmulfl h d a b, .vfmulcl h d a b, .vfma h d a b c,
        .vfmazr h d a b c, .vfmafl h d a b c, .vfmacl h d a b c, .vfdiv h d a b, .vfdivzr h d a b, .vfsqrt h d a, .vfmin h d a b,
        .vfmax h d a b, .vfabs h d a, .vfneg h d a, .vfexp h d a, .vfscale h d a b, .vfrint h d a, .vfrintfl h d a,
        .vcvt h d a ty ty2 part, .vcvtzr h d a ty ty2 part, .vcvtfl h d a ty ty2 part, .vcvtcl h d a ty ty2 part,
        .vnars h d a ty ty2 part, .vnarw h d a ty ty2 part, .vqblk h d a, .vdqblk h d a, .vcmprs h d a, .vexpnd h d a, .vperm h d a b,
        .vbcast h d a lane, .vrotl h d a lane, .vslide h d a b lane, .vzip h d a b half, .vunzip h d a b half, .vmov h d a,
        .vsplat h d x, .vscan h d a x ty half, .vbpfx h d a x, .visect h d a b c half x] : List Instr) →
    (∀ r, t.me.xreg r = s.me.xreg r) ∧ (∀ r, t.me.mreg r = s.me.mreg r) ∧
    (∀ j, (d.lvl ≠ .main ∨ j ≠ s.me.index d) → t.me.v.get {} j = s.me.v.get {} j) ∧
    (∀ j, (d.lvl ≠ .file ∨ j ≠ d.idx.toNat) → t.me.o.get {} j = s.me.o.get {} j) ∧
    (∀ j, (d.lvl ≠ .latch ∨ j ≠ d.idx.toNat) → t.me.lt.get {} j = s.me.lt.get {} j) ∧
    (d.lvl ≠ .port → keepsRestPop [a, b, c] s t ∧ keepsAccesses s t ∧ (s.me.elide = none → keepsOwnXp s t)) ∧
    (d.lvl = .port →
      let p := s.port s.cur.tid.core s.cur.tid.ctx d.idx.toNat
      let at_ := spad s.cur.tid.core (p.lineOf p.lines.length)
      ∀ e, e < at_ ∨ at_ + 256 ≤ e → t.byte e = s.byte e)

/-- R165, R265 to R269: where a mask, scalar, reduction, loop or branch form of the XP ends without a trap, it leaves memory, every vector
register, every other context, but for an elided region that a pop aborts (R224), and every x and mask register but the one it names,
which a loop or a branch form has none of; m0 reads all ones. -/
def Obligations.ScalarFormsChangeOnlyWhatTheyName : Prop :=
  ∀ (h : XpHdr) (d a b : BitVec 3) (x y : BitVec 4) (o : XOp2) (v w : Opnd) (cc : Cond) (ty : Fmt) (half : Bool) (imm : BitVec 32)
    (lane : BitVec 6) (fin : BitVec 18) (limm : BitVec 16) (bt : BrTest)
    (i : Instr) (s t : State), s.cur.tid.half = .xp → exec i s = .next t → t.me.trapped = false →
    let kept := keepsRestPop [v, w] s t ∧ keepsAccesses s t ∧ (s.me.elide = none → keepsOwnXp s t) ∧ t.me.v = s.me.v ∧ t.me.o = s.me.o ∧
      t.me.lt = s.me.lt
    (i ∈ ([.mand h d a b, .mor h d a b, .mxor h d a b, .mnot h d a, .msetx h d x y, .vcmp h d v w cc, .vcmpn h d v w cc, .vfcmp h d v w cc] : List Instr) →
      kept ∧ (∀ r, t.me.xreg r = s.me.xreg r) ∧ (∀ r, r ≠ d → t.me.mreg r = s.me.mreg r) ∧ (t.me.mreg 0).v = BitVec.allOnes 64) ∧
    (i ∈ ([.mpopc h x a, .mgetx h x a half, .xadd h x y o, .xsub h x y o, .xmul h x y o, .xand h x y o, .xior h x y o, .xxor h x y o,
        .xshl h x y o, .xshr h x y o, .xmovi h x imm, .vredf h x v, .vredfmax h x v, .vredfmin h x v, .vred h x v ty, .vreds h x v ty,
        .vredmax h x v ty, .vredmin h x v ty, .xlane h x v lane] : List Instr) →
      kept ∧ (∀ r, r ≠ x → t.me.xreg r = s.me.xreg r) ∧ (∀ r, t.me.mreg r = s.me.mreg r)) ∧
    (i ∈ ([.xloop h x y fin, .xloopImmediate h y limm fin, .xbr h imm, .xbrc h bt imm, .xbend h bt] : List Instr) →
      kept ∧ (∀ r, t.me.xreg r = s.me.xreg r) ∧ (∀ r, t.me.mreg r = s.me.mreg r))

/-! ## The AP: integers, moves, predicates, branches (09) -/

/-- R204, with R199, R202 and R203: every two-operand integer and logic form writes the result of Table 09-2 to a[RD], taint included; the
word completes whenever it executes and its operands can be used. A write of a0 is discarded (`Ctx.setA`). -/
def Obligations.ApTwoOperandFormsWriteTheirResult : Prop :=
  ∀ (h : ApHdr) (rd ra : BitVec 5) (o : Op2) (s : State),
    apGo h s = true → canUse s ra = true → canUse2 s o = true → s.busyA rd = false →
    let a := aVal s ra
    let b := op2Val s o
    let n := b.toNat % 64
    let R := fun (v : BitVec 64) =>
      (Host.Outcome.next (apSets h s rd { v := v, bad := false, taint := aTaint s ra || op2Taint s o }) : Out)
    exec (.add h rd ra o) s = R (a + b) ∧
    exec (.sub h rd ra o) s = R (a - b) ∧
    exec (.mul h rd ra o) s = R (a * b) ∧
    exec (.mulh h rd ra o) s = R ((a.signExtend 128 * b.signExtend 128).extractLsb' 64 64) ∧
    exec (.mulhn h rd ra o) s = R ((a.zeroExtend 128 * b.zeroExtend 128).extractLsb' 64 64) ∧
    exec (.and h rd ra o) s = R (a &&& b) ∧
    exec (.or h rd ra o) s = R (a ||| b) ∧
    exec (.xor h rd ra o) s = R (a ^^^ b) ∧
    exec (.andn h rd ra o) s = R (a &&& ~~~b) ∧
    exec (.orn h rd ra o) s = R (a ||| ~~~b) ∧
    exec (.shl h rd ra o) s = R (a <<< n) ∧
    exec (.shr h rd ra o) s = R (a >>> n) ∧
    exec (.sar h rd ra o) s = R (a.sshiftRight n) ∧
    exec (.rol h rd ra o) s = R (a <<< n ||| a >>> ((64 - n) % 64)) ∧
    exec (.ror h rd ra o) s = R (a >>> n ||| a <<< ((64 - n) % 64)) ∧
    exec (.min h rd ra o) s = R (if a.toInt ≤ b.toInt then a else b) ∧
    exec (.max h rd ra o) s = R (if a.toInt ≤ b.toInt then b else a) ∧
    exec (.minn h rd ra o) s = R (if a.toNat ≤ b.toNat then a else b) ∧
    exec (.maxn h rd ra o) s = R (if a.toNat ≤ b.toNat then b else a)

/-- R204 with R14 and R36: the saturating forms write Sat of the exact sum or difference, and the division forms the quotient and
remainder of IntDiv, which for a zero divisor are all ones and the dividend: no operand pair traps. -/
def Obligations.ApSaturatingAndDivisionForms : Prop :=
  ∀ (h : ApHdr) (rd ra : BitVec 5) (o : Op2) (s : State),
    apGo h s = true → canUse s ra = true → canUse2 s o = true → s.busyA rd = false →
    let a := aVal s ra
    let b := op2Val s o
    let R := fun (v : BitVec 64) =>
      (Host.Outcome.next (apSets h s rd { v := v, bad := false, taint := aTaint s ra || op2Taint s o }) : Out)
    let signed := fun (x : Int) => BitVec.ofInt 64 (max (-2 ^ 63) (min (2 ^ 63 - 1) x))
    let natural := fun (x : Int) => BitVec.ofInt 64 (max 0 (min (2 ^ 64 - 1) x))
    exec (.adds h rd ra o) s = R (signed (a.toInt + b.toInt)) ∧
    exec (.subs h rd ra o) s = R (signed (a.toInt - b.toInt)) ∧
    exec (.addsn h rd ra o) s = R (natural (a.toNat + b.toNat : Int)) ∧
    exec (.subsn h rd ra o) s = R (natural (a.toNat - b.toNat : Int)) ∧
    exec (.div h rd ra o) s = R (if b = 0 then -1 else BitVec.ofInt 64 (a.toInt.tdiv b.toInt)) ∧
    exec (.rem h rd ra o) s = R (if b = 0 then a else BitVec.ofInt 64 (a.toInt.tmod b.toInt)) ∧
    exec (.divn h rd ra o) s = R (if b = 0 then -1 else BitVec.ofNat 64 (a.toNat / b.toNat)) ∧
    exec (.remn h rd ra o) s = R (if b = 0 then a else BitVec.ofNat 64 (a.toNat % b.toNat))

/-- R205 to R207: the one-operand, field and move forms. A field that runs past bit 63 is refused at decode (R206). R207 and R202: SEL
writes a[RA] or op2 as p[PA] says, with the poison of the source that it selects only. NOP changes nothing but what its token masks
change. R208: the compare, test and logic forms set p[PD]; a write of p0 is discarded (`Ctx.setP`). -/
def Obligations.ApFieldMoveSelectAndPredicateForms : Prop :=
  (∀ (h : ApHdr) (rd ra : BitVec 5) (o : Op2) (pos lenm1 : BitVec 6) (imm : BitVec 32) (s : State),
    apGo h s = true → s.busyA rd = false →
    let a := aVal s ra
    let len := lenm1.toNat + 1
    let R := fun (v : BitVec 64) (t : Bool) => (Host.Outcome.next (apSets h s rd { v := v, bad := false, taint := t }) : Out)
    let one := fun v => R v (aTaint s ra)
    (canUse s ra = true → exec (.abs h rd ra) s = one (BitVec.ofInt 64 a.toInt.natAbs) ∧
    exec (.clz h rd ra) s = one (BitVec.ofNat 64 ((List.range 64).takeWhile fun i => !a.getLsbD (63 - i)).length) ∧
    exec (.ctz h rd ra) s = one (BitVec.ofNat 64 ((List.range 64).takeWhile fun i => !a.getLsbD i).length) ∧
    exec (.popc h rd ra) s = one (BitVec.ofNat 64 ((List.range 64).countP fun i => a.getLsbD i)) ∧
    exec (.bswap h rd ra) s = one (a.extractLsb' 0 8 ++ a.extractLsb' 8 8 ++ a.extractLsb' 16 8 ++ a.extractLsb' 24 8
      ++ a.extractLsb' 32 8 ++ a.extractLsb' 40 8 ++ a.extractLsb' 48 8 ++ a.extractLsb' 56 8)) ∧
    exec (.movi h rd imm) s = R (imm.signExtend 64) false ∧
    (canUse s rd = true → exec (.movhi h rd imm) s = R (imm ++ (aVal s rd).truncate 32) (aTaint s rd)) ∧
    (pos.toNat + len ≤ 64 →
      (canUse s ra = true →
        exec (.exts h rd ra pos lenm1) s = one ((a.extractLsb' pos.toNat len).signExtend 64) ∧
        exec (.extn h rd ra pos lenm1) s = one ((a.extractLsb' pos.toNat len).zeroExtend 64)) ∧
      (canUse s rd = true → canUse2 s o = true → exec (.ins h rd o pos lenm1) s =
        let m := BitVec.ofNat 64 (2 ^ len - 1) <<< pos.toNat
        R ((aVal s rd &&& ~~~m) ||| (op2Val s o <<< pos.toNat &&& m)) (aTaint s rd || op2Taint s o)))) ∧
  (∀ (h : ApHdr) (rd ra : BitVec 5) (o : Op2) (pa : BitVec 3) (s : State),
    apGo h s = true →
    exec (.nop h) s = .next (apOut h s (apIn h s)) ∧
    (canTest s pa = true → s.busyA ra = false → (∀ r, o = .reg r → s.busyA r = false) → s.busyA rd = false →
      let other : AReg := match o with
        | .reg r => s.me.areg r
        | .imm v => { v := v.signExtend 64 }
      let r := if (s.me.pred pa).v then s.me.areg ra else other
      exec (.sel h rd ra o pa) s =
        .next (apSets h s rd { v := r.v, bad := r.bad, taint := aTaint s ra || op2Taint s o }))) ∧
  (∀ (h : ApHdr) (ra : BitVec 5) (o : Op2) (pd pa pb : BitVec 3) (s : State), apGo h s = true → s.busyP pd = false →
    let R := fun (v : Bool) => (Host.Outcome.next (apSetsP h s pd v) : Out)
    (canUse s ra = true → canUse2 s o = true →
      let a := aVal s ra
      let b := op2Val s o
      exec (.pcmp h ra o pd .eq) s = R (a == b) ∧ exec (.pcmp h ra o pd .ne) s = R (a != b) ∧
      exec (.pcmp h ra o pd .lt) s = R (a.slt b) ∧ exec (.pcmp h ra o pd .le) s = R (a.sle b) ∧
      exec (.pcmp h ra o pd .gt) s = R (b.slt a) ∧ exec (.pcmp h ra o pd .ge) s = R (b.sle a) ∧
      exec (.pcmpn h ra o pd .eq) s = R (a == b) ∧ exec (.pcmpn h ra o pd .ne) s = R (a != b) ∧
      exec (.pcmpn h ra o pd .lt) s = R (a.ult b) ∧ exec (.pcmpn h ra o pd .le) s = R (a.ule b) ∧
      exec (.pcmpn h ra o pd .gt) s = R (b.ult a) ∧ exec (.pcmpn h ra o pd .ge) s = R (b.ule a) ∧
      exec (.pset h ra pd) s = R (a != 0) ∧ exec (.ptst h ra o pd) s = R (a &&& b != 0)) ∧
    (canTest s pa = true →
      exec (.pnot h pd pa) s = R (!(s.me.pred pa).v) ∧
      (canTest s pb = true →
        exec (.pand h pd pa pb) s = R ((s.me.pred pa).v && (s.me.pred pb).v) ∧
        exec (.por h pd pa pb) s = R ((s.me.pred pa).v || (s.me.pred pb).v) ∧
        exec (.pxor h pd pa pb) s = R ((s.me.pred pa).v != (s.me.pred pb).v))))

/-- R209: where the branches go. A target that is not a multiple of 4 traps at the branch as misaligned access. R210 and R211: LOOP and
LBRK. A bad end or a full loop stack traps as illegal operation, as does LBRK with an empty one. -/
def Obligations.ApBranchesAndLoops : Prop :=
  (∀ (h : ApHdr) (rd ra : BitVec 5) (off : BitVec 32) (s : State), apGo h s = true →
    let rel := (BitVec.ofNat 64 s.cur.pc + off.signExtend 64).toNat
    let abs := (aVal s ra + off.signExtend 64).toNat
    let T := fun (x : Nat) => (Host.Outcome.next (s.trapWord h.popm s.cur.pc { code := 5, addr := x }) : Out)
    (rel % 4 = 0 →
      exec (.br h off) s = .next (apOut h s (apIn h s) (some rel)) ∧
      (s.busyA rd = false → exec (.call h rd off) s = .next (apSets h s rd { v := BitVec.ofNat 64 s.cur.pcn } (some rel)))) ∧
    (rel % 4 ≠ 0 → exec (.br h off) s = T rel ∧ (s.busyA rd = false → exec (.call h rd off) s = T rel)) ∧
    (canUse s ra = true →
      (abs % 4 = 0 → exec (.jmpr h ra off) s = .next (apOut h s (apIn h s) (some abs))) ∧
      (abs % 4 ≠ 0 → exec (.jmpr h ra off) s = T abs) ∧
      exec (.ret h ra) s = exec (.jmpr h ra 0) s)) ∧
  (∀ (h : ApHdr) (ra : BitVec 5) (off : BitVec 32) (limm : BitVec 16) (s : State), apGo h s = true →
    let e : Int := s.cur.pc + off.toInt
    let T : Out := .next (s.trapWord h.popm s.cur.pc { code := 1 })
    let G := fun (n : Nat) (r : Out) =>
      if e % 4 ≠ 0 ∨ e ≤ s.cur.pcn ∨ 4 ≤ s.me.apLoops.length then r = T
      else if n = 0 then r = .next (apOut h s (apIn h s) (some e.toNat))
      else r = .next (apOut h s ((apIn h s).modMe fun c => { c with apLoops := ⟨s.cur.pcn, e.toNat, n⟩ :: c.apLoops }))
    G limm.toNat (exec (.loopImmediate h off limm) s) ∧
    (canUse s ra = true → G (aVal s ra).toNat (exec (.loop h ra off) s)) ∧
    (s.me.apLoops = [] → exec (.lbrk h) s = T) ∧
    (∀ l ls, s.me.apLoops = l :: ls →
      exec (.lbrk h) s = .next (apOut h s ((apIn h s).modMe fun c => { c with apLoops := ls }) (some l.fin))))

/-! ## The AP: memory (09, 14) -/

/-- R199, R212, R213, R214, R215, R216, R353: a load outside an elided region puts one read in flight, to the part its address translates
to, or to its own scratchpad (LDS). Its data go to a[RD], extended as TYPE says; LDC taints its result, LDACQ is an acquire. The register
is written when the data arrive (DataUnitsAndWorkListsArrive states it). R199, R202, R213, R214, R216, R353: a store outside an elided
region puts one write of the low bytes of a[RB] in flight, with the poison of a[RB]. STREL does so once what its release waits for has
performed. R218, R219, R220, R464: an atomic outside an elided region puts one read-modify-write in flight that carries a[RB]; ACAS
compares with a[RD], and ACAS and AMINP also write p[PD]. RB of ASWAP may be poisoned. -/
def Obligations.ApAccessesPutOneRequestInFlight : Prop :=
  (∀ (h : ApHdr) (rd ra : BitVec 5) (off : BitVec 32) (ty : AccTy) (sc : Scope) (s t : State) (p : Part),
    apGoPlain h s = true → canUse s ra = true → s.busyA rd = false →
    let va := effVal s ra off
    let q := fun (u : State) (p : Part) (chase : Bool) =>
      { request u .read p ty.bytes {} (.areg rd ty (aTaint s ra || chase) 0) with tainted := aTaint s ra }
    (reaches (apIn h s) va ty.bytes .read p t →
      exec (.ld h rd ra off ty) s = .next (apOut h s (sends t (q t p false))) ∧
      exec (.ldc h rd ra off ty) s = .next (apOut h s (sends t { q t p true with ldc := true })) ∧
      exec (.ldacq h rd ra off ty sc) s = .next (apOut h s (sends t { q t p false with acq := true }))) ∧
    (va % ty.bytes = 0 → va + ty.bytes ≤ 0x200000 →
      exec (.lds h rd ra off ty) s = .next (apOut h s (sends (apIn h s) { q (apIn h s) (ownPart s va) false with loc := true })))) ∧
  (∀ (h : ApHdr) (ra rb : BitVec 5) (off : BitVec 32) (ty : AccTy) (sc : Scope) (s t : State) (p : Part),
    apGoPlain h s = true → canUse s ra = true → s.busyA rb = false →
    let va := effVal s ra off
    let q := fun (u : State) (p : Part) =>
      { request u .write p ty.bytes (s.me.areg rb) .none with tainted := aTaint s ra }
    (reaches (apIn h s) va ty.bytes .write p t →
      exec (.st h ra rb off ty) s = .next (apOut h s (sends t (q t p))) ∧
      (s.before s.cur.tid sc false = [] →
        exec (.strel h ra rb off ty sc) s = .next (apOut h s (sends t (q t p))))) ∧
    (va % ty.bytes = 0 → va + ty.bytes ≤ 0x200000 →
      exec (.sts h ra rb off ty) s = .next (apOut h s (sends (apIn h s) { q (apIn h s) (ownPart s va) with loc := true })))) ∧
  (∀ (h : ApHdr) (rd ra rb : BitVec 5) (off : BitVec 32) (ty : AccTy) (pd : BitVec 3) (s t : State) (p : Part),
    apGoPlain h s = true → canUse s ra = true → s.busyA rb = false → s.busyA rd = false →
    let va := effVal s ra off
    let R := fun (op : ReqOp) (ty : AccTy) (pd : BitVec 3) (b : AReg) =>
      (Host.Outcome.next (apOut h s (sends t
        { request t op p ty.bytes b (.areg rd ty (aTaint s ra) pd) with tainted := aTaint s ra })) : Out)
    let b := s.me.areg rb
    (reaches (apIn h s) va ty.bytes .atomic p t → exec (.aswap h rd ra rb off ty) s = R .swap ty 0 b) ∧
    (b.bad = false → reaches (apIn h s) va ty.bytes .atomic p t →
      exec (.aadd h rd ra rb off ty) s = R .add ty 0 b ∧ exec (.aand h rd ra rb off ty) s = R .and ty 0 b ∧
      exec (.aor h rd ra rb off ty) s = R .or ty 0 b ∧ exec (.axor h rd ra rb off ty) s = R .xor ty 0 b ∧
      exec (.amin h rd ra rb off ty) s = R .min ty 0 b ∧ exec (.amax h rd ra rb off ty) s = R .max ty 0 b ∧
      exec (.aminn h rd ra rb off ty) s = R .minn ty 0 b ∧ exec (.amaxn h rd ra rb off ty) s = R .maxn ty 0 b ∧
      (canUse s rd = true → s.busyP pd = false →
        exec (.acas h rd ra rb off ty pd) s = R (.cas (aVal s rd)) ty pd b)) ∧
    (b.bad = false → s.busyP pd = false → reaches (apIn h s) va 8 .atomic p t →
      exec (.aminp h rd ra rb off pd) s = R .minp .q8 pd b))

/-- R199, R202, R213, R214, R339: what stops an access before it is in flight: a misaligned address, and a local offset outside the
scratchpad, traps with that address, a translation or protection fault with its fault descriptor, a link that is down with its kind
(R426). So it is for every load, store, atomic and job post; a release waits first. A walk that the walker's windows refuse is logged too
(log entry 91). That the trap names OPND 4 is log entry 74. R222, R363, R189: a fence completes once what it waits for has performed, and
waits before, at every scope alike (log entry 100); IFENCE completes, with no effect of its own (log entry 13). -/
def Obligations.ApAccessTrapsAndFences : Prop :=
  (∀ (h : ApHdr) (rd ra rb : BitVec 5) (off : BitVec 32) (ty : AccTy) (sc : Scope) (pd : BitVec 3) (s : State),
    apGoPlain h s = true → canUse s ra = true → s.busyA rd = false → s.busyA rb = false →
    let va := effVal s ra off
    let u := apIn h s
    let rq := u.rq s.cur.tid.core s.cur.tid.ctx 0
    let T := fun (i : TrapInfo) => (Host.Outcome.next (s.trapWord h.popm s.cur.pc i) : Out)
    let stops := fun (acc : AccessKind) (n : Nat) (is : List Instr) => ∀ i ∈ is,
      (va % n ≠ 0 → exec i s = T { code := 5, opnd := 4, addr := va }) ∧
      (∀ f t, va % n = 0 → u.xlat rq va n n acc = (.error f, t) →
        let s1 := match u.walkFault rq va acc with
          | some w => s.refuseWalk rq w
          | none => s
        exec i s = .next (s1.trapWord h.popm s.cur.pc
          { code := if bits f.toNat 67 64 = 1 then 6 else 7, opnd := 4, addr := va, fault := f })) ∧
      (∀ p t d, va % n = 0 → u.xlat rq va n n acc = (.ok p, t) → t.linkCut s.cur.tid.core p.pa = some d →
        exec i s = T { code := 12, detail := d, opnd := 4, addr := va })
    let free := s.before s.cur.tid sc false = []
    stops .read ty.bytes [.ld h rd ra off ty, .ldc h rd ra off ty, .ldacq h rd ra off ty sc] ∧
    stops .write ty.bytes [.st h ra rb off ty] ∧
    (free → stops .write ty.bytes [.strel h ra rb off ty sc] ∧ stops .atomic 8 [.jpost h rd ra rb off sc]) ∧
    stops .atomic ty.bytes [.aswap h rd ra rb off ty] ∧
    (canUse s rb = true →
      stops .atomic ty.bytes [.aadd h rd ra rb off ty, .aand h rd ra rb off ty, .aor h rd ra rb off ty, .axor h rd ra rb off ty,
        .amin h rd ra rb off ty, .amax h rd ra rb off ty, .aminn h rd ra rb off ty, .amaxn h rd ra rb off ty] ∧
      (s.busyP pd = false → stops .atomic 8 [.aminp h rd ra rb off pd] ∧
        (canUse s rd = true → stops .atomic ty.bytes [.acas h rd ra rb off ty pd]))) ∧
    (va % ty.bytes ≠ 0 ∨ 0x200000 < va + ty.bytes →
      ∀ i ∈ ([.lds h rd ra off ty, .sts h ra rb off ty] : List Instr), exec i s = T { code := 5, opnd := 4, addr := va })) ∧
  (∀ (h : ApHdr) (sc : Scope) (s : State), apGoPlain h s = true →
    let R := fun (b : Bool) =>
      (Host.Outcome.next (if b then apOut h s (apIn h s) else s.noteStall false) : Out)
    let loads := s.reqs.any fun q => decide (q.tid = s.cur.tid ∧ q.done = false ∧ q.op ≠ .write ∧ q.ord ≠ .un)
    exec (.fenceAcq h sc) s = R (!loads) ∧
    exec (.fenceRel h sc) s = R (s.before s.cur.tid sc false).isEmpty ∧
    exec (.fenceSc h sc) s = R (s.before s.cur.tid sc true).isEmpty ∧
    exec (.ifence h) s = R true)

/-- R66, R223, R225: SLB on a lock word that is 0 in write-back memory opens an elided region: a[RD] becomes 0, the checkpoint is what the
registers held, and the lock's line is tracked. On a lock that is held it writes 6 and goes to the fallback. A lock word that the windows
refuse at the port, or that is poisoned, traps (OPND 4 is log entry 74); the refusal is logged. That such a word traps as Poison, that SLB
is translated as an atomic too, and what an overflow leaves in LINES, is the model's choice (log entry 70). R66, R82, R226, R227: SLC
outside a region and SLX outside a region change nothing; SLC inside one writes what the region holds, and closes it; SLX inside one
aborts it with its code, the loop-back rule applied to the fallback (R210). Where the windows let every word written, or it was written by
local offset, each byte and poison of the region stands in memory after the commit, and no other changes (log entry 112). R66, R82, R218
to R220, R224, R464: inside an elided region a load of write-back memory gives the region's bytes, a store is held in the region, and an
atomic does both: no byte of memory changes, and the line is tracked. Each form answers and writes as it does outside a region: a form
that compares writes nothing where the old value is poisoned. An access that would track a 33rd line aborts the region with cause 3, one
of memory that is not write-back with cause 7. An atomic aborts the regions of others that track its line, whether it writes or not. A
load or an atomic that the windows refuse has poisoned data and no effect; a local offset meets no window. -/
def Obligations.ElidedRegionsOpenActCommitAndAbort : Prop :=
  (∀ (h : ApHdr) (rd ra : BitVec 5) (off fboff : BitVec 32) (s t u : State) (p q : Part),
    apGoPlain h s = true →
    (s.reqs.any fun q => decide (q.tid = s.cur.tid) && decide (q.dst ≠ .none)) = false → canUse s ra = true →
    let va := effVal s ra off
    reaches (apIn h s) va 8 .read p t → p.ord = .rc → (inDram p.pa || inSpad p.pa) = true →
    reaches t va 8 .atomic q u →
    u.mustWait s.cur.tid p.pa 8 = false →
    let lets := u.windowOk (u.ctxTenant s.cur.tid.core s.cur.tid.ctx) p.pa (p.pa + 7) .read
    let v := u.look (some s.cur.tid) p.pa 8
    let fb := (BitVec.ofNat 64 s.cur.pc + fboff.signExtend 64).toNat
    (lets = false → exec (.slb h rd ra off fboff) s =
      .next ((s.refuseAt (s.srcOf s.cur.tid) p.pa).trapWord h.popm s.cur.pc { code := 8, opnd := 4 })) ∧
    (lets = true → u.badIn p.pa 8 = true → exec (.slb h rd ra off fboff) s =
      .next (s.trapWord h.popm s.cur.pc { code := 8, opnd := 4 })) ∧
    (lets = true → u.badIn p.pa 8 = false → v.nat p.pa 8 ≠ 0 → exec (.slb h rd ra off fboff) s = .next (apOut h s (v.modMe (·.setA rd { v := 6 })) (some fb))) ∧
    (lets = true → u.badIn p.pa 8 = false → v.nat p.pa 8 = 0 → exec (.slb h rd ra off fboff) s = .next (apOut h s (v.modMe fun c =>
      ({ c with elide := some { rd := rd, fallback := fb, a := c.a, p := c.p, loops := c.apLoops, lines := [p.pa / 64], writes := [], wbad := [], gen := v.nextId } } : Ctx).setA rd { v := 0 })))) ∧
  (∀ (h : ApHdr) (xcode : BitVec 8) (s : State), apGo h s = true →
    (s.me.elide = none →
      exec (.slc h) s = .next (apOut h s (apIn h s)) ∧ exec (.slx h xcode) s = .next (apOut h s (apIn h s))) ∧
    (∀ e, s.me.elide = some e →
      (let c := s.me.abort e xcode.toNat 1
       let back := apLoopBack c.apLoops c.ap.pc
       exec (.slx h xcode) s = .next (s.modMe fun _ => { c with apLoops := back.2, ap := { c.ap with pc := back.1 } })) ∧
      ((apIn h s).before s.cur.tid .device false = [] →
        let u := apIn h s
        let v := commitBytes s.cur.tid u e
        let lets := fun (w : Nat) => e.locs.contains w || u.windowOk (u.ctxTenant s.cur.tid.core s.cur.tid.ctx) (8 * w) (8 * w + 7) .write
        exec (.slc h) s = .next (apOut h s (v.modMe fun c => { c with elide := none })) ∧
        ((∀ p ∈ e.writes, lets (p.1 / 8) = true) →
          ((e.writes.map (·.1)).Nodup →
            ∀ a, v.byte a = if e.writes.has a then e.writes.get 0 a else u.byte a) ∧
          ((e.wbad.map (·.1)).Nodup →
            ∀ w, v.badWord w = if e.wbad.has w && lets w then e.wbad.get false w else u.badWord w))))) ∧
  (∀ (h : ApHdr) (rd ra rb : BitVec 5) (off : BitVec 32) (aty : AccTy) (pd : BitVec 3) (s : State) (e : Elide),
    apGo h s = true → s.me.elide = some e → canUse s ra = true → s.busyA rd = false → s.busyA rb = false → s.busyP pd = false →
    let va := effVal s ra off
    let b := s.me.areg rb
    let t0 := s.cur.tid
    -- what an access of one operation does, once it has reached the part `p` in the state `u`
    let acts := fun (i : Instr) (op : ReqOp) (ty : AccTy) (pd : BitVec 3) (b : AReg) (taint loc : Bool) (p : Part) (u : State) =>
      let n := ty.bytes
      let w := track e (p.pa / 64)
      let lets := loc || u.windowOk (u.ctxTenant t0.core t0.ctx) p.pa (p.pa + n - 1) (opAccess op)
      let old := leNat (w.bytesAt u p.pa n)
      let bad := w.badAt u (p.pa / 8)
      let new := if bad && opCompares op then none else rmw op n old b.v.toNat
      let back := fun (v : Nat) (vbad done : Bool) (c : Ctx) =>
        let c := if op = .write then c else c.setA rd { v := extend ty v, bad := vbad, taint := taint }
        if opCompares op then c.setP pd { v := done, bad := vbad } else c
      (p.ord ≠ .rc ∨ ¬ (inDram p.pa ∨ inSpad p.pa) → exec i s = .next (u.abortMine 0 7)) ∧
      (p.ord = .rc → (inDram p.pa || inSpad p.pa) = true → u.mustWait t0 p.pa n = false →
        (32 < w.lines.length → exec i s = .next ((u.modMe fun c => { c with elide := some w }).abortMine 0 3)) ∧
        (w.lines.length ≤ 32 → op ≠ .write → lets = false →
          let o := (u.refuseAt (u.srcOf t0) p.pa).openBytes n
          exec i s = .next (apOut h s (o.2.modMe fun c => back (leNat o.1) true false { c with elide := some w }))) ∧
        (w.lines.length ≤ 32 → (op = .write ∨ lets = true) →
          let w' := match new with
            | some x =>
              let w1 := w.put p.pa (leBytes n x)
              { w1 with wbad := w1.wbad.put (p.pa / 8) (b.bad || (bad && opUsesOld op) || (n != 8 && w1.badAt u (p.pa / 8)))
                        locs := if loc && !w1.locs.contains (p.pa / 8) then p.pa / 8 :: w1.locs else w1.locs }
            | none => w
          let v := u.touch (some t0) p.pa n (op != .read && op != .write)
          (∀ a, v.byte a = u.byte a) ∧
          exec i s = .next (apOut h s (v.modMe fun c => back old bad new.isSome { c with elide := some w' }))))
    -- a virtual address, which translates for its own kind and, where it is write-back memory, for an atomic
    let far := fun (i : Instr) (op : ReqOp) (ty : AccTy) (pd : BitVec 3) (b : AReg) (taint : Bool) =>
      ∀ p t u, reaches (apIn h s) va ty.bytes (opAccess op) p t →
        (if p.ord = .rc ∧ (inDram p.pa || inSpad p.pa) = true then ∃ q, reaches t va ty.bytes .atomic q u else u = t) →
        acts i op ty pd b taint false p u
    let tnt := aTaint s ra
    far (.ld h rd ra off aty) .read aty 0 {} tnt ∧ far (.ldc h rd ra off aty) .read aty 0 {} true ∧
    far (.st h ra rb off aty) .write aty 0 b false ∧ far (.aswap h rd ra rb off aty) .swap aty 0 b tnt ∧
    (b.bad = false →
      far (.aadd h rd ra rb off aty) .add aty 0 b tnt ∧ far (.aand h rd ra rb off aty) .and aty 0 b tnt ∧
      far (.aor h rd ra rb off aty) .or aty 0 b tnt ∧ far (.axor h rd ra rb off aty) .xor aty 0 b tnt ∧
      far (.amin h rd ra rb off aty) .min aty 0 b tnt ∧ far (.amax h rd ra rb off aty) .max aty 0 b tnt ∧
      far (.aminn h rd ra rb off aty) .minn aty 0 b tnt ∧ far (.amaxn h rd ra rb off aty) .maxn aty 0 b tnt ∧
      far (.aminp h rd ra rb off pd) .minp .q8 pd b tnt ∧
      (canUse s rd = true → far (.acas h rd ra rb off aty pd) (.cas (aVal s rd)) aty pd b tnt)) ∧
    (va % aty.bytes = 0 → va + aty.bytes ≤ 0x200000 →
      acts (.lds h rd ra off aty) .read aty 0 {} tnt true (ownPart s va) (apIn h s) ∧
      acts (.sts h ra rb off aty) .write aty 0 b false true (ownPart s va) (apIn h s)))

/-! ## Streams (06, 09) -/

/-- R139, R229, R230: SCFG stores a word into the shadow configuration of a port (the status bits of word 1 stay zero), SFORK a fork
target and PVAL; an active stream goes on by the configuration it started with. That SCFG stores the reserved bits of word 0 too, for SGO
to refuse, is the model's choice (log entry 110). R138, R139, R231: SGO starts the stream of its port from the shadow configuration once
the checks of Table 06-4 pass and its release is satisfied; the port is active at the start of its nest. A codec stream reads its table
block, and takes one of the 16 table slots, that of the port's own table included. A configuration that fails a check traps with the
reason. -/
def Obligations.StreamsAreShadowedAndStarted : Prop :=
  (∀ (h : ApHdr) (o : Op2) (ra : BitVec 5) (sp pport : BitVec 4) (word : BitVec 3) (s : State), apGoPlain h s = true →
    let n := sp.toNat
    let P := fun (f : Port → Port) =>
      (Host.Outcome.next (apOut h s ((apIn h s).modPort s.cur.tid.core s.cur.tid.ctx n f)) : Out)
    let T : Out := .next (s.trapWord h.popm s.cur.pc { code := 1 })
    (s.me.streamCount s.cur.tid.ctx ≤ n →
      exec (.scfg h o sp word) s = T ∧ exec (.sfork h ra sp pport) s = T ∧ exec (.smark h sp) s = T ∧
      exec (.srewStart h sp) s = T ∧ exec (.srewMark h sp) s = T ∧ exec (.send h sp) s = T) ∧
    (n < s.me.streamCount s.cur.tid.ctx →
      (canUse2 s o = true → exec (.scfg h o sp word) s = P fun p => { p with
        shadow := p.shadow.set 0 word.toNat
          (if word = 1 then op2Val s o &&& 0x01FFFFFFFFFFFFFF else op2Val s o) }) ∧
      (canUse s ra = true → exec (.sfork h ra sp pport) s = P fun p => { p with
        shadow := forkShadow p.shadow ((aVal s ra).toNat % 256) pport.toNat }))) ∧
  (∀ (h : ApHdr) (sp : BitVec 4) (s : State), apGoPlain h s = true →
    let n := sp.toNat
    let k := s.cur.tid.core
    let x := s.cur.tid.ctx
    let p := s.port k x n
    (Conf.isCodec p.shadow = true → (apIn h s).mustWait s.cur.tid (spad k (Conf.tbl p.shadow)) 512 = false) →
    (∀ r st, (apIn h s).checkConf k x n p.shadow ((apIn h s).portBusy k x n) = .error (r, st) →
      exec (.sgo h sp) s = .next (s.trapWord h.popm s.cur.pc { code := 1, detail := r + st * 256 })) ∧
    (∀ tb, (apIn h s).checkConf k x n p.shadow ((apIn h s).portBusy k x n) = .ok tb →
      s.before s.cur.tid ((Scope.ofCode? (Conf.scope p.shadow)).getD .system) false = [] →
      (tb = none ∨ ((apIn h s).core k).tablesHeld < 16 + (if p.table.isSome then 1 else 0)) →
      let u := if Conf.isCodec p.shadow then (apIn h s).look none (spad k (Conf.tbl p.shadow)) 512 else apIn h s
      exec (.sgo h sp) s = .next (apOut h s (u.modPort k x n fun p =>
        { shadow := p.shadow, cfg := p.shadow, act := true, table := tb, usedAt := p.usedAt }))))

/-- R157, R232: SMARK sets the mark of a source to its consumer position, past the end for one that has ended, and SREW takes it to the
mark or the start of its nest, empty, with its flags, its fault and its latched mask cleared. On a sink or a peer source they trap. R151,
R233: SEND ends an active stream: a sink takes no more elements and keeps its lines, a source drops its lines. -/
def Obligations.StreamMarksRewindsAndSend : Prop :=
  (∀ (h : ApHdr) (sp : BitVec 4) (s : State), apGoPlain h s = true →
    let n := sp.toNat
    let k := s.cur.tid.core
    let x := s.cur.tid.ctx
    let p := s.port k x n
    let T : Out := .next (s.trapWord h.popm s.cur.pc { code := 1 })
    n < s.me.streamCount x →
    ((p.act = false ∨ Conf.sink p.cfg = true ∨ Conf.isPeer p.cfg = true) →
      exec (.smark h sp) s = T ∧ exec (.srewStart h sp) s = T ∧ exec (.srewMark h sp) s = T) ∧
    (p.act = true → Conf.sink p.cfg = false → Conf.isPeer p.cfg = false →
      exec (.smark h sp) s = .next (apOut h s ((apIn h s).modPort k x n fun p =>
        { p with mark := if p.ended && !Conf.wen p.cfg then Conf.pastEnd p.cfg else p.cpos })) ∧
      (∃ t, exec (.srewStart h sp) s = .next (apOut h s t) ∧ (t.port k x n).cpos = {} ∧ (t.port k x n).lines = [] ∧
        (t.port k x n).flt = false ∧ (t.port k x n).eflag = false ∧ (t.port k x n).latch = none) ∧
      (∃ t, exec (.srewMark h sp) s = .next (apOut h s t) ∧ (t.port k x n).cpos = p.mark ∧ (t.port k x n).lines = [] ∧
        (t.port k x n).flt = false ∧ (t.port k x n).eflag = false ∧ (t.port k x n).latch = none))) ∧
  (∀ (h : ApHdr) (sp : BitVec 4) (s : State), apGoPlain h s = true →
    let n := sp.toNat
    let k := s.cur.tid.core
    let x := s.cur.tid.ctx
    let p := s.port k x n
    n < s.me.streamCount x →
    (p.act = false → exec (.send h sp) s = .next (s.trapWord h.popm s.cur.pc { code := 1 })) ∧
    (p.act = true →
      ∃ t, exec (.send h sp) s = .next (apOut h s t) ∧ (t.port k x n).ended = true ∧ (t.port k x n).act = true ∧
        (t.port k x n).lines = (if p.ended || Conf.sink p.cfg then p.lines else [])))

/-- R159, R160, R234, R235: SSAVE and SSAVEB write the 128-byte record of an active port (SSAVEB its full lines as well) and leave the
port inactive with its shadow, its end flag and its count kept, once no access of the thread to those bytes is in flight; a peer source
whose end marker has come has its position past the end there (log entry 67). SRSTR of a record that passes every check makes the port
active again from it; of one with LSV 1 it copies the saved lines into the ring, from ring position 0, once no write of its core to those
lines is in flight (log entry 85). A failed stream or a sink within a line is saved once it stands at its fault or past the line. R151,
R164, R236, R237, R238: SQRY writes the status word of its port, for an inactive one its end flag and its count of pops or pushes (log
entry 113); SMASK rebinds the mask of an active masked stream, whose mask is latched anew; GRD reads a full tile-mask register, holds
while it is empty, and traps on a poisoned one (OPND 1 is log entry 74). -/
def Obligations.StreamRecordsQueriesAndMasks : Prop :=
  (∀ (h : ApHdr) (ra : BitVec 5) (off : BitVec 32) (sp : BitVec 4) (s : State), apGoPlain h s = true → canUse s ra = true →
    let n := sp.toNat
    let k := s.cur.tid.core
    let x := s.cur.tid.ctx
    let p := s.port k x n
    let o := effVal s ra off
    let t := apIn h s
    let drn := t.drained k x n
    let u := t.stopPort k x n
    let p1 := u.port k x n
    let q := if p1.endGot && Conf.isPeer p1.cfg && !Conf.sink p1.cfg then { p1 with cpos := Conf.pastEnd p1.cfg } else p1
    let savedFrom := fun (u : State) (bs : List Byte) =>
      (u.store (some s.cur.tid) (spad k o) bs false).modPort k x n fun p =>
        { shadow := p.shadow, eflag := p.eflag, ord := p.ord, usedAt := p.usedAt }
    o % 128 = 0 → o + 128 ≤ 0x200000 → t.mustWait s.cur.tid (spad k o) 128 = false →
    (n < s.me.streamCount x → p.act = true →
      ((Conf.sink p.cfg = false ∨ (p.flt = true ∧ drn = true) ∨
          (p.flt = false ∧ p.lines = [] ∧ (Conf.isPeer p.cfg = false ∨ p.ended = false ∨ drn = true))) →
        exec (.ssave h ra off sp) s = .next (apOut h s (savedFrom u
          (q.record drn false 0 (if Conf.sink p1.cfg then p1.fpos else q.cpos))))) ∧
      (o + 128 + 256 * Conf.lines p.cfg ≤ 0x200000 → p.beforeFault = false → p.midDrain = false → t.mustWait s.cur.tid (spad k o) (128 + 256 * p.fullRun.length) = false →
        exec (.ssaveb h ra off sp) s = .next (apOut h s (savedFrom (saveLines k o p1 u p.fullRun.length)
          (p1.record drn true p.fullRun.length (if Conf.sink p1.cfg || p1.blocked || p1.flt then p1.fpos else if Conf.isPeer p1.cfg then
            (if p1.endGot then Conf.pastEnd p1.cfg else {})
            else match p.fullRun.getLast? with
            | some l => if p1.restored = 0 then Conf.bump p1.cfg l.pos 1 5 else p1.fpos
            | none => p1.cpos)))))) ∧
    (let bs := t.bytes (spad k o) 128
     let c := recordConf bs
     let lsv := bit (leNat ((bs.drop 8).take 8)) 57
     let nf := if lsv then bits (leNat (bs.drop 64)) 252 246 else 0
     ∀ tb, t.badIn (spad k o) 128 = false → (Conf.isCodec c = true → t.mustWait s.cur.tid (spad k (Conf.tbl c)) 512 = false) → (lsv = true → o + 128 + 256 * Conf.lines c ≤ 0x200000) → t.checkConf k x n c (t.portBusy k x n) = .ok tb →
      recordOk c bs false = true → s.before s.cur.tid ((Scope.ofCode? (Conf.scope c)).getD .system) false = [] →
      (tb = none ∨ (t.core k).tablesHeld < 16 + (if p.table.isSome then 1 else 0)) →
      let v := if Conf.isCodec c then t.look none (spad k (Conf.tbl c)) 512 else t
      let q := (v.port k x n).restore c tb bs 0 nf
      let w := loadLines k o q (v.look (some s.cur.tid) (spad k o) 128) nf
      (lsv = true → t.mustWait s.cur.tid (spad k (o + 128)) (256 * nf) = false ∧ v.ringAwaits k q nf = false) →
      exec (.srstr h ra off sp) s = .next (apOut h s (w.modPort k x n fun _ => q)) ∧
      ((q.lineAt 0 + 256 * nf ≤ o + 128 ∨ o + 128 + 256 * nf ≤ q.lineAt 0) → ∀ i < nf, ∀ j < 256,
        w.byte (spad k (q.lineAt i) + j) = t.byte (spad k (o + 128 + 256 * i) + j)))) ∧
  (∀ (h : ApHdr) (rd : BitVec 5) (sp : BitVec 4) (g : BitVec 3) (mbase : BitVec 6) (s : State),
    apGoPlain h s = true → s.busyA rd = false →
    let n := sp.toNat
    let k := s.cur.tid.core
    let x := s.cur.tid.ctx
    let p := s.port k x n
    let r := s.me.greg g
    (n < s.me.streamCount x →
      (p.act = false → exec (.sqry h rd sp) s = .next (apSets h s rd { v := BitVec.ofNat 64 (p.eflag.toNat * 2 ^ 9 + p.ord % 2 ^ 45 * 2 ^ 19) })) ∧
      (p.act = true →
        let word := p.nfull + 2 ^ 7 + p.ended.toNat * 2 ^ 8 + p.eflag.toNat * 2 ^ 9 + ((apIn h s).drained k x n).toNat * 2 ^ 10
          + p.park.toNat * 2 ^ 11 + p.flt.toNat * 2 ^ 12 + (Conf.pval p.cfg && !Conf.sink p.cfg).toNat * 2 ^ 13
          + p.cst % 8 * 2 ^ 16 + p.ord % 2 ^ 45 * 2 ^ 19
        exec (.sqry h rd sp) s = .next (apSets h s rd { v := BitVec.ofNat 64 word })) ∧
      ((p.act = false ∨ Conf.men p.cfg = false) →
        exec (.smask h sp g mbase) s = .next (s.trapWord h.popm s.cur.pc { code := 1 })) ∧
      (p.act = true → Conf.men p.cfg = true →
        ∃ t, exec (.smask h sp g mbase) s = .next (apOut h s t) ∧ (t.port k x n).latch = none ∧
          Conf.mreg (t.port k x n).cfg = g.toNat ∧ Conf.mbase (t.port k x n).cfg = mbase.toNat)) ∧
    (r.full = true → r.bad = false → exec (.grd h rd g) s = .next (apSets h s rd { v := r.v })) ∧
    (r.full = true → r.bad = true → exec (.grd h rd g) s = .next (s.trapWord h.popm s.cur.pc { code := 8, opnd := 1 })) ∧
    (r.full = false → exec (.grd h rd g) s = .next (s.noteStall false)))

/-! ## Copies, waits, barriers, work lists, chains (05, 13) -/

/-- R105, R107, R108, R315, R316: CPY and CPYI issue the 64-byte block at a local offset (CPYI with its addresses replaced): the command
takes the next identifier of its channel, which a[RD] receives, becomes outstanding, clears its tag's bit and counts for its tag. It waits
for the thread's own stores to its block and to the index list or code table that its check reads (R111). Where its channel or its tag has
no room it waits with the block and the time word that it has read, and issues that block later. R106, R318 to R321: WMRD reads a
channel's watermark or next identifier, CPQ its watermark once every command issued before is complete, TWAIT its tags once all or any of
the tags asked for are set, TFFR the lowest set tag, or 64. -/
def Obligations.CopyIssueAndCompletionForms : Prop :=
  (∀ (h : ApHdr) (rd ra rb : BitVec 5) (off : BitVec 32) (s : State) (tb : Option CodecTable),
    apGoPlain h s = true → canUse s ra = true → s.busyA rd = false →
    let T := s.cur.tid
    let k := T.core
    let x := T.ctx
    let t := apIn h s
    let kept := (s.half T).stall.bind fun w => if w.issued then w.blk else none
    let G := fun (o : Nat) (addrs : Option (BitVec 64 × BitVec 64)) (r : Out) =>
      let b0 : Blk := BitVec.ofNat 512 (s.nat (spad k o) 64)
      let read := kept.getD (b0, BitVec.ofNat 64 (if Blk.timed b0 then s.nat (spad k (o + 64)) 8 else 0))
      let b := match addrs with
        | some (src, dst) => Blk.withAddrs read.1 src dst
        | none => read.1
      let n := Blk.chan b
      let id := (s.me.chan n).nextId
      o % 64 = 0 → o + 64 ≤ 0x200000 →
      (kept = none → (Blk.timed b0 = true → o + 72 ≤ 0x200000) ∧ t.mustWait T (spad k o) 72 = false ∧
        s.badIn (spad k o) (if Blk.timed b0 then 72 else 64) = false) →
      (Blk.checked b = 0 ∨ t.mustWait T (spad k (Blk.idxAt b)) (Blk.checked b) = false) →
      (t.cmdRoom k x b = false →
        ∃ u w, r = .next u ∧ (u.half T).stall = some w ∧ w.issued = true ∧ w.blk = some read ∧ u.mem = s.mem) ∧
      (t.cmdRoom k x b = true → t.checkBlk k x b = .ok tb →
        t.before T ((Scope.ofCode? (Blk.scope b)).getD .system) false = [] →
        ∃ u, r = .next (apOut h s u) ∧
          (u.core k).cmds = (t.core k).cmds ++ [{
            id := t.nextId, ctx := x, ten := t.ctxTenant k x, chan := n, tag := Blk.tag b, xid := id, blk := b, table := tb,
            time := if Blk.timed b then some read.2.toNat else none }] ∧
          u.me.areg rd = (if rd = 0 then {} else { v := BitVec.ofNat 64 id }) ∧
          (u.me.chan n).nextId = (id + 1) % 2 ^ 32 ∧
          u.me.counts.get 0 (Blk.tag b) = s.me.counts.get 0 (Blk.tag b) + 1 ∧
          u.me.tags = s.me.tags &&& ~~~((1 : BitVec 64) <<< Blk.tag b) ∧ u.mem = s.mem)
    G (effVal s ra off) none (exec (.cpy h rd ra off) s) ∧
    (canUse s rb = true → G (off.toNat % 2 ^ 21) (some (aVal s ra, aVal s rb)) (exec (.cpyi h rd ra rb off) s))) ∧
  (∀ (h : ApHdr) (rd : BitVec 5) (nxt all clr : Bool) (chan : BitVec 2) (o : Op2) (s : State), apGoPlain h s = true → s.busyA rd = false →
    let c := s.me.chan chan.toNat
    let R := fun (v : BitVec 64) => (Host.Outcome.next (apSets h s rd { v := v }) : Out)
    exec (.wmrd h rd nxt chan) s = R (BitVec.ofNat 64 (if nxt then c.nextId else c.mark)) ∧
    (((s.core s.cur.tid.core).cmds.all fun q => !(q.ctx == s.cur.tid.ctx && q.chan == chan.toNat)) = true →
      exec (.cpq h rd chan) s = R (BitVec.ofNat 64 c.mark)) ∧
    (canUse2 s o = true →
      let k := op2Val s o
      let r := s.me.tags &&& k
      ((if all then r = k else (r ≠ 0 ∨ k = 0)) → exec (.twait h rd o all) s = R r) ∧
      (¬ (if all then r = k else (r ≠ 0 ∨ k = 0)) → exec (.twait h rd o all) s = .next ((apIn h s).noteStall true)) ∧
      (r = 0 → exec (.tffr h rd o clr) s = R 64) ∧
      (∀ n : Nat, n < 64 → r.getLsbD n = true → (∀ m < n, r.getLsbD m = false) →
        let u := (apIn h s).modMe (·.setA rd { v := BitVec.ofNat 64 n })
        exec (.tffr h rd o clr) s = .next (apOut h s (if clr then
          u.modMe fun x => { x with tags := x.tags &&& ~~~((1 : BitVec 64) <<< n) } else u)))))

/-- R322 to R326: WAIT of either half reads its condition block once, and the words of its conditions, which conflicts with other threads'
elided regions as any read does. Where the conditions hold it ends with their bits; a poisoned word of them traps; else it waits, with its
deadline set. While it waits, its conditions are tested at the end of each cycle, before its limit: it ends with their bits, or with its
bits and TO (bit 8) once its deadline has come. Where a result shows a barrier's phase, with TO or without, the half sees what the other
has written to special registers (R347; that it sees it then is log entry 99). R327 to R331: BINIT sets a barrier's expected count, BARR
arrives and returns the phase it saw, the last arrival turns the phase and clears the count, BARRX sends an arrival to another core of the
tenant, BWAIT ends once the phase differs, and its half then sees what the other has written to special registers (R347). A barrier whose
state is poisoned traps as Poison until a BINIT writes it (log entry 83). -/
def Obligations.WaitsAndBarriersEndOrGoOn : Prop :=
  (∀ (h : ApHdr) (g : XpHdr) (rd ra rb : BitVec 5) (d a b : BitVec 4) (off : BitVec 32) (all : Bool) (ncm1 : BitVec 2) (s : State),
    let n := ncm1.toNat + 1
    let T := s.cur.tid
    let k := T.core
    let sees := fun (c : WaitSet) (v : Nat) (u : State) => if c.acquires v then u.seeSr T else u
    -- a word that issues in the state `t`
    let G := fun (t : State) (popm : BitVec 5) (o limit : Nat) (set : Nat → State → State) (out : State → State) (r : Out) =>
      let c : WaitSet := { all := all, n := n, blk := BitVec.ofNat 512 (s.nat (spad k o) 64) }
      let read := t.look (some T) (spad k o) (16 * n)
      (s.half T).inWord = false → (s.half T).stall.bind (·.deadline) = none → o % 64 = 0 → o + 64 ≤ 0x200000 →
      t.mustWait T (spad k o) 64 = false →
      s.badIn (spad k o) (16 * n) = false → firstSome (read.condTrap T) c.entries = none →
      (∀ e ∈ c.entries, condKind e = 4 → read.mustWait T (spad k (condArg e)) 8 = false) →
      (t.satBits T c.entries = none → r = .next (s.trapWord popm s.cur.pc { code := 8, opnd := 4 })) ∧
      (∀ v : Nat, t.satBits T c.entries = some v →
        ((if all then v = 2 ^ n - 1 else v ≠ 0) → r = .next (out (set v (sees c v (read.lookConds T c.entries))))) ∧
        (¬ (if all then v = 2 ^ n - 1 else v ≠ 0) →
          ∃ u w, r = .next u ∧ (u.half T).stall = some w ∧ w.issued = true ∧ w.deadline = some (s.gtc + limit) ∧ w.conds = some c ∧
            (u.half T).pc = (s.half T).pc))
    -- a word that has issued, and waits
    let W := fun (popm : BitVec 5) (o : Nat) (set : Nat → State → State) (r : Out) =>
      ∀ w c, (s.half T).stall = some w → w.issued = true → w.conds = some c →
        o % 64 = 0 → o + 64 ≤ 0x200000 →
        let ends := w.latched.orElse fun _ => s.waitEnd T c false
        (ends = some none → r = .next (s.trapWord popm s.cur.pc { code := 8, opnd := 4 })) ∧
        (∀ v, ends = some (some v) → r = .next ((set v (sees c v (s.lookConds T c.entries))).retire s.nextId none)) ∧
        (ends = none → ∃ u w', r = .next u ∧ (u.half T).stall = some w' ∧ w'.conds = some c ∧
          (∀ d, w.deadline = some d → w'.deadline = some d))
    let setA := fun (r : Nat) (t : State) => t.modMe (·.setA rd { v := BitVec.ofNat 64 r })
    let setX := fun (r : Nat) (t : State) => t.modMe (·.setX d { v := BitVec.ofNat 32 r })
    (apGoPlain h s = true → canUse s ra = true → canUse s rb = true → s.busyA rd = false →
      G (apIn h s) h.popm (effVal s ra off) (aVal s rb).toNat setA (apOut h s ·) (exec (.wait h rd ra rb off all ncm1) s) ∧
      W h.popm (effVal s ra off) setA (exec (.wait h rd ra rb off all ncm1) s)) ∧
    (xpGo g s = true → (s.me.xreg a).bad = false → (s.me.xreg b).bad = false → 0 ≤ ((s.me.xreg a).v.toNat : Int) + off.toInt →
      let o := (((s.me.xreg a).v.toNat : Int) + off.toInt).toNat
      G (xpIn g s) g.popm o (s.me.xreg b).v.toNat setX (xpOut g s ·) (exec (.xpWait g d a b all ncm1 off) s) ∧
      W g.popm o setX (exec (.xpWait g d a b all ncm1 off) s)) ∧
    (∀ (t : Tid) (ticks : Nat) (w : Stall) (c : WaitSet) (dl : Nat), (s.half t).stall = some w → w.conds = some c →
      w.deadline = some dl → w.latched = none →
      (s.frozen t.core = true → s.latch ticks t = s) ∧
      (s.runnable t = true → ((s.latch ticks t).half t).stall = some { w with latched := (match s.satBits t c.entries with
        | none => some none
        | some v => if (if c.all then v = 2 ^ c.n - 1 else v ≠ 0) then some (some v)
          else if dl ≤ s.gtc ∨ dl < s.gtc + ticks then some (some (v + 256)) else none : Option (Option Nat)) }))) ∧
  (∀ (h : ApHdr) (rd ra rb : BitVec 5) (o : Op2) (sc : Scope) (s : State), apGoPlain h s = true → canUse s ra = true →
    let k := s.cur.tid.core
    let n := (aVal s ra).toNat
    let b := s.bar k n
    let M : Out := .next (s.trapWord h.popm s.cur.pc { code := 11 })
    (n < 2048 → canUse2 s o = true →
      let e := (op2Val s o).toNat % 65536
      (e ≠ 0 → (b.a = 0 ∨ b.bad = true) → exec (.binit h ra o) s = .next (apOut h s ((apIn h s).setBar k n { e := e, a := 0, p := false }))) ∧
      ((e = 0 ∨ (b.a ≠ 0 ∧ b.bad = false)) → exec (.binit h ra o) s = M)) ∧
    (n < 2048 → b.bad = false → b.e ≠ 0 → s.busyA rd = false → s.before s.cur.tid sc false = [] →
      exec (.barr h rd ra sc) s = .next (apOut h s (((apIn h s).setBar k n
        (if b.a + 1 = b.e then { e := b.e, a := 0, p := !b.p } else { e := b.e, a := b.a + 1, p := b.p })).modMe
          (·.setA rd { v := if b.p then 1 else 0 })))) ∧
    ((2048 ≤ n ∨ (b.bad = false ∧ b.e = 0)) → exec (.barr h rd ra sc) s = M ∧ (canUse2 s o = true → exec (.bwait h ra o sc) s = M)) ∧
    (n < 2048 → b.bad = true →
      let P : Out := .next (s.trapWord h.popm s.cur.pc { code := 8, opnd := 15 })
      exec (.barr h rd ra sc) s = P ∧ (canUse2 s o = true → exec (.bwait h ra o sc) s = P)) ∧
    (n < 2048 → b.bad = false → b.e ≠ 0 → canUse2 s o = true →
      (b.p ≠ (op2Val s o).getLsbD 0 → exec (.bwait h ra o sc) s = .next (apOut h s ((apIn h s).seeSr s.cur.tid))) ∧
      (b.p = (op2Val s o).getLsbD 0 → exec (.bwait h ra o sc) s = .next ((apIn h s).noteStall true))) ∧
    (canUse s rb = true → (aVal s rb).toNat < 2048 → s.coreTenant (n % 256) = s.coreTenant k → (s.coreTenant k).isSome = true →
      scopeOver k (n % 256) ≤ sc.code → (s.dev.bridge.up = true ∨ k / 128 = n % 256 / 128) → s.before s.cur.tid sc false = [] →
      exec (.barrx h ra rb sc) s = .next (apOut h s
        (let t := apIn h s
         { t with nextId := t.nextId + 1, barMsgs := t.barMsgs ++ [{ id := t.nextId, src := s.cur.tid, core := n % 256, bar := (aVal s rb).toNat }] }))))

/-- R333 to R335: the work list is configured while empty, takes entries at its tail up to its capacity, WLINS only those whose bitmap bit
is clear and sets that bit; WLPUSH moves its operand, poison and all (R16); WLCLR empties it and clears its fault, WLCNT counts its
entries. A full list traps with code 15. R338, R339: CHLINK links a chain at a 64-aligned address to a free channel, CHKICK sets it
running once its release is satisfied, CHQ of a channel without a chain returns zero, and of an idle chain its next entry's address, and
frees the channel; it waits for an entry that has consumed its slots. JPOST swaps a DRAM word of write-back memory. -/
def Obligations.WorkListChainAndJobForms : Prop :=
  (∀ (h : ApHdr) (rd ra rb : BitVec 5) (o : Op2) (pd : BitVec 3) (s : State), apGoPlain h s = true →
    let w := s.me.wl
    let P := fun (f : WorkList → WorkList) =>
      (Host.Outcome.next (apOut h s ((apIn h s).modMe fun c => { c with wl := f c.wl })) : Out)
    let v := BitVec.truncate 32 (op2Val s o)
    (s.busyA rd = false → exec (.wlcnt h rd) s = .next (apSets h s rd { v := BitVec.ofNat 64 (w.count + if w.flt then 2 ^ 63 else 0) })) ∧
    (exec (.wlclr h) s = P fun w => { base := w.base, cfg := w.cfg }) ∧
    (w.flt = false → canUse s ra = true → canUse s rb = true →
      let n : WorkList := { base := aVal s ra, cfg := aVal s rb }
      (w.count = 0 ∧ bits (aVal s rb).toNat 31 21 = 0 ∧ (aVal s ra).toNat % 2048 = 0 ∧ (n.nch = 0 ↔ aVal s ra = 0) ∧ n.bmoff % 8 = 0 ∧
        n.bmoff + 8 * n.nbm ≤ 0x200000) →
      exec (.wlcfg h ra rb) s = P fun _ => n) ∧
    (w.flt = false → (∀ r, o = .reg r → s.busyA r = false) →
      let bad := match o with
        | .reg r => (s.me.areg r).bad
        | .imm _ => false
      (w.capacity ≤ w.count → exec (.wlpush h o) s = .next (s.trapWord h.popm s.cur.pc { code := 15 })) ∧
      (w.count < w.capacity → w.onChip < 4096 → exec (.wlpush h o) s = P fun w => w.append v bad)) ∧
    (w.flt = false → canUse2 s o = true →
      (v.toNat < 64 * w.nbm → s.busyP pd = false →
        let pa := spad s.cur.tid.core (w.bmoff + v.toNat / 8)
        (apIn h s).mustWait s.cur.tid pa 1 = false →
        s.badIn pa 1 = false →
        ((s.byte pa).getLsbD (v.toNat % 8) = true →
          ∃ t, exec (.wlins h o pd) s = .next (apOut h s t) ∧ t.me.wl = w ∧ t.mem = s.mem ∧
            t.me.pred pd = if pd = 0 then { v := true } else { v := false }) ∧
        ((s.byte pa).getLsbD (v.toNat % 8) = false → w.count < w.capacity → w.onChip < 4096 →
          ∃ t, exec (.wlins h o pd) s = .next (apOut h s t) ∧ t.me.wl = w.append v false ∧ (t.me.pred pd).v = true ∧
            ∀ a, t.byte a = if a = pa then s.byte pa ||| ((1 : BitVec 8) <<< (v.toNat % 8)) else s.byte a)))) ∧
  (∀ (h : ApHdr) (rd ra rb : BitVec 5) (off : BitVec 32) (sc : Scope) (chan : BitVec 2) (s t u : State) (p q : Part),
    apGoPlain h s = true → s.busyA rd = false →
    let n := chan.toNat
    let C := s.me.chan n
    (canUse s ra = true → (aVal s ra).toNat % 64 = 0 → C.chain = none →
      exec (.chlink h ra chan) s = .next (apOut h s ((apIn h s).modMe fun c =>
        c.setChan n { C with chain := some { next := some (aVal s ra).toNat } }))) ∧
    (C.chain = none → exec (.chkick h sc chan) s = .next (s.trapWord h.popm s.cur.pc { code := 1 }) ∧
      exec (.chq h rd chan) s = .next (apSets h s rd { v := 0 })) ∧
    (∀ c, C.chain = some c → s.before s.cur.tid sc false = [] →
      exec (.chkick h sc chan) s = .next (apOut h s ((apIn h s).modMe fun x =>
        x.setChan n { C with chain := some { c with running := true, failed := false } }))) ∧
    (∀ c, C.chain = some c → c.entry.any (·.took) = true →
      ∃ v, exec (.chq h rd chan) s = .next v ∧ (v.half s.cur.tid).inWord = true ∧ (v.me.chan n).chain = some { c with running := false }) ∧
    (∀ c, C.chain = some c → c.posts = [] → c.entry.any (·.took) = false →
      ((s.core s.cur.tid.core).cmds.all fun q => !(q.ctx == s.cur.tid.ctx && q.chan == n && q.ofChain)) = true →
      ∃ v, exec (.chq h rd chan) s = .next (apOut h s v) ∧ (v.me.chan n).chain = none ∧
        v.me.areg rd = if rd = 0 then {} else { v := BitVec.ofNat 64 (((c.entry.map (·.va)).orElse fun _ => c.next).getD 0) }) ∧
    (canUse s ra = true → s.busyA rb = false → s.before s.cur.tid sc false = [] →
      reaches (apIn h s) (effVal s ra off) 8 .atomic p t → p.mt = 0 → inDram p.pa = true →
      reaches t (effVal s ra off) 8 .atomic q u →
      exec (.jpost h rd ra rb off sc) s = .next (apOut h s (sends u
        { request u .swap q 8 (s.me.areg rb) (.areg rd .q8 (aTaint s ra) 0) with tainted := aTaint s ra }))))

/-! ## System forms and traps (13, 16) -/

/-- R24, R25, R340, R341: FORK starts an idle XP at its entry once the AP's release is satisfied, and traps where the XP runs; RDV lets
the first half wait and the second release it; each half then sees what the other has written to special registers (R347). That an XP sees
at its FORK what its AP has written there is the model's choice (log entry 99). R344, R345, R410: YIELD goes on while nothing asks the
context to halt, and halts it at the next boundary otherwise; TRAP takes a software trap that resumes at the next group. -/
def Obligations.ForkRendezvousYieldAndTrapForms : Prop :=
  (∀ (h : ApHdr) (g : XpHdr) (ra : BitVec 5) (off : BitVec 32) (s : State),
    let other : Tid := { s.cur.tid with half := if s.cur.tid.half = .ap then .xp else .ap }
    let I : Out := .next (s.trapWord h.popm s.cur.pc { code := 1 })
    let F := fun (e : Nat) (r : Out) =>
      (s.me.xp.active = true → r = I) ∧
      (s.me.xp.active = false → e % 4 ≠ 0 → r = .next (s.trapWord h.popm s.cur.pc { code := 5, addr := e })) ∧
      (s.me.xp.active = false → e % 4 = 0 → s.before s.cur.tid .context false = [] →
        r = .next (apOut h s ((apIn h s).modMe fun c => { c with xp := { c.xp with pc := e, active := true, stall := none, rdv := .none, srSeen := [] } })))
    let V := fun (t : State) (out : State → State) (r : Out) =>
      ((s.half s.cur.tid).rdv = .met → r = .next (out ((t.modHalf s.cur.tid fun h => { h with rdv := .none }).seeSr s.cur.tid))) ∧
      ((s.half s.cur.tid).rdv = .arrived → r = .next (t.noteStall true)) ∧
      ((s.half s.cur.tid).rdv = .none → s.before s.cur.tid .context false = [] →
        ((s.half other).rdv = .arrived → r = .next (out ((t.modHalf other fun h => { h with rdv := .met }).seeSr s.cur.tid))) ∧
        ((s.half other).rdv ≠ .arrived → r = .next ((t.modHalf s.cur.tid fun h => { h with rdv := .arrived }).noteStall true)))
    (apGoPlain h s = true →
      (canUse s ra = true → F (aVal s ra + off.signExtend 64).toNat (exec (.fork h ra off) s)) ∧
      (∀ b, s.me.bind = some b → s.cur.tid.ctx ≠ 4 → F b.xentry (exec (.forkEntry h) s)) ∧
      ((s.me.bind = none ∨ s.cur.tid.ctx = 4) → exec (.forkEntry h) s = I) ∧
      V (apIn h s) (apOut h s ·) (exec (.rdv h) s)) ∧
    (xpGo g s = true → V (xpIn g s) (xpOut g s ·) (exec (.xpRdv g) s))) ∧
  (∀ (h : ApHdr) (g : XpHdr) (code : BitVec 16) (s : State),
    let k := s.cur.tid.core
    let x := s.cur.tid.ctx
    let i : TrapInfo := { code := 14, swcode := code.toNat }
    let soft := fun (t : State) => t.takeTrap s.cur.tid (t.half s.cur.tid).pc s.cur.op i
    (apGoPlain h s = true →
      exec (.trap h code) s = .next (soft (s.advance s.cur.pcn)) ∧
      (s.yieldAsked k x = false → exec (.yield h) s = .next (apOut h s (apIn h s))) ∧
      (s.yieldAsked k x = true →
        ∃ t, exec (.yield h) s = .next t ∧ (t.ctx k x).halted = true ∧ t.mem = s.mem)) ∧
    (xpGo g s = true →
      exec (.xpTrap g code) s = .next (soft (s.advance s.cur.pcn)) ∧
      (s.yieldAsked k x = false → exec (.xpYield g) s = .next (xpOut g s (xpIn g s))) ∧
      (s.yieldAsked k x = true →
        ∃ t, exec (.xpYield g) s = .next t ∧ (t.ctx k x).halted = true ∧ t.mem = s.mem)))

/-- R397, R398, R399, R400: what taking a trap saves. The 256 bytes of the record go to the context's trap area: the cause word, the
resume offset of the trapping half in its place, GTC, the operation word and the address; SR_TRAPCAUSE takes the cause word; the context
stops at the resume offset. No other byte of memory changes but in the error log of a trap that the host serves. -/
def Obligations.TakingATrapSavesTheContext : Prop :=
  ∀ (s : State) (t : Tid) (rpc : Nat) (op : BitVec 128) (i : TrapInfo), t.ctx < 4 → rpc < 2 ^ 32 → i.noOp = false →
    i.code < 256 → i.opnd < 16 → s.gtc < 2 ^ 64 → i.addr < 2 ^ 64 →
    let base := spad t.core ((s.ctx t.core t.ctx).trapBase)
    let u := s.takeTrap t rpc op i
    let c := u.ctx t.core t.ctx
    let cause := causeWord (s.ctx t.core t.ctx) t i
    c.trapped = true ∧ c.trapCause = BitVec.ofNat 64 cause ∧ (c.half t.half).pc = rpc ∧ cause % 256 = i.code ∧ cause / 256 % 2 = (if t.half = .xp then 1 else 0) ∧
    (s.hostServes (s.ctxTenant t.core t.ctx) i.code = false →
      c.pend = true ∧ (∀ a, a < base ∨ base + 256 ≤ a → u.byte a = s.byte a) ∧
      u.nat base 8 = cause ∧ u.nat (base + (if t.half = .ap then 8 else 12)) 4 = rpc ∧ u.nat (base + 16) 8 = s.gtc ∧
      u.nat (base + 24) 16 = op.toNat ∧ u.nat (base + 64) 8 = i.addr ∧ u.dev = s.dev)

/-- R402, R448: the return from a trap restores what the record says: both resume offsets, with the XP idle where RXPC is all ones; the
context runs again and no longer pends. An AP whose elided region has aborted while the context was stopped resumes at its fallback (R225;
that this is so is log entry 122). An offset that is not a multiple of 4 refuses the return. R346: ERET belongs to the system context.
With no context pending it returns to idle; for a trapped context it makes the return of R402 and returns to idle, once the handler's
accesses to what it reads of the record have performed; for a context that is not trapped it traps as illegal operation, but for one that
a RESUME of the same cycle has resumed already (R448). -/
def Obligations.ReturnsFromATrapResumeTheContext : Prop :=
  (∀ (s : State) (k x : Nat) (f : State → Nat → State),
    let c := s.ctx k x
    let base := spad k (bits c.trapCause.toNat 44 32 * 256)
    let raw := s.nat (base + 8) 4
    let rapc := if raw = 0xFFFFFFFF then raw else c.redirect.getD raw
    let rxpc := s.nat (base + 12) 4
    (rapc = 0xFFFFFFFF → s.returnFromTrap k x f = some (f s (c.trapCause.toNat % 256))) ∧
    (rapc ≠ 0xFFFFFFFF → (rapc % 4 ≠ 0 ∨ (rxpc ≠ 0xFFFFFFFF ∧ rxpc % 4 ≠ 0)) → s.returnFromTrap k x f = none) ∧
    (rapc ≠ 0xFFFFFFFF → rapc % 4 = 0 → (rxpc = 0xFFFFFFFF ∨ rxpc % 4 = 0) →
      ∃ t, s.returnFromTrap k x f = some t ∧ t.mem = s.mem ∧ t.dev = s.dev ∧
        let d := t.ctx k x
        d.trapped = false ∧ d.pend = false ∧ d.redirect = none ∧ d.ap.pc = rapc ∧ d.ap.active = true ∧
        d.xp.active = decide (rxpc ≠ 0xFFFFFFFF) ∧ (rxpc ≠ 0xFFFFFFFF → d.xp.pc = rxpc) ∧
        d.a = c.a ∧ d.p = c.p ∧ d.v = c.v ∧ d.x = c.x ∧ d.m = c.m ∧ d.ports = c.ports)) ∧
  (∀ (h : ApHdr) (tctx : BitVec 2) (s : State), apGoPlain h s = true →
    let k := s.cur.tid.core
    let x := tctx.toNat
    let I : Out := .next (s.trapWord h.popm s.cur.pc { code := 1 })
    let idle := fun (t : State) => (t.modCore k fun c => { c with handling := none }).modMe fun c => { c with ap := { c.ap with active := false } }
    (s.cur.tid.ctx ≠ 4 → exec (.eret h tctx) s = I) ∧
    (s.cur.tid.ctx = 4 → (s.core k).trapPend = 0 → exec (.eret h tctx) s = .next (apOut h s (idle (apIn h s)))) ∧
    (s.cur.tid.ctx = 4 → (s.core k).trapPend ≠ 0 →
      ((s.ctx k x).trapped = false →
        ((s.ctx k x).resumed ≠ some s.cc → exec (.eret h tctx) s = I) ∧
        ((s.ctx k x).resumed = some s.cc → exec (.eret h tctx) s = .next (apOut h s (idle (apIn h s))))) ∧
      ((s.ctx k x).trapped = true →
        let base := spad k (bits (s.ctx k x).trapCause.toNat 44 32 * 256)
        (apIn h s).mustWait s.cur.tid (base + 8) 8 = false → (apIn h s).mustWait s.cur.tid (base + 72) 1 = false →
        ∀ t, (apIn h s).returnFromTrap k x (fun s c => s.abandon k x c) = some t → t.cur = s.cur →
          exec (.eret h tctx) s = .next (apOut h s (idle t)))))

/-- R179, R347, R348, Table 07-2: RDSR and WRSR of every special register, and GTCRD. A number that is not assigned, a system register
named by a user context, and a write of a register without a writable field trap as illegal operation. R347, Table 07-2: what the
registers read as: revision, place, shape, allocation, time and flags; and what the writable ones keep of a value written. After a WRSR
the half that wrote reads the new value, and the other half what it read before, until a token, RDV or barrier; of SR_COPYSTAT both read
the new value (log entry 99). -/
def Obligations.SpecialRegisterFormsAndValues : Prop :=
  (∀ (h : ApHdr) (g : XpHdr) (rd ra : BitVec 5) (d a : BitVec 4) (half : Bool) (srn : BitVec 8) (s : State),
    let n := srn.toNat
    let k := s.cur.tid.core
    let x := s.cur.tid.ctx
    let may := srAssigned n && (!srSystem n || x == 4)
    (apGo h s = true →
      (may = false → exec (.rdsr h rd srn) s = .next (s.trapWord h.popm s.cur.pc { code := 1 })) ∧
      (may = true → s.busyA rd = false → exec (.rdsr h rd srn) s = .next (apOut h s
        (((apIn h s).srReadEffect k n).modMe (·.setA rd { v := BitVec.ofNat 64 ((apIn h s).srValue s.cur.tid n) })))) ∧
      (s.busyA rd = false → exec (.gtcrd h rd) s = .next (apSets h s rd { v := BitVec.ofNat 64 s.gtc }))) ∧
    (apGoPlain h s = true →
      ((may && srWritable n) = false → exec (.wrsr h ra srn) s = .next (s.trapWord h.popm s.cur.pc { code := 1 })) ∧
      ((may && srWritable n) = true → canUse s ra = true →
        exec (.wrsr h ra srn) s = .next (apOut h s (((apIn h s).hideSr s.cur.tid n).srWrite k x n (aVal s ra).toNat)))) ∧
    (xpGo g s = true →
      (may = false → exec (.xpRdsr g d half srn) s = .next (s.trapWord g.popm s.cur.pc { code := 1 })) ∧
      (may = true → exec (.xpRdsr g d half srn) s = .next (xpOut g s (((xpIn g s).srReadEffect k n).modMe
        (·.setX d { v := BitVec.ofNat 32 ((xpIn g s).srValue s.cur.tid n / (if half then 2 ^ 32 else 1)) })))) ∧
      ((may && srWritable n) = true → (s.me.xreg a).bad = false →
        exec (.xpWrsr g a srn) s = .next (xpOut g s (((xpIn g s).hideSr s.cur.tid n).srWrite k x n (s.me.xreg a).v.toNat))))) ∧
  (∀ (s : State) (t : Tid) (v : Nat),
    let k := t.core
    let x := t.ctx
    let c := s.ctx k x
    let o : Tid := { t with half := if t.half = .ap then .xp else .ap }
    let w := fun (n : Nat) => (s.hideSr t n).srWrite k x n v
    (∀ n ∈ [0x21, 0x23, 0x30, 0x31, 0x32], (w n).srValue o n = s.srValue o n ∧ (w n).srValue t n = (w n).srNow t n ∧
      ((w n).seeSr o).srValue o n = (w n).srNow t n) ∧
    ((s.half t).srSeen = [] →
    s.srValue t 0x00 = 0x0000000700000100 ∧ s.srValue t 0x01 = k ∧ s.srValue t 0x02 = x ∧
    s.srValue t 0x04 = (c.bind.getD {}).shape ∧ s.srValue t 0x0A = (c.bind.getD {}).inst ∧
    (x ≠ 4 → s.srValue t 0x10 = (match c.bind with | some b => b.nmain | none => 0)) ∧
    s.srValue t 0x28 = s.gtc ∧ s.srValue t 0x18 = c.copyStat.toNat ∧ s.srValue t 0x21 = c.trapArea.toNat ∧
    (x ≠ 4 → s.srValue t 0x20 = c.trapCause.toNat) ∧
    (w 0x18).srValue t 0x18 = v % 2 + v / 2 ^ 12 % 512 * 2 ^ 12 ∧ ((s.half o).srSeen = [] → (w 0x18).srValue o 0x18 = (w 0x18).srValue t 0x18) ∧
    (w 0x21).srValue t 0x21 = v / 2 ^ 8 % 8192 * 2 ^ 8 ∧ (w 0x23).srValue t 0x23 = v / 4 % 65536 * 4 ∧
    (w 0x30).srValue t 0x30 = v % 2 ^ 33 ∧ (w 0x31).srValue t 0x31 = v % 2 ^ 33 ∧ (w 0x32).srValue t 0x32 = v % 2 ^ 32))

/-- R342, R343: XP DONE leaves the XP idle once its units are quiet and its writes have performed, and waits before. AP DONE unbinds the
context once the XP is idle and everything the step started is over: it ends the active ports as SEND does and stops the chains, and waits
until the sinks have drained, the chains and commands are over and every access has performed. A sink whose drain stopped at a fault is
noted for the completion record of its card (where in that record is log entry 120). The system context may not use it. R184, R185: the
store-only literal puts its operation word into template TGT of its half, with its poison cleared, and goes to the next group, as a word
that completes does (R210, R268). It changes nothing else: no register, no other template, nothing of the other half, of another context
or of memory. -/
def Obligations.DoneAndStoreOnlyLiteral : Prop :=
  (∀ (h : ApHdr) (g : XpHdr) (s : State),
    let k := s.cur.tid.core
    let x := s.cur.tid.ctx
    (xpGo g s = true →
      let quiet := s.unitsQuiet k x && !(s.reqs.any fun q => decide (q.tid = s.cur.tid) && q.lacks .core)
      (quiet = true → exec (.xpDone g) s =
        .next (xpOut g s ((xpIn g s).modMe fun c => { c with xp := { c.xp with active := false, rdv := .none } }))) ∧
      (quiet = false → exec (.xpDone g) s = .next ((xpIn g s).noteStall true))) ∧
    (apGoPlain h s = true →
      (x = 4 → exec (.apDone h) s = .next (s.trapWord h.popm s.cur.pc { code := 1 })) ∧
      (x ≠ 4 → (s.me.xp.active = true ∨ s.me.mx.pend.isSome = true) → exec (.apDone h) s = .next ((apIn h s).noteStall true)) ∧
      (x ≠ 4 → s.me.bind ≠ none → s.me.xp.active = false → s.me.mx.pend = none → (∀ n, n < 16 → (s.port k x n).act = false) →
        (∀ n, n < 4 → (s.me.chan n).chain = none) → ((s.core k).cmds.all fun q => q.ctx != x) = true →
        s.before ⟨k, x, .ap⟩ .system true = [] → s.before ⟨k, x, .xp⟩ .system true = [] →
        ∃ t, exec (.apDone h) s = .next (apOut h s t) ∧ (t.ctx k x).bind = none ∧ (t.ctx k x).ap.active = false ∧ t.mem = s.mem) ∧
      (x ≠ 4 → s.me.bind ≠ none → s.me.xp.active = false → s.me.mx.pend = none →
        let u := (apIn h s).endPorts k x
        let v := (List.range 4).foldl (fun s n => s.stopChain k x n) u
        let allOver := v.chainsOver k x && ((s.core k).cmds.all fun q => q.ctx != x) && v.allPerformed k x
        (u.sinksDrained k x = false → exec (.apDone h) s = .next (u.noteStall true)) ∧
        (u.sinksDrained k x = true → allOver = false → exec (.apDone h) s = .next (v.noteStall true)) ∧
        (u.sinksDrained k x = true → allOver = true →
          ∃ t, exec (.apDone h) s = .next (apOut h s t) ∧ t = (v.noteFlt k x).endStep k x ∧ (t.ctx k x).bind = none ∧ (t.ctx k x).ap.active = false)) ∧
      (∀ b n c, s.me.bind = some b → n < 16 → (s.port k x n).act = true → Conf.sink (s.port k x n).cfg = true → (s.port k x n).flt = true →
        c ∈ s.dev.cards → c.id = b.card → c.note = none →
        { c with note := some (b.node, b.inst - c.inst) } ∈ (s.noteFlt k x).dev.cards))) ∧
  (∀ (tgt : BitVec 6) (op : BitVec 128) (s : State),
    let t0 := s.cur.tid
    let n := tgt.toNat
    let u := s.modHalf t0 fun h => { h with tmpl := h.tmpl.set 0 n op, tmplBad := h.tmplBad.set false n false }
    let t := u.advance s.cur.pcn
    let go := match t0.half with
      | .ap => (apLoopBack s.me.apLoops s.cur.pcn).1
      | .xp => (xpLoopBack s.me.xpLoops s.cur.pcn).1
    exec (.templateStoreLiteral tgt op) s = .next t ∧
    (t.half t0).tmpl.get 0 n = op ∧ (t.half t0).tmplBad.get false n = false ∧ (t.half t0).pc = go ∧ (t.half t0).stall = none ∧
    (∀ m, m ≠ n → (t.half t0).tmpl.get 0 m = (s.half t0).tmpl.get 0 m ∧ (t.half t0).tmplBad.get false m = (s.half t0).tmplBad.get false m) ∧
    { t.half t0 with pc := 0, stall := none, tmpl := [], tmplBad := [] } = { s.half t0 with pc := 0, stall := none, tmpl := [], tmplBad := [] } ∧
    { t.me with ap := {}, xp := {}, apLoops := [], xpLoops := [] } = { s.me with ap := {}, xp := {}, apLoops := [], xpLoops := [] } ∧
    t.half { t0 with half := if t0.half = .ap then .xp else .ap } = s.half { t0 with half := if t0.half = .ap then .xp else .ap } ∧
    (match t0.half with | .ap => t.me.xpLoops = s.me.xpLoops | .xp => t.me.apLoops = s.me.apLoops) ∧
    (∀ k x, (k ≠ t0.core ∨ x ≠ t0.ctx) → t.ctx k x = s.ctx k x) ∧
    { t with cores := [] } = { s with cores := [] })

/-! ## The XP: operands (07, 10) -/

/-- R166, R167, R170, R171, R174, R240, R242, R243: a word whose V-class operands are registers that can be used has them, with its lane
mask (all ones for m0), and changes nothing by reading. A main vector past the context's allocation traps as a range fault (its OPND 0 is
log entry 74), a poisoned mask as poison of operand 5. -/
def Obligations.RegisterOperandsAreRead : Prop :=
  ∀ (h : XpHdr) (d : Option Opnd) (srcs : List Opnd) (s : State),
    (∀ o, d = some o → regReady (xpIn h s) o = true) → (∀ o ∈ srcs, regReady (xpIn h s) o = true) →
    ((s.me.mreg h.lmask).bad = false →
      hasOperands h d srcs s (s.me.mreg h.lmask).v (srcs.map (regVal s)) (xpIn h s)) ∧
    ((s.me.mreg h.lmask).bad = true →
      operands h d srcs (xpIn h s) = .error (.trap { code := 8, opnd := 5 })) ∧
    (∀ o, o.lvl = .main → s.me.mains s.cur.tid.ctx ≤ s.me.index o →
      operands h (some o) srcs (xpIn h s) = .error (.trap { code := 9, opnd := 0 }))

/-- R11: a source port gives the element at the head of its ring, pops it, and moves to the next position; the same port named twice in a
word is popped once; past the end of the stream it gives zero and sets E, or traps with trap-on-empty. Restored lines wait for their mask,
and trap where it was poisoned (R142, R160). OPND 1 of these traps is log entry 74. R12: a destination port takes one element of 256
bytes, zero where the word writes nothing: it is stored in the next line of the ring, and the position moves on. A push on a full ring
holds the word, and so does one to a wrapping sink whose mask keeps nothing (R143); past the end it is dropped and sets E. -/
def Obligations.PortsArePoppedAndPushed : Prop :=
  (∀ (h : XpHdr) (a : Opnd) (s : State), a.lvl = .port → (s.me.mreg h.lmask).bad = false →
    let t := xpIn h s
    let k := s.cur.tid.core
    let x := s.cur.tid.ctx
    let n := a.idx.toNat
    let p := s.port k x n
    n < s.me.streamCount x → p.act = true → Conf.sink p.cfg = false →
    (∀ l ls, p.ended = false → p.lines = l :: ls → l.full = true → p.restored = 0 →
      let v : VV := { v := vecOf (s.bytes (spad k (p.lineOf 0)) 256), bad := s.lineBad (spad k (p.lineOf 0)) }
      ∃ u, hasOperands h none [a] s (s.me.mreg h.lmask).v [v] u ∧ hasOperands h none [a, a] s (s.me.mreg h.lmask).v [v, v] u ∧
        (u.port k x n).lines = ls ∧ u.mem = s.mem) ∧
    (∀ l ls, p.ended = false → p.lines = l :: ls → p.restored ≠ 0 →
      operands h none [a] t = .error (if p.blocked then .trap { p.faultTrap n with opnd := 1 } else .hold)) ∧
    (p.ended = true →
      (a.trap = false → ∃ u, hasOperands h none [a] s (s.me.mreg h.lmask).v [{}] u ∧ (u.port k x n).eflag = true) ∧
      (a.trap = true → operands h none [a] t = .error (.trap { code := 4, opnd := 1, port := some (n, p.cpos) }))) ∧
    (p.lines = [] → p.ended = false → p.flt = false → a.trap = false → operands h none [a] t = .error .hold)) ∧
  (∀ (d : Opnd) (w : VW) (s : State), d.lvl = .port →
    let k := s.cur.tid.core
    let x := s.cur.tid.ctx
    let n := d.idx.toNat
    let p := s.port k x n
    n < s.me.streamCount x → p.act = true → Conf.sink p.cfg = true → p.flt = false → p.needsLatch = false →
    (p.ended = false → p.lines.length < Conf.ring p.cfg → Conf.keeps p.cfg p.mask p.cpos = true →
      takes d s ∧
      ((puts d s w).port k x n).lines = p.lines ++ [{ pos := p.cpos, frm := p.next, full := true }] ∧
      (∀ i, i < 256 → (puts d s w).byte (spad k (p.lineOf p.lines.length) + i) =
        (w.v &&& w.mask).extractLsb' (8 * i) 8)) ∧
    (p.ended = false → Conf.ring p.cfg ≤ p.lines.length ∨ Conf.keeps p.cfg p.mask p.cpos = false → putV d w s = .error .hold) ∧
    (p.ended = true → d.trap = false → ∃ t, putV d w s = .ok ((), t) ∧ (t.port k x n).eflag = true ∧ (t.port k x n).lines = p.lines ∧ t.mem = s.mem))

/-- R166, R171, R242, R243: a write of a V-class register replaces the bits of its mask and keeps every other bit; the register becomes
full; a chunk written in full takes the new poison, one written in part keeps its own as well; no other register of the file changes. R33,
R166: the fields of a lane result: bit b of field i of `fields` is bit b of the i-th value, and a lane write covers exactly the active
lanes. -/
def Obligations.RegisterWritesMergeByLanes : Prop :=
  (∀ (d : Opnd) (w : VW) (s : State), d.lvl ≠ .port →
    takes d s ∧
    let t := puts d s w
    let i := s.me.index d
    let old := regVal s d
    let new := regVal t d
    (∀ b, b < 2048 → new.v.getLsbD b = if w.mask.getLsbD b then w.v.getLsbD b else old.v.getLsbD b) ∧
    (∀ j, j < 32 →
      let m := bits w.mask.toNat (64 * j + 63) (64 * j)
      let fresh := (w.bad.getLsbD (2 * j) && m % 2 ^ 32 != 0) || (w.bad.getLsbD (2 * j + 1) && m / 2 ^ 32 != 0)
      new.bad.getLsbD j = if m = 0 then old.bad.getLsbD j else if m = 2 ^ 64 - 1 then fresh else fresh || old.bad.getLsbD j) ∧
    (d.lvl = .main → (t.me.v.get {} i).full = true ∧ (∀ j, j ≠ i → t.me.v.get {} j = s.me.v.get {} j) ∧ t.me.o = s.me.o ∧ t.me.lt = s.me.lt) ∧
    (d.lvl = .file → (∀ j, j ≠ d.idx.toNat → t.me.o.get {} j = s.me.o.get {} j) ∧ t.me.v = s.me.v ∧ t.me.lt = s.me.lt) ∧
    (d.lvl = .latch → (∀ j, j ≠ d.idx.toNat → t.me.lt.get {} j = s.me.lt.get {} j) ∧ t.me.v = s.me.v ∧ t.me.o = s.me.o) ∧
    t.mem = s.mem ∧ t.me.x = s.me.x ∧ t.me.m = s.me.m ∧ t.me.a = s.me.a ∧ t.me.ports = s.me.ports) ∧
  ((∀ (w n i b : Nat) (f : Nat → Nat), i < n → b < w → (fields w n f).testBit (w * i + b) = (f i).testBit b) ∧
  (∀ (act : BitVec 64) (f : Nat → Nat) (i b : Nat), i < 64 → b < 32 →
    (laneWrite act f).mask.getLsbD (32 * i + b) = act.getLsbD i ∧
    (act.getLsbD i = true → (laneWrite act f).v.getLsbD (32 * i + b) = (f i).testBit b)) ∧
  (∀ (act : BitVec 64) (f : Nat → Nat × Bool) (i : Nat), i < 64 → act.getLsbD i = true →
    (moveWrite act f).bad.getLsbD i = (f i).2))

/-! ## The XP: element-wise forms (10) -/

/-- R242, R245, R248 and R33: the integer element forms and the dot products write, in every active lane, the result of Tables 10-1 and
10-3 for each element of the lane, kept modulo 2^w; R243: each of these with a poisoned active lane takes a Poison trap instead, which
names its operand and lane. -/
def Obligations.VectorIntegerForms : Prop :=
  ∀ (h : XpHdr) (d a b c : Opnd) (ty : Fmt) (s t : State) (act : BitVec 64) (va vb vc : VV), xpGo h s = true → takes d t →
    let w := ty.bits
    let E := fun (vs : List VV) (f : List Nat → Nat) =>
      xpPuts h s t d (laneWrite act fun i => byElem w f (vs.map fun x => x.lane i))
    let E2 := fun (f : Nat → Nat → Nat) => E [va, vb] (on2 f)
    let clampS := fun (x : Int) => wrap w (max (-(2 ^ (w - 1) : Nat)) (min ((2 ^ (w - 1) : Nat) - 1) x))
    let clampN := fun (x : Int) => wrap w (max 0 (min ((2 ^ w : Nat) - 1) x))
    let D := fun (rd : Nat → Nat → Int) (r : Int → Int) => xpPuts h s t d (laneWrite act fun i =>
      let x := va.lane i
      let y := vb.lane i
      wrap 32 (r (rd 32 (vc.lane i) + rd 8 (bits x 7 0) * rd 8 (bits y 7 0) + rd 8 (bits x 15 8) * rd 8 (bits y 15 8)
        + rd 8 (bits x 23 16) * rd 8 (bits y 23 16) + rd 8 (bits x 31 24) * rd 8 (bits y 31 24))))
    let nat := fun (_ v : Nat) => (v : Int)
    let P := fun (vs : List VV) (is : List Instr) => ∃ i : TrapInfo, poisonOf act vs i ∧
      ∀ j ∈ is, exec j s = .next (s.trapWord h.popm s.cur.pc i)
    (hasOperands h (some d) [a, b] s act [va, vb] t →
      (clean act [va, vb] = true →
        exec (.vadd h d a b ty) s = E2 (fun x y => x + y) ∧
        exec (.vsub h d a b ty) s = E2 (fun x y => wrap w ((x : Int) - y)) ∧
        exec (.vmul h d a b ty) s = E2 (fun x y => x * y) ∧
        exec (.vmulh h d a b ty) s = E2 (fun x y => wrap w (sgn w x * sgn w y / (2 ^ w : Nat))) ∧
        exec (.vmulhn h d a b ty) s = E2 (fun x y => x * y / 2 ^ w) ∧
        exec (.vadds h d a b ty) s = E2 (fun x y => clampS (sgn w x + sgn w y)) ∧
        exec (.vsubs h d a b ty) s = E2 (fun x y => clampS (sgn w x - sgn w y)) ∧
        exec (.vaddsn h d a b ty) s = E2 (fun x y => clampN (x + y)) ∧
        exec (.vsubsn h d a b ty) s = E2 (fun x y => clampN ((x : Int) - y)) ∧
        exec (.vand h d a b ty) s = E2 (fun x y => x &&& y) ∧
        exec (.vor h d a b ty) s = E2 (fun x y => x ||| y) ∧
        exec (.vxor h d a b ty) s = E2 (fun x y => x ^^^ y) ∧
        exec (.vandn h d a b ty) s = E2 (fun x y => x &&& (y ^^^ (2 ^ w - 1))) ∧
        exec (.vshl h d a b ty) s = E2 (fun x y => x <<< (y % w)) ∧
        exec (.vshr h d a b ty) s = E2 (fun x y => x >>> (y % w)) ∧
        exec (.vsar h d a b ty) s = E2 (fun x y => wrap w (sgn w x >>> (y % w))) ∧
        exec (.vmin h d a b ty) s = E2 (fun x y => if sgn w x ≤ sgn w y then x else y) ∧
        exec (.vmax h d a b ty) s = E2 (fun x y => if sgn w x ≤ sgn w y then y else x) ∧
        exec (.vminn h d a b ty) s = E2 (fun x y => if x ≤ y then x else y) ∧
        exec (.vmaxn h d a b ty) s = E2 (fun x y => if x ≤ y then y else x)) ∧
      (clean act [va, vb] = false → P [va, vb] [.vadd h d a b ty, .vsub h d a b ty, .vmul h d a b ty, .vmulh h d a b ty,
        .vmulhn h d a b ty, .vadds h d a b ty, .vsubs h d a b ty, .vaddsn h d a b ty, .vsubsn h d a b ty, .vand h d a b ty,
        .vor h d a b ty, .vxor h d a b ty, .vandn h d a b ty, .vshl h d a b ty, .vshr h d a b ty, .vsar h d a b ty,
        .vmin h d a b ty, .vmax h d a b ty, .vminn h d a b ty, .vmaxn h d a b ty])) ∧
    (hasOperands h (some d) [a] s act [va] t → clean act [va] = false →
      P [va] [.vabs h d a ty, .vclz h d a ty, .vpopc h d a ty]) ∧
    (hasOperands h (some d) [a, b, c] s act [va, vb, vc] t → clean act [va, vb, vc] = false →
      P [va, vb, vc] [.vmad h d a b c ty, .vdot4 h d a b c, .vdot4n h d a b c, .vdot4s h d a b c, .vdot4sn h d a b c]) ∧
    (hasOperands h (some d) [a] s act [va] t → clean act [va] = true →
      exec (.vabs h d a ty) s = E [va] (on1 fun x => (sgn w x).natAbs) ∧
      exec (.vclz h d a ty) s = E [va] (on1 fun x => ((List.range w).takeWhile fun i => !x.testBit (w - 1 - i)).length) ∧
      exec (.vpopc h d a ty) s = E [va] (on1 fun x => (List.range w).countP fun i => x.testBit i)) ∧
    (hasOperands h (some d) [a, b, c] s act [va, vb, vc] t → clean act [va, vb, vc] = true →
      exec (.vmad h d a b c ty) s = E [va, vb, vc] (on3 fun x y z => x * y + z) ∧
      exec (.vdot4 h d a b c) s = D sgn id ∧ exec (.vdot4n h d a b c) s = D nat id ∧
      exec (.vdot4s h d a b c) s = D sgn (fun x => max (-2 ^ 31) (min (2 ^ 31 - 1) x)) ∧
      exec (.vdot4sn h d a b c) s = D nat (fun x => max 0 (min (2 ^ 32 - 1) x)))

/-- R249, R251, R252, R253, with R13 and R39: the FP32 forms write in every active lane the exact result of the operation, rounded once as
their suffix says; the fraction exponential writes a code that depends on the lane alone, the canonical NaN for a NaN, an infinity or a
magnitude above a half, 1.0 for a zero (for the rest see TheFractionExponentialIsRoundedOnce). R243: each with a poisoned active lane
takes a Poison trap instead. -/
def Obligations.VectorFloatForms : Prop :=
  ∀ (h : XpHdr) (d a b c : Opnd) (s t : State) (act : BitVec 64) (va vb vc : VV), xpGo h s = true → takes d t →
    let F := fun (f : Nat → Nat) => xpPuts h s t d (laneWrite act f)
    let v := fun (x : VV) (i : Nat) => floatVal f32F (x.lane i)
    let code := fun (r : Rnd) (x : Machine.Num) => floatCode f32F r x
    let sum := fun (r : Rnd) => F fun i => code r (Machine.Num.add (decide (r = .dn)) (v va i) (v vb i))
    let diff := fun (r : Rnd) => F fun i => code r (Machine.Num.add (decide (r = .dn)) (v va i) (v vb i).neg)
    let prod := fun (r : Rnd) => F fun i => code r ((v va i).mul (v vb i))
    let fused := fun (r : Rnd) => F fun i => code r (Machine.Num.add (decide (r = .dn)) ((v va i).mul (v vb i)) (v vc i))
    let scaled := fun (x : Machine.Num) (n : Int) => match x with
      | .fin g m e => Machine.Num.fin g m (e + n)
      | y => y
    let integral := fun (r : Rnd) (x : Machine.Num) => match x with
      | .fin g m e =>
        let (p, q) := powRatio e
        Machine.Num.fin g (roundNat r g (m * p) q) 0
      | y => y
    let P := fun (vs : List VV) (is : List Instr) => ∃ i : TrapInfo, poisonOf act vs i ∧
      ∀ j ∈ is, exec j s = .next (s.trapWord h.popm s.cur.pc i)
    (hasOperands h (some d) [a, b] s act [va, vb] t → clean act [va, vb] = true →
      exec (.vfadd h d a b) s = sum .ne ∧ exec (.vfaddzr h d a b) s = sum .tz ∧
      exec (.vfaddfl h d a b) s = sum .dn ∧ exec (.vfaddcl h d a b) s = sum .up ∧
      exec (.vfsub h d a b) s = diff .ne ∧ exec (.vfsubzr h d a b) s = diff .tz ∧
      exec (.vfsubfl h d a b) s = diff .dn ∧ exec (.vfsubcl h d a b) s = diff .up ∧
      exec (.vfmul h d a b) s = prod .ne ∧ exec (.vfmulzr h d a b) s = prod .tz ∧
      exec (.vfmulfl h d a b) s = prod .dn ∧ exec (.vfmulcl h d a b) s = prod .up ∧
      exec (.vfdiv h d a b) s = F (fun i => divCode f32F .ne (v va i) (v vb i)) ∧
      exec (.vfdivzr h d a b) s = F (fun i => divCode f32F .tz (v va i) (v vb i)) ∧
      exec (.vfmin h d a b) s = F (fun i => code .ne ((v va i).min (v vb i))) ∧
      exec (.vfmax h d a b) s = F (fun i => code .ne ((v va i).max (v vb i))) ∧
      exec (.vfscale h d a b) s = F (fun i => code .ne (scaled (v va i) (max (-600) (min 600 (sgn 32 (vb.lane i))))))) ∧
    (hasOperands h (some d) [a, b, c] s act [va, vb, vc] t → clean act [va, vb, vc] = true →
      exec (.vfma h d a b c) s = fused .ne ∧ exec (.vfmazr h d a b c) s = fused .tz ∧
      exec (.vfmafl h d a b c) s = fused .dn ∧ exec (.vfmacl h d a b c) s = fused .up) ∧
    (hasOperands h (some d) [a] s act [va] t → clean act [va] = true →
      exec (.vfsqrt h d a) s = F (fun i => sqrtCode f32F .ne (v va i)) ∧
      (∃ f : Nat → Nat, exec (.vfexp h d a) s = F (fun i => f (va.lane i)) ∧ f 0 = 0x3F800000 ∧ f 0x80000000 = 0x3F800000 ∧
        ∀ c g m e, (floatVal f32F c = .fin g m e → 1 < 2 * (m : ℚ) * 2 ^ e → f c = 0x7FC00000) ∧
          ((∀ g m e, floatVal f32F c ≠ .fin g m e) → f c = 0x7FC00000)) ∧
      exec (.vfrint h d a) s = F (fun i => code .ne (integral .ne (v va i))) ∧
      exec (.vfrintfl h d a) s = F (fun i => code .dn (integral .dn (v va i)))) ∧
    (hasOperands h (some d) [a, b] s act [va, vb] t → clean act [va, vb] = false →
      P [va, vb] [.vfadd h d a b, .vfaddzr h d a b, .vfaddfl h d a b, .vfaddcl h d a b, .vfsub h d a b, .vfsubzr h d a b, .vfsubfl h d a b,
        .vfsubcl h d a b, .vfmul h d a b, .vfmulzr h d a b, .vfmulfl h d a b, .vfmulcl h d a b, .vfdiv h d a b, .vfdivzr h d a b,
        .vfmin h d a b, .vfmax h d a b, .vfscale h d a b]) ∧
    (hasOperands h (some d) [a, b, c] s act [va, vb, vc] t → clean act [va, vb, vc] = false →
      P [va, vb, vc] [.vfma h d a b c, .vfmazr h d a b c, .vfmafl h d a b c, .vfmacl h d a b c]) ∧
    (hasOperands h (some d) [a] s act [va] t → clean act [va] = false →
      P [va] [.vfsqrt h d a, .vfexp h d a, .vfrint h d a, .vfrintfl h d a])

/-- R251: on its domain the fraction exponential is 2^a, rounded to the nearest FP32 value: its error is half a unit in the last place of
the result, which lies between a half and two (a relative 2^-60 is left for a value that no precision tried can decide). -/
def Obligations.TheFractionExponentialIsRoundedOnce : Prop :=
  ∀ (c : Nat) (g : Bool) (m : Nat) (e : Int), floatVal f32F c = .fin g m e → 2 * (m : ℝ) * (2 : ℝ) ^ e ≤ 1 →
    ∃ M E, floatVal f32F (fexp c) = .fin false M E ∧
      let r : ℝ := (M : ℝ) * (2 : ℝ) ^ E
      let a : ℝ := (if g then -1 else 1) * ((m : ℝ) * (2 : ℝ) ^ e)
      (1 / 2 ≤ r ∧ r ≤ 2) ∧
      |r - (2 : ℝ) ^ a| ≤ (if 1 ≤ r then 2 ^ (-24 : ℤ) else 2 ^ (-25 : ℤ)) * (1 + (2 : ℝ) ^ (-60 : ℤ))

/-- R254, R255, R256, R257, R258 with Table 02-4: a conversion writes element k of its part where the lane that holds the wider of both
elements is active, and nothing else; an integer that the wider integer format cannot hold keeps its low bits (log entry 20). Of each form
the pairs of formats are those that R254 and R256 allow, and no other pair is a well-formed instruction. VQBLK writes eight whole FP4
blocks and zero past their scales, VDQBLK the blocks' values. -/
def Obligations.VectorConversionForms : Prop :=
  ∀ (h : XpHdr) (d a : Opnd) (ty ty2 : Fmt) (part : BitVec 3) (s t : State) (act : BitVec 64) (va : VV), xpGo h s = true → takes d t →
    hasOperands h (some d) [a] s act [va] t →
    let ws := ty2.bits
    let wd := ty.bits
    let W := max ws wd
    let n := 2048 / W
    let from_ := fun (k : Nat) => ws * (if ws < wd then part.toNat * n + k else k)
    let at_ := fun (k : Nat) => wd * (if wd < ws then part.toNat * n + k else k)
    let on := fun (k : Nat) => k < n ∧ act.getLsbD (k * W / 32) = true
    let code := fun (k : Nat) => bits va.v.toNat (from_ k + ws - 1) (from_ k)
    let isInt := fun (f : Fmt) => (floatFmt f).isNone
    let int := fun (c : Nat) => if intSigned ty2 then sgn ws c else (c : Int)
    let C := fun (f : Nat → Nat) (r : Out) => ∃ w : VW, r = xpPuts h s t d w ∧ w.bad = 0 ∧
      (∀ k, on k → ∀ b < wd, w.mask.getLsbD (at_ k + b) = true ∧ w.v.getLsbD (at_ k + b) = (f (code k)).testBit b) ∧
      (∀ j < 2048, (∀ k, on k → j < at_ k ∨ at_ k + wd ≤ j) → w.mask.getLsbD j = false)
    let V := fun (r : Rnd) (c : Nat) => if isInt ty && isInt ty2 then wrap wd (int c) else fmtCode ty r (fmtVal ty2 c)
    let pair := fun (nearest : Bool) => ty ≠ ty2 ∧ (isInt ty = true → isInt ty2 = true → nearest = true ∧ ws ≤ wd)
    let narrows := isInt ty = true ∧ isInt ty2 = true ∧ wd < ws
    (∀ n : Bool, pair n → part.toNat < W / min ws wd → (∀ k, on k → va.bad.getLsbD (from_ k / 64) = false) →
      (n = true → C (V .ne) (exec (.vcvt h d a ty ty2 part) s)) ∧
      (n = false → C (V .tz) (exec (.vcvtzr h d a ty ty2 part) s) ∧
        C (V .dn) (exec (.vcvtfl h d a ty ty2 part) s) ∧ C (V .up) (exec (.vcvtcl h d a ty ty2 part) s))) ∧
    (narrows → part.toNat < W / min ws wd → (∀ k, on k → va.bad.getLsbD (from_ k / 64) = false) →
      C (fun c => wrap wd (if intSigned ty then satS wd (int c) else satN wd (int c))) (exec (.vnars h d a ty ty2 part) s) ∧
      C id (exec (.vnarw h d a ty ty2 part) s)) ∧
    (((Instr.vcvt h d a ty ty2 part).wf = true → pair true) ∧
      (∀ i ∈ [Instr.vcvtzr h d a ty ty2 part, .vcvtfl h d a ty ty2 part, .vcvtcl h d a ty ty2 part], i.wf = true → pair false) ∧
      ∀ i ∈ [Instr.vnars h d a ty ty2 part, .vnarw h d a ty ty2 part], i.wf = true → narrows) ∧
    (clean act [va] = true →
      ∃ w : VW, exec (.vqblk h d a) s = xpPuts h s t d w ∧ w.mask = BitVec.allOnes 2048 ∧ w.bad = 0 ∧
        ∀ k < 8,
          let q := quantise ((List.range 8).map fun i =>
            if act.getLsbD (8 * k + i) then floatVal f32F (va.lane (8 * k + i)) else .fin false 0 0)
          bits w.v.toNat (256 + 12 * k + 11) (256 + 12 * k) = q.1 ∧ bits w.v.toNat 2047 352 = 0 ∧
          ∀ i < 8, bits w.v.toNat (32 * k + 4 * i + 3) (32 * k + 4 * i) = q.2.getD i 0) ∧
    ((∀ i < 64, act.getLsbD i = true →
        va.bad.getLsbD (4 * i / 64) = false ∧ va.bad.getLsbD ((256 + 12 * (i / 8)) / 64) = false ∧ va.bad.getLsbD ((267 + 12 * (i / 8)) / 64) = false) →
      exec (.vdqblk h d a) s = xpPuts h s t d (laneWrite act fun i => floatCode f32F .ne
        (blockVal (bits va.v.toNat (256 + 12 * (i / 8) + 11) (256 + 12 * (i / 8))) (bits va.v.toNat (4 * i + 3) (4 * i)))))

/-- R264, R247, R263, R243, R249: the moves: each active lane takes the lane that the form names, with the poison of the chunk it stands
in; a lane past the sources is zero. VFABS and VFNEG change the sign bit only. A poisoned selector or index lane traps. R246, R250, R265:
the compares write bit i of a lane mask where lane i is active and the condition holds (with a NaN only "not equal" does), and zero
elsewhere; the mask forms compute on whole registers. A write of m0 is discarded (`Ctx.setM`). -/
def Obligations.LaneMoveAndMaskForms : Prop :=
  (∀ (h : XpHdr) (d a b : Opnd) (m : BitVec 3) (x y : BitVec 4) (lane : BitVec 6) (half : Bool) (s t : State) (act : BitVec 64) (va vb : VV),
    xpGo h s = true → takes d t →
    let l := lane.toNat
    let hf := if half then 1 else 0
    let M := fun (f : Nat → Nat × Bool) => xpPuts h s t d (moveWrite act f)
    let A := fun (i : Nat) => (va.lane i, va.bad.getLsbD (i / 2))
    let B := fun (i : Nat) => (vb.lane i, vb.bad.getLsbD (i / 2))
    let AB := fun (i : Nat) => if i < 64 then A i else B (i - 64)
    let rank := fun (i : Nat) => ((List.range i).filter fun j => act.getLsbD j).length
    (hasOperands h (some d) [a] s act [va] t →
      exec (.vmov h d a) s = M A ∧ exec (.vbcast h d a lane) s = M (fun _ => A l) ∧
      exec (.vrotl h d a lane) s = M (fun i => A ((i + l) % 64)) ∧
      exec (.vfabs h d a) s = M (fun i => ((A i).1 % 2 ^ 31, (A i).2)) ∧
      exec (.vfneg h d a) s = M (fun i => ((A i).1 ^^^ 2 ^ 31, (A i).2)) ∧
      exec (.vexpnd h d a) s = M (fun i => A (rank i)) ∧
      exec (.vcmprs h d a) s = xpPuts h s t d (moveWrite (BitVec.allOnes 64) fun i =>
        match ((List.range 64).filter fun j => act.getLsbD j)[i]? with
        | some j => A j
        | none => (0, false))) ∧
    (hasOperands h (some d) [a, b] s act [va, vb] t →
      exec (.vslide h d a b lane) s = M (fun i => AB (i + l)) ∧
      exec (.vzip h d a b half) s = M (fun i => if i % 2 = 0 then A (32 * hf + i / 2) else B (32 * hf + i / 2)) ∧
      exec (.vunzip h d a b half) s = M (fun i => AB (2 * i + hf)) ∧
      (clean act [vb] = true → exec (.vperm h d a b) s = M (fun i => if vb.lane i < 64 then A (vb.lane i) else (0, false))) ∧
      (clean act [vb] = false → ∃ i : TrapInfo, i.code = 8 ∧ i.opnd = 2 ∧ exec (.vperm h d a b) s = .next (s.trapWord h.popm s.cur.pc i)) ∧
      ((s.me.mreg m).bad = false → exec (.vsel h d a b m) s = M (fun i => if (s.me.mreg m).v.getLsbD i then A i else B i)) ∧
      ((s.me.mreg m).bad = true → exec (.vsel h d a b m) s = .next (s.trapWord h.popm s.cur.pc { code := 8, opnd := 3 }))) ∧
    (hasOperands h (some d) [] s act [] t →
      exec (.vsplat h d x) s = M (fun _ => ((s.me.xreg x).v.toNat, (s.me.xreg x).bad))) ∧
    (hasOperands h none [a] s act [va] t →
      exec (.xlane h y a lane) s = .next (xpOut h s (t.modMe (·.setX y { v := BitVec.ofNat 32 (va.lane l), bad := va.bad.getLsbD (l / 2) }))))) ∧
  (∀ (h : XpHdr) (d m n : BitVec 3) (x y : BitVec 4) (a b : Opnd) (half : Bool) (s t : State) (act : BitVec 64) (va vb : VV), xpGo h s = true →
    let T := fun (f : Nat → Nat → Bool) (r : Out) => ∃ v : BitVec 64, r = xpSetsM h s t d v ∧
      ∀ i < 64, v.getLsbD i = (act.getLsbD i && f (va.lane i) (vb.lane i))
    let i32 := fun (p : Int → Int → Bool) (u v : Nat) => p (sgn 32 u) (sgn 32 v)
    let fp := fun (p : Machine.Num → Machine.Num → Bool) (u v : Nat) => p (floatVal f32F u) (floatVal f32F v)
    let u := xpIn h s
    let p := (s.me.mreg m).v
    let q := (s.me.mreg n).v
    (hasOperands h none [a, b] s act [va, vb] t → clean act [va, vb] = true →
      T (i32 fun u v => u == v) (exec (.vcmp h d a b .eq) s) ∧ T (i32 fun u v => u != v) (exec (.vcmp h d a b .ne) s) ∧
      T (i32 fun u v => decide (u < v)) (exec (.vcmp h d a b .lt) s) ∧ T (i32 fun u v => decide (u ≤ v)) (exec (.vcmp h d a b .le) s) ∧
      T (i32 fun u v => decide (v < u)) (exec (.vcmp h d a b .gt) s) ∧ T (i32 fun u v => decide (v ≤ u)) (exec (.vcmp h d a b .ge) s) ∧
      T (fun u v => u == v) (exec (.vcmpn h d a b .eq) s) ∧ T (fun u v => u != v) (exec (.vcmpn h d a b .ne) s) ∧
      T (fun u v => decide (u < v)) (exec (.vcmpn h d a b .lt) s) ∧ T (fun u v => decide (u ≤ v)) (exec (.vcmpn h d a b .le) s) ∧
      T (fun u v => decide (v < u)) (exec (.vcmpn h d a b .gt) s) ∧ T (fun u v => decide (v ≤ u)) (exec (.vcmpn h d a b .ge) s) ∧
      T (fp fun u v => u.eq v) (exec (.vfcmp h d a b .eq) s) ∧ T (fp fun u v => !u.eq v) (exec (.vfcmp h d a b .ne) s) ∧
      T (fp fun u v => u.lt v) (exec (.vfcmp h d a b .lt) s) ∧ T (fp fun u v => u.lt v || u.eq v) (exec (.vfcmp h d a b .le) s) ∧
      T (fp fun u v => v.lt u) (exec (.vfcmp h d a b .gt) s) ∧ T (fp fun u v => v.lt u || u.eq v) (exec (.vfcmp h d a b .ge) s)) ∧
    ((s.me.mreg m).bad = false →
      exec (.mnot h d m) s = xpSetsM h s u d (~~~p) ∧
      exec (.mpopc h x m) s = xpSetsX h s u x ((List.range 64).countP fun i => p.getLsbD i) ∧
      exec (.mgetx h x m half) s = xpSetsX h s u x (p.extractLsb' (if half then 32 else 0) 32).toNat ∧
      ((s.me.mreg n).bad = false →
        exec (.mand h d m n) s = xpSetsM h s u d (p &&& q) ∧ exec (.mor h d m n) s = xpSetsM h s u d (p ||| q) ∧
        exec (.mxor h d m n) s = xpSetsM h s u d (p ^^^ q))) ∧
    ((s.me.xreg x).bad = false → (s.me.xreg y).bad = false →
      exec (.msetx h d x y) s = xpSetsM h s u d ((s.me.xreg y).v ++ (s.me.xreg x).v)) ∧
    ((s.me.mreg m).bad = true → exec (.mnot h d m) s = .next (s.trapWord h.popm s.cur.pc { code := 8, opnd := 1 })))

/-! ## The XP: reductions, scalars, loops, memory (10) -/

/-- R56, R57, R259: the reductions of the active lanes into an x register: FP32 along the tree of R56, integers exact over the elements of
the active lanes and then wrapped, saturated, or compared. With no active lane the result is the identity. R260, R261, R262: VSCAN adds to
x[b] the active lanes below (and its own, when inclusive), VBPFX the one bits of the lanes below; VISECT gives the ranks of the common
elements of one word, then all ones. -/
def Obligations.ReductionAndScanForms : Prop :=
  (∀ (h : XpHdr) (d : BitVec 4) (a : Opnd) (ty : Fmt) (s t : State) (act : BitVec 64) (va : VV), xpGo h s = true →
    hasOperands h none [a] s act [va] t → clean act [va] = true →
    let w := ty.bits
    let xs : List Int := (List.range 64).flatMap fun i => if act.getLsbD i then
      (List.range (32 / w)).map fun e =>
        let c := bits (va.lane i) (w * e + w - 1) (w * e)
        if intSigned ty then sgn w c else (c : Int)
      else []
    let total := xs.foldl (· + ·) 0
    let lo : Int := if intSigned ty then -(2 ^ (w - 1) : Nat) else 0
    let hi : Int := if intSigned ty then (2 ^ (w - 1) : Nat) - 1 else (2 ^ w : Nat) - 1
    let X := fun (x : Int) => xpSetsX h s t d (wrap 32 x)
    let R := fun (op : Nat → Nat → Nat) (identity : Nat) (r : Out) => ∃ node : Nat → Nat → Option Nat,
      (∀ i < 64, node 0 i = if act.getLsbD i then some (va.lane i) else none) ∧
      (∀ l i, l < 6 → i < 2 ^ (5 - l) → node (l + 1) i = match node l (2 * i), node l (2 * i + 1) with
        | some x, some y => some (op x y)
        | some x, none => some x
        | none, y => y) ∧
      r = xpSetsX h s t d ((node 6 0).getD identity)
    let fp := fun (f : Machine.Num → Machine.Num → Machine.Num) (x y : Nat) => floatCode f32F .ne (f (floatVal f32F x) (floatVal f32F y))
    R (fp (Machine.Num.add false)) 0 (exec (.vredf h d a) s) ∧
    R (fp Machine.Num.max) 0xFF800000 (exec (.vredfmax h d a) s) ∧ R (fp Machine.Num.min) 0x7F800000 (exec (.vredfmin h d a) s) ∧
    exec (.vred h d a ty) s = X total ∧
    exec (.vreds h d a ty) s = X (if intSigned ty then max (-2 ^ 31) (min (2 ^ 31 - 1) total) else max 0 (min (2 ^ 32 - 1) total)) ∧
    exec (.vredmax h d a ty) s = X (xs.foldl max lo) ∧ exec (.vredmin h d a ty) s = X (xs.foldl min hi)) ∧
  (∀ (h : XpHdr) (d a b c : Opnd) (x : BitVec 4) (ty : Fmt) (exc half : Bool) (s t : State) (act : BitVec 64) (va vb vc : VV),
    xpGo h s = true → takes d t → (s.me.xreg x).bad = false →
    let base := (s.me.xreg x).v.toNat
    let W := fun (f : Nat → Nat) => xpPuts h s t d (laneWrite act f)
    let ones := fun (n v : Nat) => (List.range n).countP fun j => v.testBit j
    (hasOperands h (some d) [a] s act [va] t →
      (clean act [va] = true → exec (.vscan h d a x ty exc) s = W fun i =>
        base + ((List.range (if exc then i else i + 1)).map fun j => if j = i ∨ act.getLsbD j then va.lane j else 0).sum) ∧
      ((∀ i j, i < 64 → act.getLsbD i = true → j < i → va.bad.getLsbD (j / 2) = false) →
        exec (.vbpfx h d a x) s = W fun i => base + ((List.range i).map fun j => ones 32 (va.lane j)).sum)) ∧
    (hasOperands h (some d) [a, b, c] s act [va, vb, vc] t →
      let w := base % 64
      va.bad.getLsbD (w / 2) = false → vb.bad.getLsbD (w / 2) = false → vc.bad.getLsbD (w / 2) = false →
      let common := (List.range 32).filter fun q => (va.lane w).testBit q && (vb.lane w).testBit q
      let ranked := if half then vb.lane w else va.lane w
      exec (.visect h d a b c half x) s = W fun i => match common[i]? with
        | some q => (vc.lane w + ones q ranked) % 2 ^ 32
        | none => 2 ^ 32 - 1))

/-- R266: the scalar forms write the result of Table 10-8 to an x register, modulo 2^32; a poisoned source traps. R267, R268, R269: XLOOP
pushes an entry with its ranges, or skips a body that runs zero times; a bad end, a header that is no data literal or breaks its layout,
and a full loop stack trap, a poisoned header as Poison before all else (R424). The body starts at pc + 4, or at pc + 24 behind a header;
that the header is the literal after the group is log entry 21. The branches go to a multiple of 4, and XBEND leaves the innermost loop.
That a branch to a target that is no multiple of 4 traps whatever its condition says is the model's choice (log entry 72). -/
def Obligations.XpScalarLoopAndBranchForms : Prop :=
  (∀ (h : XpHdr) (d a : BitVec 4) (b : XOp2) (imm : BitVec 32) (s : State), xpGo h s = true →
    let u := xpIn h s
    let x := (s.me.xreg a).v.toNat
    let y := xOp2Val s b
    let R := fun (v : Nat) => xpSetsX h s u d v
    exec (.xmovi h d imm) s = R imm.toNat ∧
    ((s.me.xreg a).bad = true → exec (.xadd h d a b) s = .next (s.trapWord h.popm s.cur.pc { code := 8, opnd := 1 })) ∧
    ((s.me.xreg a).bad = false → canUseX s b = true →
      exec (.xadd h d a b) s = R (x + y) ∧ exec (.xsub h d a b) s = R (x + 2 ^ 32 - y) ∧ exec (.xmul h d a b) s = R (x * y) ∧
      exec (.xand h d a b) s = R (x &&& y) ∧ exec (.xior h d a b) s = R (x ||| y) ∧ exec (.xxor h d a b) s = R (x ^^^ y) ∧
      exec (.xshl h d a b) s = R (x <<< (y % 32)) ∧ exec (.xshr h d a b) s = R (x >>> (y % 32)))) ∧
  (∀ (h : XpHdr) (xc nr : BitVec 4) (limm : BitVec 16) (fin : BitVec 18) (imm : BitVec 32) (t : BrTest) (s : State), xpGo h s = true →
    let u := xpIn h s
    let I : Out := .next (s.trapWord h.popm s.cur.pc { code := 1 })
    let e := s.cur.pc + fin.toNat
    let rel := (BitVec.ofNat 64 s.cur.pc + imm.signExtend 64).toNat
    let L := fun (n : Nat) (r : Out) =>
      let bs := s.cur.pc + 4 + (if nr = 0 then 0 else 20)
      let poisoned := nr ≠ 0 ∧ ((List.range 5).any fun i => (s.core s.cur.tid.core).imemBad.get false (s.cur.pcn / 4 + i)) = true
      (poisoned → r = .next (s.trapWord h.popm s.cur.pc { code := 8, addr := s.cur.pc, noOp := true })) ∧
      (¬ poisoned →
      ((8 < nr.toNat ∨ e % 4 ≠ 0 ∨ e ≤ bs) → r = I) ∧
      (nr = 0 → e % 4 = 0 → bs < e →
        (4 ≤ s.me.xpLoops.length → r = I) ∧
        (s.me.xpLoops.length < 4 → n = 0 → r = .next (xpOut h s u (some e))) ∧
        (s.me.xpLoops.length < 4 → n ≠ 0 →
          r = .next (xpOut h s (u.modMe fun c => { c with xpLoops := ⟨bs, e, n, 0, []⟩ :: c.xpLoops }) (some bs)))) ∧
      (nr ≠ 0 → nr.toNat ≤ 8 → e % 4 = 0 → bs < e →
        (s.core s.cur.tid.core).dataLiteral s.cur.pcn = none → r = I) ∧
      (∀ hdr, nr ≠ 0 → nr.toNat ≤ 8 → e % 4 = 0 → bs < e → (s.core s.cur.tid.core).dataLiteral s.cur.pcn = some hdr →
        let kept := ∀ r < 8, if r < nr.toNat then
            bits hdr (16 * r + 7) (16 * r + 7) = 0 ∧ bits hdr (16 * r + 15) (16 * r + 15) = 0 ∧
              bits hdr (16 * r + 6) (16 * r) + (bits hdr (16 * r + 14) (16 * r + 8) + 1) ≤ 128
          else bits hdr (16 * r + 15) (16 * r) = 0
        (¬ kept → r = I) ∧ (kept → 4 ≤ s.me.xpLoops.length → r = I) ∧
        (kept → s.me.xpLoops.length < 4 → n = 0 → r = .next (xpOut h s u (some e))) ∧
        (kept → s.me.xpLoops.length < 4 → n ≠ 0 →
          r = .next (xpOut h s (u.modMe fun c => { c with xpLoops := ⟨bs, e, n, 0,
            (List.range nr.toNat).map fun i => (bits hdr (16 * i + 6) (16 * i), bits hdr (16 * i + 14) (16 * i + 8) + 1)⟩ :: c.xpLoops }) (some bs)))))
    let val := fun (x : BitVec 4) => (s.me.xreg x).v
    let ended := fun (n : BitVec 4) => (s.me.port n.toNat).eflag
    let usable := match t with
      | .zero x => !(s.me.xreg x).bad
      | .nz x => !(s.me.xreg x).bad
      | .neg x => !(s.me.xreg x).bad
      | .nneg x => !(s.me.xreg x).bad
      | .ended n => decide (n.toNat < s.me.streamCount s.cur.tid.ctx)
      | .nend n => decide (n.toNat < s.me.streamCount s.cur.tid.ctx)
      | .always => true
    let holds := match t with
      | .zero x => val x == 0
      | .nz x => val x != 0
      | .neg x => (val x).msb
      | .nneg x => !(val x).msb
      | .ended n => ended n
      | .nend n => !ended n
      | .always => true
    L limm.toNat (exec (.xloopImmediate h nr limm fin) s) ∧
    ((s.me.xreg xc).bad = false → L (val xc).toNat (exec (.xloop h xc nr fin) s)) ∧
    (rel % 4 = 0 →
      exec (.xbr h imm) s = .next (xpOut h s u (some rel)) ∧
      (usable = true → exec (.xbrc h t imm) s = .next (xpOut h s u (if holds then some rel else none)))) ∧
    (rel % 4 ≠ 0 → exec (.xbr h imm) s = I ∧ exec (.xbrc h t imm) s = I) ∧
    (s.me.xpLoops = [] → exec (.xbend h t) s = I) ∧
    (∀ l ls, s.me.xpLoops = l :: ls → usable = true →
      (holds = false → exec (.xbend h t) s = .next (xpOut h s u)) ∧
      (holds = true → exec (.xbend h t) s = .next (xpOut h s (u.modMe fun c => { c with xpLoops := ls }) (some l.fin)))))

/-- R270, R271, R272, R171: a vector load marks its register empty and puts reads of its own scratchpad in flight, which together cover
exactly the bytes of its active lanes; a store puts writes that carry them. Contiguous accesses stay within an aligned 8-byte chunk; an
indexed access of a null lane reads as zero and writes nothing (one request for a chunk, and one for a lane of an indexed form, is log
entry 19). A load or a store with an offset out of range or not aligned traps (OPND 4 is log entry 74). -/
def Obligations.VectorAccessForms : Prop :=
  ∀ (h : XpHdr) (d : VmOp) (a : BitVec 4) (b c : Opnd) (ty : Fmt) (imm : BitVec 32) (s t : State) (act : BitVec 64) (vb vc : VV),
    xpGo h s = true → (s.me.xreg a).bad = false →
    let k := s.cur.tid.core
    let o : Int := (s.me.xreg a).v.toNat + imm.toInt
    let z := ty.bits / 8
    let i := s.me.index (vmOpnd d)
    let fits := fun (x : Int) (m : Nat) => 0 ≤ x ∧ x % m = 0 ∧ x + m ≤ 0x200000
    let here := fun (q : Req) (op : ReqOp) => q.tid = s.cur.tid ∧ q.op = op ∧ q.ord = .rc ∧ q.done = false ∧ q.ready = true
    let lane := fun (j : Nat) => act.getLsbD j = true
    let at_ := fun (v : VV) (j : Nat) => o + (v.lane j * z : Nat)
    let live := fun (v : VV) => (List.range 64).filter fun j => act.getLsbD j && v.lane j != 2 ^ 32 - 1
    let covers := fun (qs : List Req) (ls : Req → List Nat) =>
      (∀ j < 64, lane j → ∃ q ∈ qs, j ∈ ls q) ∧
      (∀ q ∈ qs, ∃ j m, ls q = (List.range m).map (j + ·) ∧ 0 < m ∧ (∀ e < m, j + e < 64 ∧ lane (j + e)) ∧
        q.pa = spad k (o + 4 * j).toNat ∧ q.n = 4 * m ∧ (o + 4 * j) / 8 = (o + 4 * (j + m : Nat) - 1) / 8)
    let mis := fun (r : Out) => ∃ j x, lane j ∧ r = .next (s.trapWord h.popm s.cur.pc { code := 5, opnd := 4, lane := j, addr := x })
    (hasOperands h (some (vmOpnd d)) [] s act [] t →
      ((∀ j < 64, lane j → fits (o + 4 * j) 4) →
        ∃ u qs, exec (.vld h d a imm) s = .next (xpOut h s u) ∧ u.reqs = s.reqs ++ qs ∧ u.mem = s.mem ∧
          (u.me.v.get {} i).full = false ∧ (∀ q ∈ qs, here q .read) ∧
          covers qs fun q => match q.dst with
            | .vec v j m f => if v = i ∧ f = .n32 then (List.range m).map (j + ·) else []
            | _ => []) ∧
      ((∃ j < 64, lane j ∧ ¬ fits (o + 4 * j) 4) → mis (exec (.vld h d a imm) s))) ∧
    (hasOperands h (some (vmOpnd d)) [b] s act [vb] t → clean act [vb] = true →
      ((∀ j ∈ live vb, fits (at_ vb j) z) →
        ∃ u qs, exec (.vldIndexed h d a b ty imm) s = .next (xpOut h s u) ∧ u.reqs = s.reqs ++ qs ∧ u.mem = s.mem ∧
          (u.me.v.get {} i).full = false ∧ (∀ q ∈ qs, here q .read) ∧
          (∀ j < 64, lane j → vb.lane j = 2 ^ 32 - 1 → laneOf (u.me.v.get {} i).v j = 0) ∧
          qs.map (fun q => (q.pa, q.n, q.dst)) =
            (live vb).map fun j => (spad k (at_ vb j).toNat, z, ReqDst.vec i j 1 ty)) ∧
      ((∃ j ∈ live vb, ¬ fits (at_ vb j) z) → mis (exec (.vldIndexed h d a b ty imm) s))) ∧
    (hasOperands h none [b] s act [vb] t → (∃ j < 64, lane j ∧ ¬ fits (o + 4 * j) 4) → mis (exec (.vst h a b imm) s)) ∧
    (hasOperands h none [b, c] s act [vb, vc] t → clean act [vc] = true → (∃ j ∈ live vc, ¬ fits (at_ vc j) z) →
      mis (exec (.vstIndexed h a b c ty imm) s)) ∧
    (hasOperands h none [b] s act [vb] t → (∀ j < 64, lane j → fits (o + 4 * j) 4) →
      ∃ u qs, exec (.vst h a b imm) s = .next (xpOut h s u) ∧ u.reqs = s.reqs ++ qs ∧ u.mem = s.mem ∧ (∀ q ∈ qs, here q .write) ∧
        (∀ q ∈ qs, ∀ j m : Nat, fits (o + 4 * j) 4 → q.pa = spad k (o + 4 * j).toNat → q.n = 4 * m →
          (∀ e < m, bits q.data.toNat (32 * e + 31) (32 * e) = vb.lane (j + e)) ∧ (q.dbad = true ↔ ∃ e < m, vb.bad.getLsbD ((j + e) / 2) = true)) ∧
        covers qs fun q => (List.range (q.n / 4)).map ((((q.pa : Int) - spad k 0 - o) / 4).toNat + ·)) ∧
    (hasOperands h none [b, c] s act [vb, vc] t → clean act [vc] = true → (∀ j ∈ live vc, fits (at_ vc j) z) →
      ∃ u qs, exec (.vstIndexed h a b c ty imm) s = .next (xpOut h s u) ∧ u.reqs = s.reqs ++ qs ∧ u.mem = s.mem ∧
        (∀ q ∈ qs, here q .write) ∧
        qs.map (fun q => (q.pa, q.n, q.data, q.dbad)) =
          (live vc).map fun j => (spad k (at_ vc j).toNat, z, BitVec.ofNat 64 (vb.lane j), vb.bad.getLsbD (j / 2)))

/-! ## The matrix array (11, 12) -/

/-- R277, R278, R282, R291, R295: a weight load puts its element into the array queue for the next place of the shadow bank, and the fill
pointer advances; a first load, or one of another format or orientation, restarts the bank with its band scale; pruned groups are passed
over. A full bank, a row-major FP4 or masked load, a band scale for integers, and the system context trap. A full queue holds the word.
R280, R296, R297: the constant forms queue a fill of the whole shadow bank (identity, permutation, ones, selection), which is then full,
with band scale 1; MWSWP exchanges the banks at once for later words and empties the one that becomes the shadow. -/
def Obligations.WeightForms : Prop :=
  (∀ (h : XpHdr) (a : Opnd) (o : MwldOpts) (s t : State) (act : BitVec 64) (va : VV), xpGo h s = true →
    let x := s.cur.tid.ctx
    let I : Out := .next (s.trapWord h.popm s.cur.pc { code := 1 })
    let sh := !s.me.mx.actB
    let b := s.me.mx.bank sh
    let G := fun (f : Fmt) (r : Out) =>
      let fresh := b.fp == 0 || b.fmt != f || b.rowMajor != o.rowMajor
      let bad := (o.rowMajor && (f == .f4 || o.mask.isSome)) || (o.band.isSome && (floatFmt f).isNone)
      let n := if o.rowMajor then 32 else (if f.bits = 4 then 256 else if f.bits = 8 then 128 else 64) / vecsOf f
      let band : BitVec 16 := match o.band with
        | some y => BitVec.ofNat 16 (s.me.xreg y).v.toNat
        | none => 0x3F80
      let b1 : Bank := if fresh then { b with fmt := f, rowMajor := o.rowMajor, fp := 0, band := band } else b
      let fp := match o.mask with
        | some m => skipGroups (s.me.greg m.g).v m.mbase.toNat (64 / vecsOf f) n 5 b1.fp
        | none => b1.fp
      ((x = 4 ∨ bad = true) → r = I) ∧
      (x ≠ 4 → bad = false → (∀ y, o.band = some y → (s.me.xreg y).bad = false) →
        (∀ m, o.mask = some m → (s.me.greg m.g).full = true ∧ (s.me.greg m.g).bad = false) →
        hasOperands h none [a] s act [va] t →
        (fp = n → r = I) ∧
        (fp ≠ n →
          (arrayRoom s = true → r = .next (xpOut h s ((queued t (.load x sh f o.rowMajor fp va.v va.bad)).modMe fun c =>
            { c with mx := c.mx.setBank sh { b1 with fp := fp + 1 } }))) ∧
          (arrayRoom s = false → r = .next (s.noteStall false))))
    G .f4 (exec (.mwldF4 h a o) s) ∧ G .e4m3 (exec (.mwldE4m3 h a o) s) ∧ G .e5m2 (exec (.mwldE5m2 h a o) s) ∧
    G .bf16 (exec (.mwldBf16 h a o) s) ∧ G .f16 (exec (.mwldF16 h a o) s) ∧ G .i8 (exec (.mwldI8 h a o) s) ∧
    G .n8 (exec (.mwldN8 h a o) s) ∧ G .i4 (exec (.mwldI4 h a o) s) ∧ G .n4 (exec (.mwldN4 h a o) s)) ∧
  (∀ (h : XpHdr) (a : Opnd) (m : BitVec 3) (ty : Fmt) (s t : State) (act : BitVec 64) (va : VV), xpGo h s = true → arrayRoom s = true →
    let x := s.cur.tid.ctx
    let u := xpIn h s
    let sh := !s.me.mx.actB
    let F := fun (t : State) (ones : List (Nat × Nat)) => (Host.Outcome.next (xpOut h s ((queued t (.fill x sh ty ones)).modMe fun c =>
      { c with mx := c.mx.setBank sh { s.me.mx.bank sh with fmt := ty, rowMajor := false, fp := fillElems ty false, band := 0x3F80 } })) : Out)
    let rows := (List.range 64).filter fun k => (s.me.mreg m).v.getLsbD k
    exec (.mwid h ty) s = F u ((List.range 64).map fun k => (k, k)) ∧
    exec (.mwones h ty) s = F u ((List.range 64).flatMap fun k => (List.range 64).map fun c => (k, c)) ∧
    ((s.me.mreg m).bad = false → exec (.mwsel h m ty) s = F u (rows.zip (List.range 64))) ∧
    (hasOperands h none [a] s act [va] t → clean act [va] = true →
      exec (.mwperm h a ty) s = F t ((List.range 64).filterMap fun c => if va.lane c < 64 then some (va.lane c, c) else none)) ∧
    (∃ v, exec (.mwswp h) s = .next (xpOut h s v) ∧ v.me.mx.actB = (!s.me.mx.actB) ∧ (v.me.mx.bank s.me.mx.actB).fp = 0 ∧
      v.me.mx.bank sh = s.me.mx.bank sh ∧
      (v.core s.cur.tid.core).arrayQ = (s.core s.cur.tid.core).arrayQ ++ [.swap x] ∧ v.mem = s.mem))

/-- R282, R290, R298, R299: a multiplication queues one pass of its element on the active bank, with the formats, scales and column groups
in force at its issue; a port gives its own format, and its scale where that is a floating-point format (R48). A format that is no
activation format, an element past row 63, a masked form on a row-major bank or with too many groups, and the system context trap. R301,
R302, R306: MACRD queues a readout of 64 accumulators to a main vector, which is empty until then, or to 256 bytes of the scratchpad,
whose writes wait for the data (a bad offset traps with OPND 4, log entry 74); MACCLR queues a clear of rows. -/
def Obligations.MultiplicationAndReadoutForms : Prop :=
  (∀ (h : XpHdr) (a : Opnd) (ty : Fmt) (abase mbase : BitVec 6) (g : BitVec 3) (ngm1 : BitVec 2) (gte : Bool) (s t : State) (act : BitVec 64) (va : VV),
    xpGo h s = true → hasOperands h none [a] s act [va] t →
    let I : Out := .next (s.trapWord h.popm s.cur.pc { code := 1 })
    let port := (s.me.port a.idx.toNat).cfg
    let f := if a.lvl = .port then Conf.fmt port else ty
    let sc : BitVec 32 := if a.lvl = .port ∧ (floatFmt f).isSome then BitVec.ofNat 32 (Conf.scale port) else 0x3F800000
    let b := s.me.mx.bank s.me.mx.actB
    let groups := (if b.fmt.bits = 4 then 256 else if b.fmt.bits = 8 then 128 else 64) / 64
    let ng := ngm1.toNat + 1
    let ok := s.cur.tid.ctx != 4 && decide (1 ≤ f.code) && decide (f.code ≤ 9) && decide (abase.toNat + vecsOf f ≤ 64)
    let fits := !b.rowMajor && decide (ng ≤ groups)
    let op := fun (keep : List Bool) (ovw : Bool) =>
      ArrOp.mul s.cur.tid.ctx s.me.mx.actB false f b.fmt b.rowMajor b.band sc abase.toNat ovw keep va.v s.cur.op s.cur.pc
    let R := fun (keep : List Bool) (ovw : Bool) => (Host.Outcome.next (xpOut h s (queued t (op keep ovw))) : Out)
    let all := (List.range groups).map fun _ => true
    let kept := (List.range groups).map fun j => decide (j < ng) && (s.me.greg g).v.getLsbD ((mbase.toNat + j) % 64)
    (ok = false → exec (.mmul h a ty abase) s = I ∧ exec (.mmulz h a ty abase) s = I ∧
      exec (.mmulm h a ty abase g mbase ngm1 gte) s = I ∧ exec (.mmulmz h a ty abase g mbase ngm1 gte) s = I) ∧
    (ok = true → fits = false →
      exec (.mmulm h a ty abase g mbase ngm1 gte) s = I ∧ exec (.mmulmz h a ty abase g mbase ngm1 gte) s = I) ∧
    (ok = true → arrayRoom s = true → elemBad f va.bad = none →
      exec (.mmul h a ty abase) s = R all false ∧ exec (.mmulz h a ty abase) s = R all true ∧
      (fits = true → (s.me.greg g).full = true → (s.me.greg g).bad = false →
        exec (.mmulm h a ty abase g mbase ngm1 gte) s = R kept false ∧ exec (.mmulmz h a ty abase g mbase ngm1 gte) s = R kept true)) ∧
    (∀ r j, ok = true → elemBad f va.bad = some (r, j) →
      exec (.mmul h a ty abase) s = .next (s.trapWord h.popm s.cur.pc { code := 8, opnd := 1, lane := 2 * j, chunk := j }))) ∧
  (∀ (h : XpHdr) (d : VmOp) (a : BitVec 4) (row nrm1 : BitVec 6) (cg : BitVec 2) (clr : Bool) (s t : State) (act : BitVec 64),
    xpGo h s = true → arrayRoom s = true →
    let k := s.cur.tid.core
    let x := s.cur.tid.ctx
    let u := xpIn h s
    let i := s.me.index (vmOpnd d)
    let o := (s.me.xreg a).v.toNat
    exec (.macclr h row nrm1) s = .next (xpOut h s (queued u (.clear x row.toNat (nrm1.toNat + 1)))) ∧
    (hasOperands h (some (vmOpnd d)) [] s act [] t →
      exec (.macrd h d row cg clr) s = .next (xpOut h s ((queued t (.read x row.toNat cg.toNat clr i)).modMe fun c =>
        { c with v := c.v.put i { c.v.get {} i with full := false } }))) ∧
    ((s.me.xreg a).bad = false →
      ((o % 4 ≠ 0 ∨ 0x200000 < o + 256) →
        exec (.macrdScratchpad h a row cg clr) s = .next (s.trapWord h.popm s.cur.pc { code := 5, opnd := 4, addr := o })) ∧
      (o % 4 = 0 → o + 256 ≤ 0x200000 → (∀ q ∈ s.reqs, q.id < u.nextId) →
        ∃ v qs, exec (.macrdScratchpad h a row cg clr) s = .next (xpOut h s v) ∧ v.reqs = s.reqs ++ qs ∧ v.mem = s.mem ∧
          (v.core k).arrayQ = (s.core k).arrayQ ++ [.readSp x row.toNat cg.toNat clr u.nextId] ∧
          (∀ q ∈ qs, q.tid = s.cur.tid ∧ q.op = .write ∧ q.ready = false ∧ q.done = false ∧ spad k o ≤ q.pa ∧ q.pa + q.n ≤ spad k (o + 256)) ∧
          (∀ j < 256, ∃ q ∈ qs, q.pa ≤ spad k (o + j) ∧ spad k (o + j) < q.pa + q.n))))

/-- R287, R289, R303, R304, R305, R171: the scout forms queue their element, a score once all its keys are there; MCAIRN leaves its
tile-mask register empty until its result arrives, which keeps a tile whose maximum and margin reach the largest maximum up to it, a tile
with a NaN, and those it always keeps; the tile-mask forms compute on full registers and move poison (GGET's OPND 1 is log entry 74).
R314, R349, R189: the XP's NOP and IFENCE complete and change nothing else (IFENCE: log entry 13); its fences complete once what they wait
for has performed. R336: WLPOPV takes the oldest entries of the work list, one for each active lane, gives the lanes past them all ones,
and counts them in x[n]. -/
def Obligations.ScoutFenceAndWorkListPopForms : Prop :=
  (∀ (h : XpHdr) (d a : Opnd) (eidx : BitVec 5) (nqm1 nkm1 slane : BitVec 6) (two : Bool) (g m n : BitVec 3) (p q : GSrc) (y : BitVec 4)
    (s t : State) (act : BitVec 64) (va : VV), xpGo h s = true → s.cur.tid.ctx ≠ 4 →
    let x := s.cur.tid.ctx
    let k := s.cur.tid.core
    let u := xpIn h s
    let e := eidx.toNat
    let recv := s.me.mx.recv ||| ((1 : BitVec 32) <<< e)
    let segs := if two then 2 else 1
    let have_ := fun (r : BitVec 32) => ∀ j, j < 16 * segs → r.getLsbD j = true
    let P := s.me.greg p.g
    let Q := s.me.greg q.g
    let S := fun (v : BitVec 64) (bad : Bool) =>
      (Host.Outcome.next (xpOut h s (u.modMe fun c => { c with g := c.g.put g.toNat { v := v, bad := bad, full := true } })) : Out)
    (hasOperands h none [a] s act [va] t → (s.core k).scoutQ.length < 4 →
      exec (.mscoutQuery h a eidx) s = .next (xpOut h s (scouted t (.query x e va.v va.bad))) ∧
      exec (.mscoutKey h a eidx) s = .next (xpOut h s ((scouted t (.key x e va.v va.bad)).modMe fun c => { c with mx := { c.mx with recv := recv } }))) ∧
    ((16 * segs ≤ e ∨ ¬ have_ recv) →
      exec (.mscoutScore h d a eidx nqm1 nkm1 slane two) s = .next (s.trapWord h.popm s.cur.pc { code := 1 })) ∧
    (hasOperands h (some d) [a] s act [va] t → e < 16 * segs → have_ recv → (s.core k).scoutQ = [] →
      exec (.mscoutScore h d a eidx nqm1 nkm1 slane two) s = .next (xpOut h s
        ((scouted t (.score x e (nqm1.toNat + 1) (nkm1.toNat + 1) segs slane.toNat d.lvl (s.me.index d) va.v va.bad)).modMe fun c =>
          ({ c with mx := { c.mx with recv := 0 } } : Ctx).modVReg d.lvl (s.me.index d) fun r => { r with busy := true }))) ∧
    (hasOperands h none [a] s act [va] t → (s.me.mreg h.lmask).bad = false → (s.me.greg g).full = true →
      let l := (s.me.mreg h.lmask).v
      let bad := (s.me.mreg m).bad || (s.me.xreg y).bad || !clean l [va]
      let M := fun (j : Nat) => floatVal f32F (va.lane j)
      let top := fun (j : Nat) => ((List.range (j + 1)).filter fun i => l.getLsbD i && !(M i).isNan).foldl (fun r i => r.max (M i)) (.inf true)
      let sum := fun (j : Nat) => (M j).add false (floatVal f32F (s.me.xreg y).v.toNat)
      ∃ G : BitVec 64, (∀ j < 64, G.getLsbD j = (l.getLsbD j &&
          ((M j).isNan || (sum j).isNan || !(sum j).lt (top j) || (s.me.mreg m).v.getLsbD j))) ∧
      exec (.mcairn h g a y m) s = .next (xpOut h s
        { t.modMe fun c => { c with g := c.g.put g.toNat { c.greg g with full := false } } with
          nextId := t.nextId + 1
          delivs := t.delivs ++ [(t.nextId, .mask k x g.toNat G bad)] })) ∧
    ((s.me.greg g).full = true →
      exec (.gset h g n) s = S (s.me.mreg n).v (s.me.mreg n).bad ∧
      (P.full = true → Q.full = true →
        exec (.gand h g p q) s = S (P.v &&& Q.v) (P.bad || Q.bad) ∧ exec (.gor h g p q) s = S (P.v ||| Q.v) (P.bad || Q.bad) ∧
        exec (.gandn h g p q) s = S (P.v &&& ~~~Q.v) (P.bad || Q.bad))) ∧
    (P.full = true → exec (.gget h n p) s = .next (xpOut h s (u.modMe (·.setM n { v := P.v, bad := P.bad })))) ∧
    (P.full = false → exec (.gget h n p) s =
      (if p.trap then .next (s.trapWord h.popm s.cur.pc { code := 3, opnd := 1 }) else .next (s.noteStall false)))) ∧
  (∀ (h : XpHdr) (sc : Scope) (d : VmOp) (n : BitVec 4) (s t : State) (act : BitVec 64), xpGo h s = true →
    let R := fun (b : Bool) => (Host.Outcome.next (if b then xpOut h s (xpIn h s) else s.noteStall false) : Out)
    let loads := s.reqs.any fun q => decide (q.tid = s.cur.tid ∧ q.done = false ∧ q.op ≠ .write ∧ q.ord ≠ .un)
    let w := s.me.wl
    let lanes := (List.range 64).filter fun i => act.getLsbD i
    let m := min w.count lanes.length
    exec (.xpNop h) s = R true ∧ exec (.xpIfence h) s = R true ∧ exec (.xpFenceAcq h sc) s = R (!loads) ∧
    exec (.xpFenceRel h sc) s = R (s.before s.cur.tid sc false).isEmpty ∧
    exec (.xpFenceSc h sc) s = R (s.before s.cur.tid sc true).isEmpty ∧
    (hasOperands h (some (vmOpnd d)) [] s act [] t → w.flt = false → (w.spN = 0 ∨ m ≤ w.front.length) →
      let entries := (w.front ++ w.back).take m
      ∃ u, exec (.wlpopv h d n) s = .next (xpOut h s u) ∧ (u.me.xreg n).v.toNat = m ∧ u.mem = s.mem ∧ u.me.wl.count = w.count - m ∧
        (w.spN = 0 → u.me.wl.front ++ u.me.wl.back = (w.front ++ w.back).drop m) ∧
        ∀ i < 64, act.getLsbD i = true →
          laneOf (u.me.v.get {} (s.me.index (vmOpnd d))).v i = match entries[(lanes.filter (· < i)).length]? with
            | some e => e.1.toNat
            | none => 2 ^ 32 - 1))

/-! ## Requests, data, tokens, waits, barriers, units (03, 07, 12 to 14, 16) -/

/-- R272, R353, R355, R357, R221, R218 to R220, R464: a request that may perform, allowed by its windows, acts at its home at one instant:
a read leaves memory and takes its bytes with their poison; a write replaces exactly its bytes; an atomic writes the value of R218 to R220
and returns the old one. An atomic on a poisoned location stores poison where its value depends on the old one, and writes nothing where
it compares (R464). The writes of one vector store to one aligned 8-byte chunk perform together. R66, R218, R355, R420, R422, R427: a
request that may not perform yet waits; one whose home is a frozen scratchpad is held at its port; one outside its windows has no effect
there, and poisoned data where it has a register; it is logged as class 3 with its address, in the next 64 bytes of the log where that has
room, and else counts as lost. -/
def Obligations.RequestsPerformWaitOrAreRefused : Prop :=
  (∀ (id : Nat) (s : State) (q : Req), s.req id = some q → s.mayPerform q = true →
    (inSpad q.pa && s.frozen (spadCore q.pa)) = false → s.reqAllowed q = true → inRegs q.pa = false →
    (∀ qs, s.chunk q = qs → qs.all s.mayPerform = true → q.op = .write → (∀ r ∈ qs, r.op = .write ∧ r.dst = .none ∧ r.n ≤ 8) →
      ∃ t, exec (.memoryRequestArrival id false) s = .next t ∧ (∀ r ∈ qs, t.req r.id = none) ∧
        (∀ r ∈ qs, ∀ a, r.pa ≤ a → a < r.pa + r.n → (∀ p ∈ qs, p ≠ r → a < p.pa ∨ p.pa + p.n ≤ a) →
          t.byte a = BitVec.ofNat 8 (r.data.toNat / 256 ^ (a - r.pa))) ∧
        ∀ a, (∀ r ∈ qs, a < r.pa ∨ r.pa + r.n ≤ a) → t.byte a = s.byte a) ∧
    (s.chunk q = [q] →
    let n := q.n
    let old := s.nat q.pa n
    let w := 8 * n
    let b := q.data.toNat % 2 ^ w
    let bad := s.badIn q.pa n
    let new : Option Nat := if bad && opCompares q.op then none else match q.op with
      | .read => none
      | .write => some b
      | .swap => some b
      | .cas c => if old = c.toNat % 2 ^ w then some b else none
      | .add => some ((old + b) % 2 ^ w)
      | .and => some (old &&& b)
      | .or => some (old ||| b)
      | .xor => some (old ^^^ b)
      | .min => some (if sgn w b < sgn w old then b else old)
      | .max => some (if sgn w old < sgn w b then b else old)
      | .minn => some (min old b)
      | .maxn => some (max old b)
      | .minp => if b < old then some b else none
    let bytes := fun (t : State) => ∀ a, t.byte a = match new with
      | some v => if q.pa ≤ a ∧ a < q.pa + n then BitVec.ofNat 8 (v / 256 ^ (a - q.pa)) else s.byte a
      | none => s.byte a
    let poison := fun (t : State) => q.pa / 8 = (q.pa + n - 1) / 8 → 0 < n → ∀ w, t.badWord w =
      if w = q.pa / 8 ∧ new.isSome = true then q.dbad || (bad && opUsesOld q.op) || (n != 8 && s.badWord w) else s.badWord w
    let P := fun (r : Out) => ∃ t, r = .next t ∧ bytes t ∧ poison t ∧
      (q.op ≠ .write → (∃ rd ty tt pd, q.dst = .areg rd ty tt pd) →
        ∃ u, t.req id = some u ∧ u.done = true ∧ u.res = BitVec.ofNat 64 old ∧ u.rbad = bad ∧ u.wrote = new.isSome ∧ u.dst = q.dst) ∧
      (q.dst = .none → t.req id = none)
    ((q.op = .read ∨ q.op = .write) → P (exec (.memoryRequestArrival id false) s)) ∧
    (q.op ≠ .read → q.op ≠ .write → P (exec (.atomicPerform id false) s)) ∧
    (∀ i j m ty, q.op = .read → q.dst = .vec i j m ty → 1 < m → j + m ≤ 64 → q.n = 4 * m →
      ∃ t, exec (.memoryRequestArrival id false) s = .next t ∧ t.req id = none ∧ t.mem = s.mem ∧
        ∀ e < m, laneOf ((t.ctx q.tid.core q.tid.ctx).v.get {} i).v (j + e) = s.nat (q.pa + 4 * e) 4))) ∧
  (∀ (id : Nat) (ue : Bool) (s : State) (q : Req), s.req id = some q →
    let r := if q.plain then exec (.memoryRequestArrival id ue) s else exec (.atomicPerform id ue) s
    let frozen := inSpad q.pa && s.frozen (spadCore q.pa)
    (s.mayPerform q = false → r = .next s) ∧
    ((s.chunk q).all s.mayPerform = true → frozen = true → ∃ t, r = .next t ∧ t.mem = s.mem ∧ t.reqs = s.reqs ∧
      (t.core (spadCore q.pa)).held = (s.core (spadCore q.pa)).held ++ [if q.plain then .memory id ue else .atomic id ue]) ∧
    ((s.chunk q).all s.mayPerform = true → frozen = false → s.reqAllowed q = false →
      let src := s.src q.tid.core q.tid.ctx
      let log := fun (t : State) => match src.log with
        | some n => (t.dev.control.get ({} : Control) n).log
        | none => t.dev.log
      let L := log s
      let e : Entry := { cls := 3, core := q.tid.core, ctx := q.tid.ctx, sys := src.ten == 16, d0 := q.pa }
      ∃ t, r = .next t ∧ (q.dst = .none → t.req id = none) ∧
        (∀ rd ty tt pd, q.dst = .areg rd ty tt pd →
          ∃ u, t.req id = some u ∧ u.done = true ∧ u.rbad = true ∧ u.wrote = false ∧ u.dst = q.dst) ∧
        (L.room = false → t.mem = s.mem ∧ (log t).lost = min 65535 (L.lost + 1) ∧ (log t).head = L.head) ∧
        (L.room = true → (log t).lost = L.lost ∧ (log t).head = L.head + 1 ∧
          t.bytes L.nextAt 64 = leBytes 64 (e.value (src.log.getD 0) s.gtc) ∧
          ∀ a, (a < L.nextAt ∨ L.nextAt + 64 ≤ a) → t.byte a = s.byte a)))

/-- R171, R176, R201, R203, R212, R218: data that come back write their register, extended, and free it; a long-latency value fills its
register; a token enters its FIFO; a walk fills the TLB of a miss, and takes no entry from it (log entry 8). R53 to R55, R58, R275, R282,
R278, R287, R288, R298, R300, R301, R303, R337: the heads of the array and scout queues run in order. A pass adds to each accumulator the
exact sum of its 64 products, scaled and rounded once and added with one rounding, or for two integer formats modulo 2^32; the scout's
score is the largest exact score of the tile, rounded once. A pending poison trap is taken at a boundary of the XP; a work list spills the
oldest 512 entries of its behind part to the 2048 bytes of its next chunk and takes those of the oldest chunk back, with their poison;
where the chip has no room for both it does the two at once (log entry 125). -/
def Obligations.DataUnitsAndWorkListsArrive : Prop :=
  (∀ (id core ctx va : Nat) (acc : AccessKind) (s : State),
    (∀ q rd ty tt pd, s.req id = some q → q.done = true → q.dst = .areg rd ty tt pd → s.frozen q.tid.core = false →
      ∃ t, exec (.loadDataArrival id) s = .next t ∧ t.req id = none ∧ t.mem = s.mem ∧
        let c := s.ctx q.tid.core q.tid.ctx
        let d := t.ctx q.tid.core q.tid.ctx
        (q.op ≠ .write → d.areg rd = if rd = 0 then {} else { v := extend ty q.res.toNat, bad := q.rbad, taint := tt }) ∧
        (∀ r, r ≠ rd → d.areg r = c.areg r) ∧
        (opCompares q.op = true → d.pred pd = if pd = 0 then { v := true } else { v := q.wrote, bad := q.rbad }) ∧
        (∀ p, (p ≠ pd ∨ opCompares q.op = false) → d.pred p = c.pred p)) ∧
    (∀ i d, (s.delivs.find? fun e => e.1 == id) = some (i, d) → s.canDeliver d = true → s.frozen (delivAt d).1 = false →
      ∃ t, exec (.longLatencyDelivery id) s = .next t ∧ t.mem = s.mem ∧ (∀ e ∈ t.delivs, e.1 ≠ id) ∧
        match d with
        | .load k x j => (t.ctx k x).v.get {} j = { ((s.ctx k x).v.get {} j : VReg) with full := true }
        | .vec k x j v bad => (t.ctx k x).v.get {} j = { ((s.ctx k x).v.get {} j : VReg) with v := v, bad := bad, full := true }
        | .mask k x j v bad => (t.ctx k x).g.get {} j = { v := v, bad := bad, full := true }) ∧
    (∀ k, (s.toks.find? fun t => t.id == id) = some k → s.tokenFree k = true → s.farCut k.src.core k.dst.core = false →
      s.frozen k.dst.core = false →
      ∃ t, exec (.tokenArrival id) s = .next t ∧ t.tokens k.dst k.chan = s.tokens k.dst k.chan + 1 ∧ (∀ e ∈ t.toks, e.id ≠ id) ∧ t.mem = s.mem) ∧
    (∀ l, va < 2 ^ 57 → s.tlbHit core (s.ctxTenant core ctx) va = none → s.walkVa core (s.ctxTenant core ctx) va acc = .ok l →
      ∃ t, exec (.pageTableWalk core ctx va acc) s = .next t ∧ t.mem = s.mem ∧ t.reqs = s.reqs ∧
        t.tlb = { core := core, ten := s.ctxTenant core ctx, lvl := l.lvl, page := va / pageSize l.lvl, pte := BitVec.ofNat 64 l.pte } :: s.tlb)) ∧
  (∀ (k x : Nat) (s : State), s.frozen k = false →
    -- an FP4 element of a block (R45)
    let block := fun (scale code : Nat) => if scale = 0xFFF then Machine.Num.nan else (floatVal f4F code).mul (scaleVal scale)
    (∀ op ops, (s.core k).arrayQ = op :: ops →
      ∃ t, exec (.arrayOperation k) s = .next t ∧ (t.core k).arrayQ = ops ∧ t.mem = s.mem ∧
        (t.ctx k (arrCtx op)).mx = (s.ctx k (arrCtx op)).mx.arrayStep op ∧
        (∀ y row cg clr dst, op = .read y row cg clr dst → t.delivs = s.delivs ++ [(s.nextId, .vec k y dst
          ((s.ctx k y).mx.readout row cg).v ((s.ctx k y).mx.readout row cg).bad)]) ∧
        (∀ y b other af wf rm band sc base ovw keep v opw pc, op = .mul y b other af wf rm band sc base ovw keep v opw pc →
          let m := (s.ctx k y).mx
          let m' := (t.ctx k y).mx
          let bank := m.bank b
          let val := fun (f : Fmt) (code scale : Nat) => if f = .f4 then block scale code else fmtVal f code
          let cols := fun (c : Nat) => c < (if wf.bits = 4 then 256 else if wf.bits = 8 then 128 else 64) ∧ keep.getD (c / 64) false = true
          let rows := if af = .f4 then 4 else if af.bits = 4 then 8 else if af.bits = 8 then 4 else 2
          (∀ r c, r < rows → cols c →
            let aCode := fun (i : Nat) => bits v.toNat (af.bits * (64 * r + i) + af.bits - 1) (af.bits * (64 * r + i))
            let aScale := fun (i : Nat) => bits v.toNat (1024 + 96 * r + 12 * (i / 8) + 11) (1024 + 96 * r + 12 * (i / 8))
            let wCode := fun (i : Nat) => bits (bank.rows.get 0 i).toNat (wf.bits * c + wf.bits - 1) (wf.bits * c)
            let wScale := fun (i : Nat) => bits (bank.scales.get 0 c).toNat (12 * (i / 8) + 11) (12 * (i / 8))
            let int := fun (f : Fmt) (x : Nat) => if intSigned f then sgn f.bits x else (x : Int)
            let old := if ovw then 0 else m.accAt (base + r) c
            let S := (List.range 64).foldl (fun S i => S.add false ((val af (aCode i) (aScale i)).mul (val wf (wCode i) (wScale i)))) (Machine.Num.fin false 0 0)
            let p := floatCode f32F .ne (S.mul ((floatVal bf16F band.toNat).mul (floatVal f32F sc.toNat)))
            let sum := ((List.range 64).map fun i => int af (aCode i) * int wf (wCode i)).sum
            m'.accAt (base + r) c = (if (floatFmt af).isNone ∧ (floatFmt wf).isNone then wrap 32 ((old : Int) + sum)
              else floatCode f32F .ne ((floatVal f32F old).add false (floatVal f32F (if p = 2 ^ 31 then 0 else p)))) % 2 ^ 32) ∧
          (∀ r c, c < 256 → ¬ (base ≤ r ∧ r < base + rows ∧ cols c) → m'.accAt r c = m.accAt r c)) ∧
        (∀ y row n, op = .clear y row n → ∀ r c, row ≤ r → r < row + n → c < 256 → (t.ctx k y).mx.accAt r c = 0) ∧
        (∀ y r c, y ≠ arrCtx op → (t.ctx k y).mx.accAt r c = (s.ctx k y).mx.accAt r c)) ∧
    (∀ op ops, (s.core k).scoutQ = op :: ops →
      ∃ t, exec (.scoutOperation k) s = .next t ∧ (t.core k).scoutQ = ops ∧ t.mem = s.mem ∧
        match op with
        | .query y e v bad => (t.ctx k y).mx.qry.get {} e = ⟨v, bad⟩
        | .key y e v bad => (t.ctx k y).mx.key.get {} e = ⟨v, bad⟩
        | .score y e nq nk segs lane lvl i v bad =>
          (t.ctx k y).mx.key.get {} e = ⟨v, bad⟩ ∧
          let dim := fun (b : SMap EBuf) (n d : Nat) =>
            let x := (b.get {} (16 * (d / 64) + n / 4)).v.toNat
            let at_ := 4 * (64 * (n % 4) + d % 64)
            let sc := 1024 + 96 * (n % 4) + 12 * (d % 64 / 8)
            block (bits x (sc + 11) sc) (bits x (at_ + 3) at_)
          let score := fun (i j : Nat) =>
            let S := (List.range (64 * segs)).foldl (fun S d =>
              S.add false ((dim (s.ctx k y).mx.qry i d).mul (dim (t.ctx k y).mx.key j d))) (Machine.Num.fin false 0 0)
            if S.isZero then Machine.Num.fin false 0 0 else S
          let all := (List.range nq).flatMap fun i => (List.range nk).map fun j => score i j
          let M := if all.any Machine.Num.isNan then 0x7FC00000
            else floatCode f32F .ne (all.foldl (fun m x => if m.lt x then x else m) (.inf true))
          (lvl = .main → lane < 64 → laneOf ((t.ctx k y).v.get {} i).v lane = M % 2 ^ 32 ∧ ((t.ctx k y).v.get {} i).busy = false)) ∧
    (∀ m, (s.ctx k x).mx.pend = some m → (s.ctx k x).trapped = false → (s.ctx k x).halted = false → (s.ctx k x).ending = false → (s.ctx k x).bind.isSome = true →
      (s.ctx k x).xp.inWord = false → exec (.deferredPoisonTrap k x) s = .next (s.takeMmTrap k x m)) ∧
    (let w := (s.ctx k x).wl
     let mayWrite := fun (t : State) (pa : Nat) => ∀ j < 256, t.windowOk (t.src k x).ten (pa + 8 * j) (pa + 8 * j + 7) .write = true
     -- the entries `es` stand in the chunk at `pa`, and no other byte has changed
     let stands := fun (u : State) (pa : Nat) (es : List (BitVec 32 × Bool)) =>
      (∀ i < 512, u.nat (pa + 4 * i) 4 = (es.getD i (0, false)).1.toNat) ∧
      (∀ j < 256, u.badWord (pa / 8 + j) = ((es.getD (2 * j) (0, false)).2 || (es.getD (2 * j + 1) (0, false)).2)) ∧
      (∀ a, (a < pa ∨ pa + 2048 ≤ a) → u.byte a = s.byte a)
     let found := fun (pa : Nat) => (List.range 512).map fun i => (BitVec.ofNat 32 (s.nat (pa + 4 * i) 4), s.badIn (pa + 4 * i) 4)
     let at_ := fun (i : Nat) => w.base.toNat + 2048 * (i % max 1 w.nch)
     ∀ p t, w.flt = false → p.pa % 8 = 0 →
      (512 ≤ w.back.length → w.spN < w.nch →
        s.xlat (s.rq k x 10) (at_ (w.spAt + w.spN)) 2048 2048 .write = (.ok p, t) → t.notNow k p.pa 2048 = false →
        ∃ u, exec (.workListSpill k x) s = .next u ∧ (u.ctx k x).wl = { w with back := w.back.drop 512, spN := w.spN + 1 } ∧
          (mayWrite t p.pa → stands u p.pa w.back)) ∧
      (w.spN ≠ 0 → w.front.length ≤ 2048 →
        s.xlat (s.rq k x 10) (at_ w.spAt) 2048 2048 .read = (.ok p, t) → t.notNow k p.pa 2048 = false →
        t.windowOk (t.src k x).ten p.pa (p.pa + 2047) .read = true →
        (w.onChip + 512 ≤ 4096 →
          ∃ u, exec (.workListRefill k x) s = .next u ∧ u.mem = s.mem ∧
            (u.ctx k x).wl = { w with front := w.front ++ found p.pa, spN := w.spN - 1, spAt := (w.spAt + 1) % max 1 w.nch }) ∧
        (∀ q v, 4096 < w.onChip + 512 → 512 ≤ w.back.length → q.pa % 8 = 0 →
          t.xlat (t.rq k x 10) (at_ (w.spAt + w.spN)) 2048 2048 .write = (.ok q, v) → v.notNow k q.pa 2048 = false →
          v.windowOk (v.src k x).ten p.pa (p.pa + 2047) .read = true →
          ∃ u, exec (.workListRefill k x) s = .next u ∧ (mayWrite v q.pa → stands u q.pa w.back) ∧
            (u.ctx k x).wl = { w with
              front := w.front ++ found p.pa, back := w.back.drop 512, spAt := (w.spAt + 1) % max 1 w.nch }))))

/-- R10, R323, R406, R455: a word that waits is tried again, also when its deadline has come (its turn goes to the head of the agenda, log
entry 47); a user half that has waited for the limit takes a watchdog trap at the waiting word; a raised MSI-X write is issued, or, where
its vector is masked (which the event says, log entry 94), held pending until the vector is unmasked; none is issued after a thermal trip
(R463). R7, R330, R332, R401, R420, R421: a barrier arrival counts at its target, or is logged where the barrier is uninitialised, and
waits while the core that sent it is frozen; the lowest pending context starts the handler of its core; a correctable error freezes a
core, those of one cycle together, and the end of the last freeze applies what was held, in order, before anything else; an arrival held
there counts, whatever has become of its sender. The count of cycles of a core does not change in a freeze. That the misuse entry's D0 is
the target core and its D1 the barrier is the model's reading (log entry 27). -/
def Obligations.WaitsBarriersHandlersAndFreezes : Prop :=
  (∀ (t : Tid) (i : Nat) (s : State),
    let again : Turn := { act := .issue t, cycles := 1, late := otherCtxs t.ctx }
    ((s.half t).stall.isSome = true → exec (.stallRelease t) s = .next { s with agenda := again :: s.agenda }) ∧
    (∀ d, s.runnable t = true → ((s.half t).stall.bind (·.deadline)) = some d →
      (d ≤ s.gtc → exec (.waitTimeout t) s = .next { s with agenda := again :: s.agenda }) ∧
      (s.gtc < d → exec (.waitTimeout t) s = .next s)) ∧
    (∀ w, (s.half t).stall = some w → t.ctx ≠ 4 → s.runnable t = true →
      let limit := (s.core t.core).watchdog.toNat
      let waited := w.acc + (s.gtc - w.since)
      ((limit = 0 ∨ waited < limit) → exec (.watchdog t) s = .next s) ∧
      (limit ≠ 0 → limit ≤ waited → (t.half = .xp ∨ (s.ctx t.core t.ctx).elide = none) →
        exec (.watchdog t) s = .next ((s.takeTrap t (s.half t).pc (s.wordAt t) { code := 13 }).modHalf t fun h =>
          { h with stall := h.stall.map fun w => { w with acc := 0 } })) ∧
      (∀ e, limit ≠ 0 → limit ≤ waited → t.half = .ap → (s.ctx t.core t.ctx).elide = some e →
        exec (.watchdog t) s = .next (s.modCtx t.core t.ctx fun c => c.abort e 0 4))) ∧
    (∀ m, s.dev.msix[i]? = some m → s.dev.tripped = false →
      exec (.msixWrite ⟨i, false⟩) s = .next { s with dev := { s.dev with msix := s.dev.msix.eraseIdx i, msixSent := s.dev.msixSent ++ [m] } } ∧
      ∃ t, exec (.msixWrite ⟨i, true⟩) s = .next t ∧ t.dev.msix = s.dev.msix.eraseIdx i ∧ t.dev.msixSent = s.dev.msixSent ∧ m ∈ t.dev.msixPend) ∧
    (∀ m n, i = s.dev.msix.length + n → s.dev.msixPend[n]? = some m → s.dev.tripped = false →
      exec (.msixWrite ⟨i, false⟩) s =
        .next { s with dev := { s.dev with msixPend := s.dev.msixPend.eraseIdx n, msixSent := s.dev.msixSent ++ [m] } }) ∧
    (s.dev.tripped = true → ∀ b, exec (.msixWrite ⟨i, b⟩) s = .next s)) ∧
  (∀ (id k : Nat) (s : State),
    (∀ m, (s.barMsgs.find? fun m => m.id == id) = some m → s.farCut m.src.core m.core = false →
      let b := s.bar m.core m.bar
      let u : State := { s with barMsgs := s.barMsgs.filter fun n => n.id != id }
      (s.frozen m.src.core = true → exec (.barrierArrivalMessage id) s = .next s) ∧
      (s.frozen m.src.core = false → s.frozen m.core = false →
        (b.e ≠ 0 → exec (.barrierArrivalMessage id) s = .next (u.setBar m.core m.bar
          (if b.a + 1 = b.e then { b with a := 0, p := !b.p } else { b with a := b.a + 1 }))) ∧
        (b.e = 0 → ∃ t, exec (.barrierArrivalMessage id) s = .next t ∧ t.bar m.core m.bar = b ∧
          t = u.logError (s.coreTenant m.src.core)
            { cls := 4, core := m.src.core, ctx := m.src.ctx, sys := m.src.ctx == 4, d0 := m.core, d1 := m.bar })) ∧
      (s.frozen m.src.core = false → s.frozen m.core = true →
        ∃ t, exec (.barrierArrivalMessage id) s = .next t ∧ (t.core m.core).held = (s.core m.core).held ++ [.barrier id] ∧ t.barMsgs = s.barMsgs)) ∧
    (∀ j m, (s.barMsgs.find? fun m => m.id == id) = some m → s.applyHeld j (.barrier id) = s.arriveBar m) ∧
    ((s.ctx k 4).ap.active = false → (s.core k).doubleTrap = false → s.frozen k = false →
      (∀ x, x < 4 → (s.ctx k x).pend = true → (∀ y < x, (s.ctx k y).pend = false) →
        ∃ t, exec (.handlerDispatch k) s = .next t ∧ (t.core k).handling = some x ∧ (t.ctx k 4).ap.active = true ∧
          (t.ctx k 4).ap.pc = (s.core k).trapEntry.toNat ∧ t.mem = s.mem) ∧
      ((∀ x < 4, (s.ctx k x).pend = false) →
        ((s.core k).parkList ≠ [] → ∃ t, exec (.handlerDispatch k) s = .next t ∧ (t.core k).handling = none ∧ (t.ctx k 4).ap.active = true ∧
          (t.ctx k 4).ap.pc = (s.core k).trapEntry.toNat) ∧
        ((s.core k).parkList = [] → exec (.handlerDispatch k) s = .next s))) ∧
    (∀ st loc, ∃ t, exec (.correctableErrorFreeze ⟨k, st, loc⟩) s = .next t ∧
      (t.core k).freezes = (if (s.core k).freezes ≠ 0 ∧ (s.core k).ceAt = some s.cc then (s.core k).freezes else (s.core k).freezes + 1) ∧
      (t.core k).ceCount = (s.core k).ceCount + 1 ∧ (t.core k).ceAt = some s.cc ∧
      (t.core k).frozenAt = some ((s.core k).frozenAt.getD s.cc) ∧ t.coreCc k = s.coreCc k) ∧
    ((s.core k).freezes = 1 → ∃ t, exec (.freezeEnd k) s = .next ((s.core k).held.foldl (fun s w => s.applyHeld k w) t) ∧
      (t.core k).freezes = 0 ∧ (t.core k).held = [] ∧ t.agenda = s.agenda ∧ t.mem = s.mem ∧
      ((∀ f, (s.core k).frozenAt = some f → f ≤ s.cc) → (t.core k).frozenAt = none ∧ t.coreCc k = s.coreCc k)) ∧
    (1 < (s.core k).freezes → ∃ t, exec (.freezeEnd k) s = .next t ∧ (t.core k).freezes = (s.core k).freezes - 1 ∧ t.agenda = s.agenda))

/-! ## Copy commands (05) -/

/-- R112, R114, R115, R117, R118, R120, R123, R127, R130: a command that the engine can start runs whole where it moves no other command's
data by beats: it has ended, memory is what its rows made of it (in one step, log entry 45), and its status is 0, 2 for a fault, 6 for a
link, 1 with a reason, 5 for an overrun, 3 for a codec failure. Where an access must wait, nothing but the turn of its channel has
changed. By beats it starts as the next of its round. R112, R109: a COPY of one row of bytes within the scratchpad: every byte of the
destination takes its source byte, as it was before where they overlap (log entry 66), every other byte of memory keeps its value, and the
command ends with status 0. R112, R113, R114, R46: a COPY or PUBLISH within the scratchpad whose rows keep clear of each other puts into
each element of its destination the source element, as it is or converted by way of its value and the tile scale, at its transposed place
with XPOSE, and +0 past the bounds; FP4 blocks are read by their scales, and written with the scales that QuantiseBlock gives them. Every
other byte of memory keeps its value; status and COUNT say so. -/
def Obligations.CopyCommandsRunAndMoveTheirBytes : Prop :=
  (∀ (k id : Nat) (s : State) (q : Cmd), (s.core k).cmd id = some q → s.canStart k q = true →
    (∀ n m, q.work = some m → Blk.kind q.blk ≠ 7 → Blk.kind q.blk ≠ 8 → s.usesRegs k q m = false →
      s.beat k id n = (s.passTurn k q).modCmd k id fun q => { q with phase := .running }) ∧
    (((s.core k).cmds.any Cmd.paced) = true → exec (.copy k id) s = .next s) ∧
    (((s.core k).cmds.any Cmd.paced) = false →
    let G := fun (kind spc : Nat) (m : Blk → Engine Unit) (r : Out) =>
      ((Blk.kind q.blk ≠ kind ∨ Blk.dspace q.blk ≠ spc) → r = .next s) ∧
      (Blk.kind q.blk = kind → Blk.dspace q.blk = spc → outcome (runEngine (m q.blk) ((s.passTurn k q).eng k q)) = none → r = .next (s.passTurn k q)) ∧
      (Blk.kind q.blk = kind → Blk.dspace q.blk = spc → ∀ h e c, outcome (runEngine (m q.blk) ((s.passTurn k q).eng k q)) = some (h, e) →
        (e.s.core k).cmd id = some c →
        ∃ t u, r = .next t ∧ t.mem = e.s.mem ∧ t.bad = e.s.bad ∧ (t.core k).imem = (e.s.core k).imem ∧ (t.core k).cmd id = some u ∧
          u.phase = .ended ∧ u.res.count = e.count ∧ u.wrote = e.wrote ∧
          (h = none → u.res.status = if e.codec = 0 then 0 else 3) ∧
          (∀ f, h = some (.fault f) → u.res.status = 2 ∧ u.res.fault = f) ∧ (h = some .link → u.res.status = 6) ∧
          (∀ n, h = some (.reject n) → u.res.status = 1 ∧ u.res.reason = n) ∧ (h = some .overrun → u.res.status = 5))
    G 1 0 copyAll (exec (.copy k id) s) ∧ G 1 1 copyImage (exec (.copyToImem k id) s) ∧ G 1 2 copyImage (exec (.copyToTemplateStore k id) s) ∧
    G 5 0 copyAll (exec (.publish k id) s) ∧ G 2 0 gatherAll (exec (.gather k id) s) ∧ G 4 0 poolAll (exec (.pool k id) s) ∧
    G 6 0 csrAll (exec (.csr k id) s) ∧ G 9 0 histAll (exec (.hist k id) s) ∧ G 10 0 buildAll (exec (.build k id) s))) ∧
  (∀ (k id : Nat) (s : State) (q : Cmd), (s.core k).cmd id = some q → s.canStart k q = true →
    ((s.core k).cmds.any Cmd.paced) = false →
    let b := q.blk
    let n := Blk.count b 0
    let src := Blk.src b
    let dst := Blk.dst b
    Blk.kind b = 1 → Blk.dspace b = 0 → Blk.srcl b = true → Blk.dstl b = true → Blk.xpose b = false → Blk.sfmt b = .n8 →
    Blk.sfmtCode b = Blk.dfmtCode b → 0 < n → Blk.count b 1 = 1 → Blk.count b 2 = 1 → Blk.count b 3 = 1 →
    n ≤ Blk.bound b 0 → 1 ≤ Blk.bound b 1 → src + n ≤ 0x200000 → dst + n ≤ 0x200000 → q.res.codec = 0 →
    ∃ t u, exec (.copy k id) s = .next t ∧ (t.core k).cmd id = some u ∧ u.phase = .ended ∧ u.res.status = 0 ∧
      (∀ i, i < n → t.byte (spad k (dst + i)) = s.byte (spad k (src + i))) ∧
      (∀ a, (a < spad k dst ∨ spad k (dst + n) ≤ a) → t.byte a = s.byte a)) ∧
  (∀ (k id : Nat) (s : State) (q : Cmd), (s.core k).cmd id = some q → s.canStart k q = true → ((s.core k).cmds.any Cmd.paced) = false →
    q.res.codec = 0 →
    let b := q.blk
    let c := Blk.count b
    let sf := Blk.sfmtCode b
    let df := Blk.dfmtCode b
    let w := (Blk.sfmt b).bits
    let v := (Blk.dfmt b).bits
    -- element `i` of `w` bits of the row at a local offset, and scale `n` of a plane
    let el := fun (t : State) (o w i : Nat) => t.nat (spad k (o + w * i / 8)) ((w + 7) / 8) / 2 ^ (w * i % 8) % 2 ^ w
    let sc := fun (t : State) (o n : Nat) => t.nat (spad k (o + 12 * n / 8)) 2 / 2 ^ (12 * n % 8) % 4096
    -- what is written in one piece: a row, or with XPOSE an element
    let piece := fun (p : Nat × Nat × Nat × Nat) =>
      p.1 < (if Blk.xpose b then c 0 else 1) ∧ p.2.1 < c 1 ∧ p.2.2.1 < c 2 ∧ p.2.2.2 < c 3
    let dst := fun (p : Nat × Nat × Nat × Nat) => Blk.dstElem b p.1 p.2.1 p.2.2.1 p.2.2.2
    let len := (if Blk.xpose b then v else c 0 * v) / 8
    let here := fun (i0 i1 : Nat) => decide (i0 < Blk.bound b 0) && decide (i1 < Blk.bound b 1)
    let apart := fun (x m y l : Nat) => x + m ≤ y ∨ y + l ≤ x
    (Blk.kind b = 1 ∨ (Blk.kind b = 5 ∧ Blk.xpose b = false)) → Blk.dspace b = 0 → Blk.srcl b = true → Blk.dstl b = true →
    c 0 * v % 8 = 0 → (Blk.xpose b = true → 8 ≤ w ∧ 8 ≤ v) →
    (sf = 5 ∨ df = 5 → c 0 % 8 = 0 ∧ c 3 = 1 ∧ (Blk.bound b 0 < c 0 → Blk.bound b 0 % 8 = 0)) →
    (∀ p, piece p → (Blk.kind b = 5 → s.halfRead (spad k (dst p)) len = false) ∧ (∀ r, piece r → r ≠ p → apart (dst p) len (dst r) len) ∧
      (∀ i1 i2 i3, i1 < c 1 → i1 < Blk.bound b 1 → i2 < c 2 → i3 < c 3 →
        apart (dst p) len (Blk.srcRow b i1 i2 i3) ((min (c 0) (Blk.bound b 0) * w + 7) / 8)) ∧
      (sf = 5 → apart (dst p) len (Blk.sstrN b 3) (Blk.planeLen b)) ∧ (df = 5 → apart (dst p) len (Blk.dstrN b 3) (Blk.planeLen b))) →
    ∃ t u, exec (if Blk.kind b = 1 then .copy k id else .publish k id) s = .next t ∧ (t.core k).cmd id = some u ∧ u.phase = .ended ∧
      u.res.status = 0 ∧ u.res.count = q.res.count + c 0 * c 1 * c 2 * c 3 ∧
      (∀ i0 i1 i2 i3, i0 < c 0 → i1 < c 1 → i2 < c 2 → i3 < c 3 →
        let code := el s (Blk.srcRow b i1 i2 i3) w
        let n := (i1 + c 1 * i2) * (c 0 / 8) + i0 / 8
        let val := fun (i : Nat) => if here i i1 then
            (if sf = 5 then blockVal (sc s (Blk.sstrN b 3) n) (code i) else fmtVal (Blk.sfmt b) (code i)).mul (floatVal f32F (Blk.scale b))
          else Machine.Num.fin false 0 0
        let Q := quantise ((List.range 8).map fun e => val (i0 / 8 * 8 + e))
        let new := if df = 5 ∧ sf ≠ 5 then Q.2.getD (i0 % 8) 0
          else if here i0 i1 then (if sf = df then code i0 else fmtCode (Blk.dfmt b) .ne (val i0)) else 0
        (if Blk.xpose b then el t (dst (i0, i1, i2, i3)) v 0 else el t (dst (0, i1, i2, i3)) v i0) = new % 2 ^ v ∧
        (df = 5 → sc t (Blk.dstrN b 3) n = (if sf = 5 then (if here i0 i1 then sc s (Blk.sstrN b 3) n else 0) else Q.1) % 4096)) ∧
      ∀ a, (∀ p, piece p → a < spad k (dst p) ∨ spad k (dst p) + len ≤ a) →
        (df = 5 → a < spad k (Blk.dstrN b 3) ∨ spad k (Blk.dstrN b 3) + Blk.planeLen b ≤ a) → t.byte a = s.byte a)

/-- R116, R122, R101, R102: an RREAD sends its requests and runs until its last row has been written; DECODE and ENCODE run block by
block, each at its turn at the pipe, whose places are in the order of log entry 81. R105, R106, R107, R111, R126, R128: a command that has
ended completes: it is outstanding no more, its tag counts one less and its bit is set at zero, the watermark of its channel moves over
it, and its status entry is stored where SR_COPYSTAT asks for it; but not in a cycle of which a word has read what that changes (R317).
The Almanac lets its first command go when its TIME has come. -/
def Obligations.RowCommandsRunAndComplete : Prop :=
  (∀ (k id n : Nat) (s : State) (q : Cmd), (s.core k).cmd id = some q →
    (∀ rows h e c, s.canStart k q = true → Blk.kind q.blk = 3 →
      runEngine (rreadRows q.blk 0 (Blk.count q.blk 1)) ((s.passTurn k q).eng k q) = (.ok (rows, h), e) → (e.s.core k).cmd id = some c →
      ∃ t u, exec (.rread k id) s = .next t ∧ t.mem = e.s.mem ∧ (t.core k).cmd id = some u ∧
        u.phase = (if rows.isEmpty then .ended else .running) ∧ (rows.isEmpty = false → u.rows = rows)) ∧
    (q.phase = .running → q.rows.has n = true →
      let i := q.rows.get 0 n
      let home := bits i 28 21
      let pa := spad home (bits i 20 0)
      s.farCut k home = false →
      (s.frozen home = true → exec (.rreadReply k id n) s = .next (s.holdAt home (.reply k id n))) ∧
      (s.frozen home = false → s.pathHolds k pa (Blk.rowIn q.blk) = false → s.frozen k = true → exec (.rreadReply k id n) s = .next (s.holdAt k (.reply k id n))) ∧
      (∀ h e c, s.frozen home = false → s.frozen k = false → s.pathHolds k pa (Blk.rowIn q.blk) = false → outcome (runEngine (replyRow q.blk pa n) (s.eng k q)) = some (h, e) →
        (e.s.core k).cmd id = some c →
        ∃ t u, exec (.rreadReply k id n) s = .next t ∧ t.mem = e.s.mem ∧ (t.core k).cmd id = some u ∧ u.rows.has n = false)) ∧
    (s.canStart k q = true → Blk.count q.blk 0 ≠ 0 →
      (Blk.kind q.blk = 7 → ∃ t, exec (.decode k id) s = .next t ∧ (t.core k).cmd id = some { q with phase := .running } ∧ t.mem = s.mem) ∧
      (Blk.kind q.blk = 8 → ∃ t, exec (.encode k id) s = .next t ∧ (t.core k).cmd id = some { q with phase := .running } ∧ t.mem = s.mem)) ∧
    (inTurn decodePlaces (s.core k).decTurn (s.decodeReady k) (80 + q.place) = false → exec (.codecDecodeBlock (.cmd k id)) s = .next s) ∧
    (inTurn 20 (s.core k).encTurn ((s.core k).blocksReady 8) q.place = false → exec (.codecEncodeBlock (.cmd k id)) s = .next s) ∧
    (∀ tb h e c, q.phase = .running → q.table = some tb → s.frozen k = false → (e.s.core k).cmd id = some c →
      (s.core k).midBlock (Blk.kind q.blk) = false →
      let B := fun (r : Out) => ∃ t u, r = .next t ∧ t.mem = e.s.mem ∧ (t.core k).cmd id = some u ∧ u.block = c.block + 1 ∧
        (u.phase = .ended ↔ (h ≠ none ∨ c.block + 1 = Blk.count c.blk 0 ∨ c.phase = .ended))
      (Blk.kind q.blk = 7 → inTurn decodePlaces (s.core k).decTurn (s.decodeReady k) (80 + q.place) = true → outcome (runEngine (decodeOne q.blk tb q.block) (s.eng k q)) = some (h, e) → B (exec (.codecDecodeBlock (.cmd k id)) s)) ∧
      (Blk.kind q.blk = 8 → inTurn 20 (s.core k).encTurn ((s.core k).blocksReady 8) q.place = true → outcome (runEngine (encodeOne q.blk tb q.block) (s.eng k q)) = some (h, e) → B (exec (.codecEncodeBlock (.cmd k id)) s)))) ∧
  (∀ (k id : Nat) (s : State) (q : Cmd), (s.core k).cmd id = some q → s.frozen k = false →
    let c := s.ctx k q.ctx
    let n := c.counts.get 0 q.tag - 1
    (q.phase = .ended → (s.core k).sampledAt = some (s.coreCc k) → exec (.copyCompletion k id) s = .next s) ∧
    (q.phase = .ended → q.tag < 64 → (s.core k).sampledAt ≠ some (s.coreCc k) →
      ∃ t, exec (.copyCompletion k id) s = .next t ∧
        let d := t.ctx k q.ctx
        (t.core k).cmd id = none ∧ d.counts.get 0 q.tag = n ∧ (n = 0 → d.tags.getLsbD q.tag = true) ∧
        (∀ j, j ≠ q.tag → d.tags.getLsbD j = c.tags.getLsbD j) ∧
        ((c.chan q.chan).ahead = [] → q.xid = ((c.chan q.chan).mark + 1) % 2 ^ 32 → (d.chan q.chan).mark = q.xid) ∧
        (d.chan q.chan).nextId = (c.chan q.chan).nextId ∧
        (c.copyStat.getLsbD 0 = false → t.mem = s.mem) ∧
        (c.copyStat.getLsbD 0 = true →
          let a := spad k (bits c.copyStat.toNat 20 12 * 4096 + 64 * q.tag)
          t.nat a 64 = statusEntry q % 2 ^ 512 ∧ ∀ b, b < a ∨ a + 64 ≤ b → t.byte b = s.byte b)) ∧
    (q.phase ≠ .ended → exec (.copyCompletion k id) s = .next s) ∧
    (∀ time, q.time = some time → time ≤ s.gtc →
      (∀ r ∈ (s.core k).cmds, ∀ u, r.time = some u → time < u ∨ (time = u ∧ id ≤ r.id)) →
      ∃ t, exec (.almanacRelease k id) s = .next t ∧ (t.core k).cmd id = some { q with time := none } ∧ t.mem = s.mem))

/-- R115, R117, R423: within the scratchpad, a GATHER puts into row r the row that entry r of its list names, each element as it is or
converted by way of its value and the tile scale, or zeros for the null entry; a POOL puts into element j of bag r the format's code of
the FP32 sum that takes the bag's entries in order, each product fused into the sum and rounded once, null entries left out. Every other
byte of memory keeps its value, and so does the half of a byte past an odd number of 4-bit elements. R120, R121: within the scratchpad, a
CSR whose values fit leaves the elements that are not zero, row by row and column by column, in the values array, the column of each in
the columns array, and before each row and after the last the number kept so far in the row pointers. Every other byte of memory keeps its
value. One whose values do not fit ends with status 5. -/
def Obligations.RowCommandsPlaceTheirBytes : Prop :=
  (∀ (k id : Nat) (s : State) (q : Cmd), (s.core k).cmd id = some q → s.canStart k q = true → q.res.codec = 0 → q.bad = false →
    ((s.core k).cmds.any Cmd.paced) = false →
    let b := q.blk
    let null := 0xFFFFFFFF
    let idx := fun (j : Nat) => s.nat (spad k (Blk.idxAt b + 4 * j)) 4
    let row := fun (j : Nat) => (Blk.src b : Int) + idx j * Blk.sstr b 1
    let out := fun (r : Nat) => (Blk.dst b : Int) + r * Blk.dstr b 1
    let n := Blk.count b 0
    let w := (Blk.sfmt b).bits
    let v := (Blk.dfmt b).bits
    let rowIn := (n * w + 7) / 8
    let rowOut := (n * v + 7) / 8
    -- element `i` of `w` bits of the row at a local offset
    let el := fun (t : State) (o w i : Nat) => t.nat (spad k (o + w * i / 8)) ((w + 7) / 8) / 2 ^ (w * i % 8) % 2 ^ w
    let apart := fun (x : Int) (m : Nat) (y : Int) (l : Nat) => x + m ≤ y ∨ y + l ≤ x
    -- `m` list entries and `rows` destination rows lie in the scratchpad, clean and apart
    let placed := fun (m rows : Nat) =>
      (∀ r, r < rows → 0 ≤ out r ∧ out r + rowOut ≤ 0x200000 ∧ ∀ i, i < r → apart (out r) rowOut (out i) rowOut) ∧
      ∀ j, j < m → s.badIn (spad k (Blk.idxAt b + 4 * j)) 4 = false ∧
        (∀ r, r < rows → apart (out r) rowOut (Blk.idxAt b + 4 * j : Nat) 4) ∧
        (idx j ≠ null → 0 ≤ row j ∧ row j + rowIn ≤ 0x200000 ∧ s.badIn (spad k (row j).toNat) rowIn = false ∧
          ∀ r, r < rows → apart (out r) rowOut (row j) rowIn)
    let kept := fun (t : State) (rows : Nat) =>
      (∀ a, (∀ r, r < rows → a < spad k (out r).toNat ∨ spad k (out r).toNat + rowOut ≤ a) → t.byte a = s.byte a) ∧
      (v = 4 → n % 2 = 1 → ∀ r, r < rows → el t (out r).toNat v n = el s (out r).toNat v n)
    Blk.dspace b = 0 → Blk.srcl b = true → Blk.dstl b = true → Blk.sfmtCode b ≠ 5 → Blk.dfmtCode b ≠ 5 →
    (Blk.kind b = 2 → placed (Blk.count b 1) (Blk.count b 1) →
      ∃ t u, exec (.gather k id) s = .next t ∧ (t.core k).cmd id = some u ∧ u.phase = .ended ∧ u.res.status = 0 ∧
        u.res.count = q.res.count + Blk.count b 1 ∧ kept t (Blk.count b 1) ∧
        ∀ r j, r < Blk.count b 1 → j < n →
          let x := el s (row r).toNat w j
          el t (out r).toNat v j = (if idx r = null then 0 else if Blk.sfmtCode b = Blk.dfmtCode b then x
            else fmtCode (Blk.dfmt b) .ne ((fmtVal (Blk.sfmt b) x).mul (floatVal f32F (Blk.scale b)))) % 2 ^ v) ∧
    (Blk.kind b = 4 → placed (Blk.count b 1 * Blk.count b 2) (Blk.count b 2) →
      (∀ j, j < Blk.count b 1 * Blk.count b 2 → s.badIn (spad k (Blk.wgtAt b + 4 * j)) 4 = false ∧
        ∀ r, r < Blk.count b 2 → apart (out r) rowOut (Blk.wgtAt b + 4 * j : Nat) 4) →
      ∃ t u, exec (.pool k id) s = .next t ∧ (t.core k).cmd id = some u ∧ u.phase = .ended ∧ u.res.status = 0 ∧
        u.res.count = q.res.count + Blk.count b 2 ∧ kept t (Blk.count b 2) ∧
        ∀ r j, r < Blk.count b 2 → j < n →
          let sum := (List.range (Blk.count b 1)).foldl (fun (a : Nat) i =>
            let e := r * Blk.count b 1 + i
            if idx e = null then a else
            let weight := floatVal f32F (s.nat (spad k (Blk.wgtAt b + 4 * e)) 4)
            let x := fmtVal (Blk.sfmt b) (el s (row e).toNat w j)
            floatCode f32F .ne (Sys2Proof.Machine.Num.add false (weight.mul x) (floatVal f32F a))) 0
          el t (out r).toNat v j = fmtCode (Blk.dfmt b) .ne (floatVal f32F sum) % 2 ^ v)) ∧
  (∀ (k id : Nat) (s : State) (q : Cmd), (s.core k).cmd id = some q → s.canStart k q = true → q.res.codec = 0 → q.res.count = 0 →
    q.bad = false → ((s.core k).cmds.any Cmd.paced) = false →
    let b := q.blk
    let n := Blk.count b 0
    let m := Blk.count b 1
    let w := (Blk.sfmt b).bits / 8
    let row := fun (r : Nat) => (Blk.src b : Int) + r * Blk.sstr b 1
    let elem := fun (r c : Nat) => s.nat (spad k ((row r).toNat + c * w)) w
    let rowOf := fun (r : Nat) => (List.range n).filterMap fun c => if (fmtVal (Blk.sfmt b) (elem r c)).isZero then none else some (c, elem r c)
    let upTo := fun (r : Nat) => (List.range r).flatMap rowOf
    let vals := Blk.dst b
    let cols := Blk.aux b 63 0
    let ptrs := Blk.rowPtr b
    let cap := Blk.cap b
    Blk.kind b = 6 → Blk.dspace b = 0 → Blk.srcl b = true → Blk.dstl b = true → 8 ≤ (Blk.sfmt b).bits → Blk.sfmtCode b = Blk.dfmtCode b →
    vals + cap * w ≤ 0x200000 → cols + 4 * cap ≤ 0x200000 → ptrs + 4 * (m + 1) ≤ 0x200000 →
    (vals + cap * w ≤ cols ∨ cols + 4 * cap ≤ vals) → (vals + cap * w ≤ ptrs ∨ ptrs + 4 * (m + 1) ≤ vals) →
    (cols + 4 * cap ≤ ptrs ∨ ptrs + 4 * (m + 1) ≤ cols) →
    (∀ r, r < m → 0 ≤ row r ∧ row r + n * w ≤ 0x200000 ∧ s.badIn (spad k (row r).toNat) (n * w) = false ∧
      (row r + n * w ≤ vals ∨ vals + cap * w ≤ row r) ∧ (row r + n * w ≤ cols ∨ cols + 4 * cap ≤ row r)) →
    ((upTo m).length ≤ cap →
      ∃ t u, exec (.csr k id) s = .next t ∧ (t.core k).cmd id = some u ∧ u.phase = .ended ∧ u.res.status = 0 ∧
        u.res.count = (upTo m).length ∧
        (∀ i, i < (upTo m).length →
          t.nat (spad k (vals + i * w)) w = ((upTo m).getD i (0, 0)).2 ∧ t.nat (spad k (cols + 4 * i)) 4 = ((upTo m).getD i (0, 0)).1) ∧
        (∀ r, r ≤ m → t.nat (spad k (ptrs + 4 * r)) 4 = (upTo r).length % 2 ^ 32) ∧
        ∀ a, (a < spad k vals ∨ spad k (vals + cap * w) ≤ a) → (a < spad k cols ∨ spad k (cols + 4 * cap) ≤ a) →
          (a < spad k ptrs ∨ spad k (ptrs + 4 * (m + 1)) ≤ a) → t.byte a = s.byte a) ∧
    (cap < (upTo m).length → ∃ t u, exec (.csr k id) s = .next t ∧ (t.core k).cmd id = some u ∧ u.phase = .ended ∧ u.res.status = 5))

/-- R95, R97, R100, R123: a HIST leaves for each symbol of its format the number of elements that have it, at most 2³² - 1; a BUILD leaves
a block that the codec takes as a table, of its identifier and format, with the lengths that R97 builds from the counts. The block of a
DECODE holds the bytes decoded, that of an ENCODE the block encoded. Every other byte of memory keeps its value. -/
def Obligations.HistogramsTablesAndBlocksHoldTheirBytes : Prop :=
  ∀ (k id : Nat) (s : State) (q : Cmd), (s.core k).cmd id = some q → q.bad = false →
    let b := q.blk
    let paced := (s.core k).cmds.any Cmd.paced
    let kept := fun (t : State) (n : Nat) => ∀ a, (a < spad k (Blk.dst b) ∨ spad k (Blk.dst b + n) ≤ a) → t.byte a = s.byte a
    (s.canStart k q = true → paced = false → Blk.kind b = 9 → Blk.dspace b = 0 → codecFmt (Blk.sfmt b) = true →
      let f := Blk.sfmt b
      let syms := (List.range (Blk.count b 0)).flatMap fun i =>
        (unpack f.bits (8 * Blk.valid b i / f.bits) (s.bytes (spad k (Blk.src b + 4096 * i)) (Blk.valid b i))).map fun e => (symOf f e).1
      ∃ t u, exec (.hist k id) s = .next t ∧ (t.core k).cmd id = some u ∧ u.phase = .ended ∧ kept t (4 * alphabet f) ∧
        ∀ y, y < alphabet f → t.nat (spad k (Blk.dst b + 4 * y)) 4 = min (2 ^ 32 - 1) (syms.count y)) ∧
    (s.canStart k q = true → paced = false → Blk.kind b = 10 → Blk.dspace b = 0 → codecFmt (Blk.dfmt b) = true →
      let counts := (List.range (alphabet (Blk.dfmt b))).map fun y => s.nat (spad k (Blk.src b + 4 * y)) 4
      ∃ t u, exec (.build k id) s = .next t ∧ (t.core k).cmd id = some u ∧ u.phase = .ended ∧ kept t 512 ∧
        tableOf (t.bytes (spad k (Blk.dst b)) 512) =
          some { tid := BitVec.ofNat 32 (Blk.aux b 63 32), fmt := Blk.dfmt b, lens := buildLengths counts }) ∧
    (∀ tb, q.phase = .running → q.table = some tb → s.frozen k = false → (s.core k).midBlock (Blk.kind b) = false →
      let i := q.block
      let d := 256 * Blk.dsz b
      let at' := spad k (Blk.dst b + 4096 * i)
      (Blk.kind b = 7 → inTurn decodePlaces (s.core k).decTurn (s.decodeReady k) (80 + q.place) = true → Blk.srcl b = true →
        Blk.src b + i * d + d ≤ 0x200000 → tb.bad = false → s.badIn (spad k (Blk.src b + i * d)) d = false →
        ∀ raw v, decodeBlock tb (s.bytes (spad k (Blk.src b + i * d)) d) = some (raw, v) →
          ∃ t u, exec (.codecDecodeBlock (.cmd k id)) s = .next t ∧ (t.core k).cmd id = some u ∧ u.block = i + 1 ∧ u.res.codec = q.res.codec ∧
            t.bytes at' 4096 = raw ∧ ∀ a, (a < at' ∨ at' + 4096 ≤ a) → t.byte a = s.byte a) ∧
      (Blk.kind b = 8 → inTurn 20 (s.core k).encTurn ((s.core k).blocksReady 8) q.place = true → Blk.dstl b = true →
        Blk.dst b + 4352 * i + 4352 ≤ 0x200000 →
        let out := spad k (Blk.dst b + 4352 * i)
        let x := encodeBlock tb 4352 (s.bytes (spad k (Blk.src b + 4096 * i)) (Blk.valid b i))
        ∃ t u, exec (.codecEncodeBlock (.cmd k id)) s = .next t ∧ (t.core k).cmd id = some u ∧ u.block = i + 1 ∧
          t.bytes out 4352 = x.1 ∧ x.2 ≤ u.res.ares ∧ ∀ a, (a < out ∨ out + 4352 ≤ a) → t.byte a = s.byte a))

/-- R89 to R91, R93, R98, R100: the codec loses nothing. A block that a table encodes decodes under that table to the valid bytes it was
made of, followed by zeros. -/
def Obligations.EncodedBlocksDecodeToTheirBytes : Prop :=
  ∀ (tab valid : List Byte) (tb : CodecTable), tableOf tab = some tb → 0 < valid.length → valid.length ≤ 4096 →
    (tb.fmt = .bf16 → valid.length % 2 = 0) →
    decodeBlock tb (encodeBlock tb 4352 valid).1 = some (valid ++ List.replicate (4096 - valid.length) 0, valid.length - 1)

/-! ## Stream engines (06) -/

/-- R135, R136, R140, R141, R142, R144 to R147, R149: an item of a nest without unfolds lies at BASE plus each level's index times its
stride; the items of a local stream lie at those offsets of its scratchpad. A source reserves a line, at its turn, and one at its target
where it sends, for its next element and goes on to the kept position after it; a line whose items have arrived is full and holds each
item of a local stream in its place, zeros elsewhere; a sink's head line becomes free, and each item of a local one has been written where
it lies, no other byte (a restored line without a position goes nowhere, log entry 108); before that, some of a line's words may be read
or written on their own (R354). An engine that needs its mask latches a full one; a poisoned one fails the stream. R101, R103, R104, R151,
R153, R154, R155: the elements of a port reach their target in order, into its next free line, which frees the line of a sink that sent
them, once its core is not frozen; they wait until the port is an active peer source; one that SEND has ended discards them, and that line
is freed too (log entry 80); those for a context no longer bound are dropped (log entry 55); the end marker ends it once its lines are
popped. A codec source decodes, at its turn at the pipe (log entry 81), the block that its next item needs into the first lines of its
buffer. -/
def Obligations.StreamElementsMoveAndArrive : Prop :=
  (∀ (k x n i : Nat) (s t : State) (items : List Item),
    let p := s.port k x n
    let c := p.cfg
    let w := (Conf.fmt c).bits / 8
    let plain := Conf.kind c = 1 ∧ Conf.fmtCode c ≠ 5 ∧ 8 ≤ (Conf.fmt c).bits
    (∀ (c : Conf) (j : Nat) (pos : Pos), c.unfolds = [] →
      c.itemAddr j pos = some ((if c.isCodec then 0 else 2 * (c.base : Int)) + j * ((c.fmt.bits : Int) / 4) + pos.i1 * (2 * sgn 32 (c.str 1))
        + pos.i2 * (2 * sgn 32 (c.str 2)) + pos.i3 * (2 * sgn 32 (c.str 3)) + pos.i4 * (2 * sgn 32 (c.str 4)) + pos.i5 * (2 * sgn 32 (c.str 5)))) ∧
    (∀ (acc : AccessKind) (pos : Pos) (m : Nat), Conf.kind c = 1 → s.placeItems k x n c acc pos m = (.ok items, t) →
      t = s ∧ items.length = m ∧ ∀ j, j < m → items[j]?.map (·.pa) = some ((Conf.itemAddr c j pos).map fun a => spad k (wrap 64 (a / 2)))) ∧
    (let mine := (s.core k).genAt ≠ some (s.coreCc k) ∧ inTurn 80 (s.core k).genTurn (fun j => s.canGenerate k (j / 16) (j % 16)) (16 * x + n) = true
    (¬ mine → exec (.streamElementGenerate k x n) s = .next s) ∧
    ∀ to', mine → n < 16 → s.engineOn k x n false = true → Conf.isPeer c = false → p.ended = false → Conf.atEnd c p.fpos = false →
      Conf.keeps c p.mask p.fpos = true → p.lines.length < Conf.ring c →
      ((Conf.pval c && p.fpos.atOrAfter p.sendFrom) = false ∧ to' = none ∨
        (Conf.pval c && p.fpos.atOrAfter p.sendFrom) = true ∧ ∃ y, s.sending k x n = .to y ∧ to' = some y) →
      s.placeItems k x n c .source p.fpos (Conf.count c 0) = (.ok items, t) → Conf.scaleMiss c p.fpos items = none →
      ∃ u, exec (.streamElementGenerate k x n) s = .next u ∧ u.mem = t.mem ∧ (u.core k).genTurn = 16 * x + n + 1 ∧
        (u.port k x n).lines = (t.port k x n).lines ++ [{ pos := (t.port k x n).fpos, frm := (t.port k x n).next, full := false, gen := t.nextId, items := items }] ∧
        (u.port k x n).fpos = Conf.after (t.port k x n).cfg (t.port k x n).mask (t.port k x n).fpos ∧
        ∀ y, to' = some y → mkElem t.nextId k x n y 0 0 false ∈ u.elems) ∧
    (∀ l b, p.lines[i]? = some l → l.full = false → p.act = true → Conf.sink c = false → Conf.isPeer c = false → Conf.isCodec c = false →
      s.frozen k = false → Conf.fmtCode c ≠ 5 →
      (l.items.any (·.ord == 0) && (p.lines.take i).any (fun m => !m.full && m.items.any (·.ord == 0))) = false →
      s.itemsCut k (Conf.itemBytes c) (l.left l.items) = none → s.readElem (s.src k x) c (l.left l.items) l.built = (b, t) →
      (∀ m, ∃ u l', u = s.fetchPart k x n i m ∧ (u.port k x n).lines[i]? = some l' ∧ l'.full = false ∧ l'.pos = l.pos ∧ l.got ≤ l'.got ∧
        l'.got ≤ l.got + m ∧ u.mem = (s.readElem (s.src k x) c (l.next l.items m).1 l.built).2.mem) ∧
      ∃ u, exec (.streamLineFull k x n i) s = .next u ∧
        u.port k x n = (t.port k x n).setLine i { pos := l.pos, full := true, gen := l.gen } ∧
        let a := spad k ((t.port k x n).lineOf i)
        vecOf (u.bytes a 256) = BitVec.ofNat 2048 b.v ∧ (∀ y, y < a ∨ a + 256 ≤ y → u.byte y = t.byte y) ∧
        (plain → l.got = 0 → l.part = 0 → l.items.length * w ≤ 256 →
          (∀ j it, l.items[j]? = some it → u.nat (a + j * w) w = match it.pa with
            | some pa => s.nat pa w
            | none => 0) ∧
          ∀ y, l.items.length * w ≤ y → y < 256 → u.byte (a + y) = 0)) ∧
    (∀ l ls, s.engineOn k x n true = true → Conf.isPeer c = false → p.lines = l :: ls → Conf.atEnd c l.pos = true →
      exec (.streamDrain k x n) s = .next (s.modPort k x n Port.freeHead)) ∧
    (∀ l ls, s.engineOn k x n true = true → Conf.isPeer c = false → p.lines = l :: ls → Conf.atEnd c l.pos = false →
      s.drainItems k x n l = (.ok items, t) → t.itemsCut k (Conf.itemBytes c) (l.left items) = none →
      let line := spad k (p.lineOf 0)
      let r := t.look none line 256
      exec (.streamDrain k x n) s =
        .next ((r.writeElem (r.src k x) c (leNat (t.bytes line 256)) (r.lineBad line) (l.left items)).modPort k x n Port.freeHead) ∧
      (plain → l.got = 0 → items.length * w ≤ 256 → ∃ u, exec (.streamDrain k x n) s = .next u ∧
        (∀ j it pa, items[j]? = some it → it.pa = some pa →
          (∀ m it' pa', j < m → items[m]? = some it' → it'.pa = some pa' → pa + w ≤ pa' ∨ pa' + w ≤ pa) →
          u.nat pa w = s.nat (line + j * w) w) ∧
        ∀ y, (∀ it pa, it ∈ items → it.pa = some pa → y < pa ∨ pa + w ≤ y) → u.byte y = s.byte y)) ∧
    (let g := (s.ctx k x).g.get {} (Conf.mreg c)
     ((p.wantsMask = false ∨ s.frozen k = true ∨ g.full = false) → exec (.maskLatch k x n) s = .next s) ∧
     (p.wantsMask = true → s.frozen k = false → g.full = true →
       ∃ u, exec (.maskLatch k x n) s = .next u ∧ (u.port k x n).latch = some (g.v, g.bad) ∧ u.mem = s.mem ∧ (g.bad = true → (u.port k x n).flt = true)))) ∧
  (∀ (id : Nat) (s : State),
    (∀ e, (s.elems.find? fun e => e.id == id) = some e → s.behind e = false → s.farCut e.core e.toCore = false →
      let p := s.port e.toCore e.toCtx e.toSp
      let from' := s.port e.core e.ctx e.sp
      let a := spad e.toCore (p.lineOf p.lines.length)
      (s.lostTarget e = true → e.ready = true → e.isEnd = false → exec (.peerElementArrival id) s = .next (s.dropElem id)) ∧
      (s.lostTarget e = true → e.isEnd = true → exec (.endMarkerArrival id) s = .next (s.dropElem id)) ∧
      (s.lostTarget e = false → p.peerSource = false →
        (e.isEnd = false → exec (.peerElementArrival id) s = .next s) ∧ (e.isEnd = true → exec (.endMarkerArrival id) s = .next s)) ∧
      (s.lostTarget e = false → p.peerSource = true →
        (e.isEnd = false → e.ready = true → p.lines.length < Conf.ring p.cfg →
          (s.frozen e.toCore = true → exec (.peerElementArrival id) s = .next (s.holdAt e.toCore (.element id))) ∧
          (s.frozen e.toCore = false → ∃ t, exec (.peerElementArrival id) s = .next t ∧ (∀ f ∈ t.elems, f.id ≠ id) ∧
            (s.frozen e.core = false → from'.act = true → Conf.sink from'.cfg = true → (t.port e.core e.ctx e.sp).lines = from'.lines.tail) ∧
            (s.frozen e.core = true → (t.core e.core).held = (s.core e.core).held ++ [.ctl e.core (.freed e.ctx e.sp)]) ∧
            (p.ended = true → (t.port e.toCore e.toCtx e.toSp).lines = p.lines ∧ t.mem = s.mem) ∧
            (p.ended = false → (t.port e.toCore e.toCtx e.toSp).lines = p.lines ++ [{ pos := p.cpos, full := true }] ∧
              vecOf (t.bytes a 256) = e.data ∧ ∀ y, y < a ∨ a + 256 ≤ y → t.byte y = s.byte y))) ∧
        (e.isEnd = true →
          (s.frozen e.toCore = true → exec (.endMarkerArrival id) s = .next (s.holdAt e.toCore (.marker id))) ∧
          (s.frozen e.toCore = false → ∃ t, exec (.endMarkerArrival id) s = .next t ∧ (∀ f ∈ t.elems, f.id ≠ id) ∧ t.mem = s.mem ∧
            (t.port e.toCore e.toCtx e.toSp).endGot = true ∧
            (t.port e.toCore e.toCtx e.toSp).ended = (p.ended || p.lines.isEmpty))))) ∧
    (∀ (k x n i blk v : Nat) (l : Line) (tb : CodecTable) (bs : List PByte) (raw : List Byte) (e : Eng),
      let p := s.port k x n
      x < 5 → n < 16 → p.wants = some (i, l, blk) → p.table = some tb → p.act = true → Conf.isCodec p.cfg = true → s.frozen k = false → (s.core k).midBlock 7 = false →
      let mine := inTurn decodePlaces (s.core k).decTurn (s.decodeReady k) (16 * x + n)
      let d := 256 * Conf.dsz p.cfg
      let at' := spad k (Conf.bufl p.cfg)
      (mine = false → exec (.codecDecodeBlock (.port k x n)) s = .next s) ∧
      (mine = true →
        runEngine (engRead false (engAddr (Conf.base p.cfg + (blk * d : Nat))) d .source) { s := s, rq := s.rq k x 7, src := s.src k x } =
          (.ok bs, e) →
        (bs.any (·.2)) = false → tb.bad = false →
        (decodeBlock tb (bs.map (·.1)) = some (raw, v) →
          ∃ t, exec (.codecDecodeBlock (.port k x n)) s = .next t ∧ (t.port k x n).block = some blk ∧
            (t.port k x n).cst = (e.s.port k x n).cst ∧ t.bytes at' 4096 = raw ∧ ∀ y, y < at' ∨ at' + 4096 ≤ y → t.byte y = e.s.byte y) ∧
        (decodeBlock tb (bs.map (·.1)) = none → (e.s.port k x n).cst = 0 →
          ∃ t, exec (.codecDecodeBlock (.port k x n)) s = .next t ∧ (t.port k x n).block = some blk ∧ (t.port k x n).cst = 4 ∧
            ∀ y, y < at' ∨ at' + 4096 ≤ y → t.byte y = e.s.byte y))))

/-! ## Chains, counters, cards, Summit (13, 15) -/

/-- R390, R392, R393: a chain fetches its next entry; the entry waits until it is the first in line and its slots are there, takes them,
and then starts: one of KIND 01h issues its command on the chain's channel, with the chain's tenant, as soon as channel and tag have room
(R107), and one that the check of R111 refuses stops the chain. Posts come in entry order, and wait while the core is frozen (R420); a
write of a counter sets COUNT and counts in SEQ; an audit finds bad parity, stops what waits on the counter and logs class 7, or finds a
shortfall that has held and logs class 6. The model's choices: an entry is run whatever its poison, which its command carries (log entry
28); one that fails still makes the posts of the entries before (log entry 23); the interval starts again after each entry logged (log
entry 32); a parity flip comes with the event (log entry 35); that a tripped device takes no write of a counter is R463, in the reading of
log entry 105; a command that is issued in no cycle in which a word has read its channel is log entry 133. -/
def Obligations.ChainsAndCountersMove : Prop :=
  ∀ (k x n ten m : Nat) (v : BitVec 64) (s : State),
    (∀ h va, s.chainOf k x n = some h → h.next = some va → h.running = true → h.entry = none → h.failed = false → s.frozen k = false →
      let ten := s.chainTenant k x h
      let log := if ten = 16 then s.coreTenant k else some ten
      let r : Src := { ten := ten, log := log, core := k, ctx := x }
      let fails := some { h with running := false, failed := true }
      (∀ f t, s.translate ⟨k, x, ten, 8, n⟩ va 128 .read = (.error f, t) →
        ∃ w, exec (.chainEntryFetch k x n) s = .next w ∧ w.chainOf k x n = fails ∧
          w.mem = (t.logError log { cls := 14, core := k, ctx := x, sys := ten == 16, d0 := va, fault := f }).mem) ∧
      (∀ ps t, s.translate ⟨k, x, ten, 8, n⟩ va 128 .read = (.ok ps, t) → (ps.any fun p => (t.linkCut k p.1.pa).isSome) = false →
        ((ps.any fun p => t.notNow k p.1.pa p.2) = true → exec (.chainEntryFetch k x n) s = .next t) ∧
        ((ps.any fun p => t.notNow k p.1.pa p.2) = false → ∀ bs pois u, t.readParts r .read ps = (bs, pois, u) →
          let e : ChainEntry := { va := va, raw := BitVec.ofNat 1024 (leNat bs), bad := pois }
          ((e.malformed || e.wen && (u.ctr ten e.wctr).refusesWait) = false →
            ∃ w, exec (.chainEntryFetch k x n) s = .next w ∧ w.mem = u.mem ∧ w.chainOf k x n = some { h with entry := some e }) ∧
          ((e.malformed || e.wen && (u.ctr ten e.wctr).refusesWait) = true →
            ∃ w, exec (.chainEntryFetch k x n) s = .next w ∧ w.mem = u.mem ∧ w.chainOf k x n = fails)))) ∧
    (∀ h e, s.chainOf k x n = some h → h.entry = some e → (h.running = true ∨ e.took = true) → s.frozen k = false →
      let ten := s.chainTenant k x h
      let r := s.ctr ten e.wctr
      let there := r.waiters.head? = some (k, x, n) ∧ e.wcnt ≤ r.count
      let room := s.cmdRoom k x (chainBlk e.cmd n) = true ∧ (s.core k).sampledAt ≠ some (s.coreCc k)
      let p : ChainPost := { post := if e.pen then some (e.pctr, e.pcnt) else none, took := if e.wen && e.pen then e.wcnt else 0, wctr := e.wctr,
                             cmd := if e.kind = 1 then some s.nextId else none, last := e.last }
      let gone := { h with entry := none, next := if e.last then none else some e.next, posts := h.posts ++ [p] }
      let count := if e.waits then (r.count - e.wcnt) % 2 ^ 32 else r.count
      (e.waits = true → r.refusesWait = true →
        ∃ w, exec (.chainSlotConsume k x n) s = .next w ∧ w.mem = s.mem ∧
          w.chainOf k x n = some { h with entry := none, next := some e.va, running := false, failed := true }) ∧
      (e.waits = true → r.refusesWait = false → ¬ there → exec (.chainSlotConsume k x n) s = .next s) ∧
      ((e.waits = true → r.refusesWait = false ∧ there) →
        (e.kind = 2 → ∃ w, exec (.chainSlotConsume k x n) s = .next w ∧ w.chainOf k x n = some gone ∧ w.mem = s.mem ∧ (w.ctr ten e.wctr).count = count) ∧
        (e.kind = 1 → ¬ room → ∃ w, exec (.chainSlotConsume k x n) s = .next w ∧ w.mem = s.mem ∧ (w.ctr ten e.wctr).count = count ∧
          w.chainOf k x n = some { h with entry := some { e with took := e.took || e.waits } }) ∧
        (e.kind = 1 → room → n < 4 → let u := (if e.waits then s.takeSlots k x n ten h e else s).setChain k x n gone
          (∀ tb, u.checkBlk k x e.cmd = .ok tb → Blk.chan e.cmd = n → Blk.timed e.cmd = false →
            ∃ w, exec (.chainSlotConsume k x n) s = .next w ∧ w.chainOf k x n = some gone ∧ w.mem = s.mem ∧ (w.ctr ten e.wctr).count = count ∧
              (∃ q ∈ (w.core k).cmds, q.id = s.nextId ∧ q.ctx = x ∧ q.chan = n ∧ q.ten = ten ∧ q.blk = chainBlk e.cmd n ∧ q.time = none ∧ q.table = tb ∧
                q.bad = e.bad)) ∧
          ((Blk.chan e.cmd ≠ n ∨ Blk.timed e.cmd = true ∨ ∃ f, u.checkBlk k x e.cmd = .error f) →
            ∃ w h'', exec (.chainSlotConsume k x n) s = .next w ∧ w.chainOf k x n = some h'' ∧ h''.running = false ∧ h''.failed = true ∧
              ((∀ p ∈ h.posts, p.cmd ≠ some s.nextId) → h''.posts = h.posts))))) ∧
    (s.frozen k = true → exec (.chainPost k x n) s = .next (s.holdAt k (.post k x n))) ∧
    (∀ h p ps, s.frozen k = false → s.chainOf k x n = some h → h.posts = p :: ps → p.cmd = none →
      let ten := s.chainTenant k x h
      let fails := some { h.quitEntry with running := false, failed := true, posts := [] }
      (p.status.getD 0 ≠ 0 → ∃ w, exec (.chainPost k x n) s = .next w ∧ w.chainOf k x n = fails ∧ w.mem = s.mem) ∧
      (∀ c d, p.status.getD 0 = 0 → p.post = some (c, d) →
        ((s.ctr ten c).en = false → ∃ w, exec (.chainPost k x n) s = .next w ∧ w.chainOf k x n = fails ∧ w.mem = s.mem) ∧
        ((s.ctr ten c).en = true → (s.ctr ten c).parBad = false →
          ∃ w, exec (.chainPost k x n) s = .next w ∧ w.chainOf k x n = some { h with posts := ps, running := h.running && !p.last } ∧
            (w.ctr ten c).count = ((s.ctr ten c).count + d) % 2 ^ 32 ∧ w.mem = s.mem))) ∧
    (s.dev.tripped = true → exec (.ctrWrite ten m v) s = .next s ∧ exec (.ccfgWrite ten m v) s = .next s) ∧
    (s.dev.tripped = false → ∃ w, exec (.ctrWrite ten m v) s = .next w ∧ (w.ctr ten m).count = v.toNat % 2 ^ 32 ∧
      (w.ctr ten m).seq = ((s.ctr ten m).seq + 1) % 2 ^ 16 ∧ (w.ctr ten m).parBad = false ∧ w.mem = s.mem) ∧
    (s.dev.tripped = false → ∃ w, exec (.ccfgWrite ten m v) s = .next w ∧ w.mem = s.mem ∧ (w.ctr ten m).count = (s.ctr ten m).count ∧
      (w.ctr ten m).en = v.getLsbD 27 ∧ (w.ctr ten m).trg = v.getLsbD 26 ∧ (w.ctr ten m).aud = v.getLsbD 25 ∧
      (w.ctr ten m).cap = v.toNat % 2 ^ 16 ∧ (w.ctr ten m).pair = v.toNat / 2 ^ 16 % 2 ^ 8 ∧ (w.ctr ten m).trgl = min 8 (v.toNat / 2 ^ 28 % 16)) ∧
    (∃ w : State, exec (.ringAuditEvent ten m true) s = .next (w.logError (some ten) { cls := 7, d0 := m, d1 := (s.ctr ten m).pair }) ∧ w.mem = s.mem ∧
      (w.ctr ten m).parBad = true ∧
      ∀ a ∈ (s.ctr ten m).waiters, (s.frozen a.1 = false → ∀ h, w.chainOf a.1 a.2.1 a.2.2 = some h → h.running = false) ∧
        (s.frozen a.1 = true → .ctl a.1 (.chainStop a.2.1 a.2.2) ∈ (w.core a.1).held)) ∧
    (∀ t0, (s.ctr ten m).short = some t0 →
      (s.shortfall ten m = true → (s.launch ten).audit.toNat ≤ s.gtc - t0 →
        ∃ w : State, exec (.ringAuditEvent ten m false) s = .next (w.logError (some ten) { cls := 6, d0 := m, d1 := (s.ctr ten m).pair }) ∧ w.mem = s.mem ∧
          (w.ctr ten m).short = some s.gtc) ∧
      ((s.shortfall ten m = false ∨ s.gtc - t0 < (s.launch ten).audit.toNat) → exec (.ringAuditEvent ten m false) s = .next s))

/-- R373, R374, R375, R377, R394, R429: a reported swap accepts its card, with ERR where it does not follow the last value; LPOST does so
in host-assisted launch; a trigger consumes one unit; QTAIL enables, sets and disables a queue; a card that is over leaves the machine:
DGTC takes the time, then STATE becomes 2, or 3 or 4 with its REASON and node (R378), then its vector is raised. D0 of the class 5 entry
is TPA (log entry 27), LPOST has no effect in hardware launch (log entry 73), the class of a card without one is a free value (log entry
26), NIDX and IOFF of a card that is complete report a stream drained with FLT (log entry 120), and that a tripped device takes no LPOST
is R463, in the reading of log entry 105. -/
def Obligations.CardsAreAcceptedAndEnd : Prop :=
  ∀ (ten cls n id : Nat) (v : BitVec 64) (s : State),
    (takeReport ten cls s.dev.reports = none → exec (.tailSwapReport ten cls) s = .next s) ∧
    (∀ r rs, takeReport ten cls s.dev.reports = some (r, rs) →
      let t : State := { s with dev := { s.dev with reports := rs } }
      let q := s.queue ten cls
      (r.old = q.last → exec (.tailSwapReport ten cls) s = .next ((t.linkCard ten cls r.new).acceptCard ten cls r.new true none)) ∧
      (r.old ≠ q.last → exec (.tailSwapReport ten cls) s = .next
        ((((t.modQueue ten cls fun q => { q with err := true }).logError (some ten) { cls := 5, d0 := q.tpa }).linkCard ten cls r.new).acceptCard
          ten cls r.new true none))) ∧
    ((s.hostMode ten 0 = false ∨ s.dev.tripped = true) → exec (.lpost ten v) s = .next s) ∧
    (s.hostMode ten 0 = true → s.dev.tripped = false →
      let t := { s with fresh := s.fresh + 1 }
      let c := Config.openClass s.fresh % 4
      exec (.lpost ten v) s = .next ((t.linkCard ten c v.toNat).acceptCard ten c v.toNat true none)) ∧
    (let r := s.ctr ten n
     let va := bits r.trgva.toNat 56 6 * 64 + 64 * (r.k % 2 ^ r.trgl)
     ((r.en = false ∨ r.trg = false ∨ r.parBad = true ∨ r.count = 0 ∨ (s.launch ten).lcfg.getLsbD 8 = false ∨ cardState ten va s = some 1) →
        exec (.triggerLaunch ten n) s = .next s) ∧
     (r.en = true → r.trg = true → r.parBad = false → 0 < r.count → (s.launch ten).lcfg.getLsbD 8 = true → cardState ten va s ≠ some 1 →
        let t := ((((s.modCtr ten n fun r => { r.update (r.count - 1) with k := r.k + 1 }).tryWrite ten va (leBytes 8 0)).tryWrite ten (va + 48)
          (leBytes 8 1)).tryWrite ten (va + 56) (leBytes 8 0))
        exec (.triggerLaunch ten n) s = .next (({ t with fresh := t.fresh + 1 } : State).acceptCard ten (Config.openClass t.fresh % 4) va false (some r.k)))) ∧
    (s.dev.tripped = false →
     let q := s.queue ten cls
     ∃ t, exec (.qtailWrite ten cls v) s = .next t ∧ t.mem = s.mem ∧ (t.queue ten cls).en = v.getLsbD 0 ∧
      (t.queue ten cls).tpa = (if q.en then q.tpa else bits v.toNat 51 3 * 8) ∧
      (v.getLsbD 0 = true → q.en = false → (t.queue ten cls).last = s.nat (bits v.toNat 51 3 * 8) 8) ∧
      (v.getLsbD 0 = false → q.en = true → ∀ r ∈ t.dev.reports, ¬ (r.ten = ten ∧ r.cls = cls))) ∧
    (∀ c, s.card id = some c →
      (s.cardOver c = false → exec (.cardCompletion id) s = .next s) ∧
      (s.cardOver c = true → ∃ t, exec (.cardCompletion id) s = .next t ∧ (∀ d ∈ t.dev.cards, d.id ≠ id) ∧
        (c.irq = true → (c.ten, c.vec) ∈ t.dev.msix) ∧
        (let state := match c.fail with
          | some (st, reason, nidx, ioff) => st + reason % 2 ^ 8 * 2 ^ 8 + nidx % 2 ^ 16 * 2 ^ 16 + ioff % 2 ^ 32 * 2 ^ 32
          | none => 2 + (c.note.getD (0, 0)).1 % 2 ^ 16 * 2 ^ 16 + (c.note.getD (0, 0)).2 % 2 ^ 32 * 2 ^ 32
         t.mem = ((s.tryWrite c.ten (c.va + 56) (leBytes 8 s.gtc)).tryWrite c.ten (c.va + 48) (leBytes 8 state)).mem ∧
         (∀ p u q w, s.translate (sumRq 0 c.ten) (c.va + 56) 8 .write = (.ok [(p, 8)], u) → u.windowOk c.ten p.pa (p.pa + 7) .write = true →
           let y := s.tryWrite c.ten (c.va + 56) (leBytes 8 s.gtc)
           y.nat p.pa 8 = s.gtc % 2 ^ 64 ∧
           (y.translate (sumRq 0 c.ten) (c.va + 48) 8 .write = (.ok [(q, 8)], w) → w.windowOk c.ten q.pa (q.pa + 7) .write = true →
             t.nat q.pa 8 = state % 2 ^ 64)))))

/-- R28, R178, R381, R385, R386, R388: Summit binds the head step of the tenant whose turn it is on the first gang that meets its needs:
every member's context holds the step, with cleared registers, no streams, its AP at the entry and its XP not yet running, and its
argument block begins with VALID; the step is ready no more. A step whose structures fail fails its card. A gang is released whole; steps
age; one of class 0 that Summit may bind asks a lower class to yield. Frozen cores are waited for (R420). Whose turn it is (`fairNext` of
the lags), and from when a step waits YLIM ticks, is the model's choice, log entry 87; that a step whose VALID comes of a poisoned row has
it poisoned is R16; an argument block that would run past 20_0000h is not written, which is log entry 71. -/
def Obligations.SummitBindsSteps : Prop :=
  ∀ (ten pick step victim : Nat) (s : State),
    (s.binds ten = false → exec (.stepBind ten pick) s = .next s) ∧
    (∀ t, s.binds ten = true → s.headStep ten = some t → s.bindable t = true → fairNext s.rivals (lagsOf s.rivals s.dev.fairLag) ≠ some ten →
      exec (.stepBind ten pick) s = .next s) ∧
    (∀ t c, s.binds ten = true → s.headStep ten = some t → t.aside = none → s.card t.card = some c → c.ten = ten →
      (∀ f u, (stepNeeds t c) s = (.error f, u) → c.fail = none →
        ∃ w, exec (.stepBind ten pick) s = .next w ∧ (w.card t.card).bind (·.fail) = some (3, f.reason, t.node, t.inst - c.inst)) ∧
      (∀ d h u, (stepNeeds t c) s = (.ok (d, h), u) →
        let gang := u.candidate ten h.shape h.vreq (d.imgva, d.imgoff, d.imglen)
        (gang = none → s.bindable t = false → exec (.stepBind ten pick) s = .next u) ∧
        (∀ k0, gang = some k0 → s.bindable t = true → (gangCores k0 h.shape).any u.frozen = true →
          fairNext s.rivals (lagsOf s.rivals s.dev.fairLag) = some ten →
          ∃ y, exec (.stepBind ten pick) s = .next y ∧ y.mem = u.mem ∧ y.cores = u.cores ∧ y.dev.steps = u.dev.steps) ∧
        (∀ k0 w, gang = some k0 → s.bindable t = true → (gangCores k0 h.shape).any u.frozen = false →
          fairNext s.rivals (lagsOf s.rivals s.dev.fairLag) = some ten →
          let ms := u.pickCtxs pick 0 (gangCores k0 h.shape)
          (bindAll t d h ms) u = (.ok (), w) →
          ∃ y, exec (.stepBind ten pick) s = .next y ∧ y.mem = w.mem ∧ (∀ v ∈ y.dev.steps, v.id ≠ t.id) ∧
            (∀ m ∈ ms, ∃ b, (y.ctx m.1 m.2).bind = some b ∧ b.step = t.id ∧ b.card = t.card ∧ b.tenant = t.ten ∧ b.node = t.node ∧
              b.inst = t.inst ∧ b.coord = t.coord ∧ b.scount = h.scount ∧ b.nmain = roundUp8 h.vreq ∧ (b.released = true ↔ h.shape = 0) ∧
              let x := y.ctx m.1 m.2
              x.ap.pc = h.aentry ∧ x.ap.active = true ∧ x.xp.active = false ∧ x.a = [] ∧ x.v = [] ∧ x.ports = [] ∧ x.tags = 0) ∧
            (∀ m, ms = [m] → let o := d.argoff * 128 + 128 * m.2
              let a := spad m.1 o
              (o + 128 ≤ 2 ^ 21 → y.nat a 4 = t.valid % 2 ^ 32 ∧ y.nat (a + 4) 4 = 0 ∧ y.badWord (a / 8) = t.validBad) ∧
              (2 ^ 21 < o + 128 → (u.dev.control.get {} t.ten).log.room = false → y.mem = u.mem))))) ∧
    ((∃ m ∈ s.members step, s.frozen m.1 = true) → exec (.gangRelease step) s = .next s) ∧
    ((∀ m ∈ s.members step, s.frozen m.1 = false) → ∃ t, exec (.gangRelease step) s = .next t ∧ t.mem = s.mem ∧ t.reqs = s.reqs ∧
      ∀ p ∈ s.members step, ∀ b, (t.ctx p.1 p.2).bind = some b → b.released = true) ∧
    (∃ t, exec (.stepAgeing step) s = .next t ∧ t.mem = s.mem ∧
      t.dev.steps = s.dev.steps.map fun u => if u.id = step ∧ (s.launch u.ten).age.toNat ≤ s.gtc - u.since then { u with cls0 := true } else u) ∧
    (∀ t, (s.dev.steps.find? fun t => t.id == step) = some t →
      let rank := t.rank s.gtc (s.launch t.ten).age.toNat
      ((s.waitsFor t victim = false ∨ s.binds t.ten = false ∨ s.cardOpen t = false ∨ rank ≠ 0 ∨ victim ∉ s.lowerSteps t.ten ∨
          (∃ t0, t.heldSince = some t0 ∧ s.gtc - t0 < (s.launch t.ten).ylim.toNat)) → exec (.yieldRequest step victim) s = .next s) ∧
      (∀ t0, s.waitsFor t victim = true → s.binds t.ten = true → s.cardOpen t = true → rank = 0 → victim ∈ s.lowerSteps t.ten →
        t.heldSince = some t0 → (s.launch t.ten).ylim.toNat ≤ s.gtc - t0 →
        ∃ u, exec (.yieldRequest step victim) s = .next u ∧ u.mem = s.mem ∧ ∀ p ∈ s.members victim,
          (s.frozen p.1 = false → (u.ctx p.1 p.2).yielding = true) ∧
          (s.frozen p.1 = true → .ctl p.1 (.yield p.2) ∈ (u.core p.1).held)))

/-- R381, R382, R378: Summit starts a transform node's chain on a free channel, once its core is not frozen (R420); a node whose steps
have ended, or whose chain is over, is done: its run is over, its card has one node less, and the counter of a successor falls by one in
memory, which at zero makes the successor ready and below fails the card (with the successor's NIDX: log entry 29). The channel of a
transform node's chain is free again; its completion waits while its core is frozen. A card that has failed goes no further. -/
def Obligations.SummitCompletesNodes : Prop :=
  ∀ (ten run : Nat) (s : State),
    ((s.launch ten).lcfg.getLsbD 8 = false → exec (.transformNodeStart ten) s = .next s) ∧
    (∀ r c k, (s.launch ten).lcfg.getLsbD 8 = true →
      (s.dev.runs.find? fun r => r.xform && r.chain.isNone && decide (0 < r.left) && match s.card r.card with
        | some c => c.ten == ten && !s.blocked c && c.fail.isNone
        | none => false) = some r →
      s.card r.card = some c → ((s.partition ten).find? fun k => s.channelFree k && s.reachable k) = some k →
      (s.frozen k = true → exec (.transformNodeStart ten) s = .next s) ∧
      (s.frozen k = false → ∀ nn nva d u, (atNode r.node (r.inst - c.inst) (stepNode c r.node)) s = (.ok (nn, nva, d), u) →
        ∃ t, exec (.transformNodeStart ten) s = .next t ∧ t.mem = u.mem ∧
          t.chainOf k 4 3 = some { next := some d.khdr, running := true, node := some r.id })) ∧
    (∀ r c, (s.dev.runs.find? fun r => r.id == run) = some r → s.card r.card = some c →
      let ended := if r.xform then s.transformEnd r = some true else r.left = 0
      (r.chain.any s.frozen = true → exec (.nodeCompletion run) s = .next s) ∧
      (r.chain.any s.frozen = false → (ended ∨ s.transformEnd r = some false) → ∀ k, r.chain = some k →
        ∃ t, exec (.nodeCompletion run) s = .next t ∧ ((t.ctx k 4).chan 3).chain = none) ∧
      (¬ ended → (r.xform = true → s.transformEnd r = none) → c.fail = none → exec (.nodeCompletion run) s = .next s) ∧
      (r.chain.any s.frozen = false → r.xform = true → s.transformEnd r = some false → c.fail = none →
        ∃ t, exec (.nodeCompletion run) s = .next t ∧ (∀ q ∈ t.dev.runs, q.id ≠ run) ∧
          (t.card r.card).bind (·.fail) = some (3, 9, r.node, r.inst - c.inst)) ∧
      (c.fail ≠ none →
        (s.transformEnd r = none → exec (.nodeCompletion run) s = .next s) ∧
        (r.chain.any s.frozen = false → s.transformEnd r ≠ none → ∃ t, exec (.nodeCompletion run) s = .next t ∧ (∀ q ∈ t.dev.runs, q.id ≠ run) ∧ t.mem = s.mem ∧
          t.dev.cards = s.dev.cards ∧ t.dev.steps = s.dev.steps)) ∧
      (r.chain.any s.frozen = false → ended → c.fail = none → s.hostMode c.ten 1 = false →
        (c.kind = 3 → ∃ t, exec (.nodeCompletion run) s = .next t ∧ (∀ q ∈ t.dev.runs, q.id ≠ run) ∧ t.mem = s.mem ∧
          (t.card r.card).map (·.nodesLeft) = some (c.nodesLeft - 1)) ∧
        (c.kind ≠ 3 → ∀ nn nva d ss u0 u1,
          let f := s.freeChannel r
          let s0 : State := { f with dev := { f.dev with runs := f.dev.runs.filter fun q => q.id != r.id } }
          (stepNode c r.node) s0 = (.ok (nn, nva, d), u0) → (readSucc c.ten nn d) u0 = (.ok ss, u1) →
          (ss = [] → ∃ t, exec (.nodeCompletion run) s = .next t ∧ t.mem = u1.mem ∧ t.dev.steps = u1.dev.steps ∧
            (t.card r.card).map (·.nodesLeft) = some (c.nodesLeft - 1)) ∧
          (∀ n p u2, ss = [n] →
            u1.xlat (sumRq 0 c.ten) (c.work + 4 * nn * (r.inst - c.inst) + 4 * n) 4 4 .atomic = (.ok p, u2) →
            u2.windowOk c.ten p.pa (p.pa + 3) .atomic = true →
            let v := u2.nat p.pa 4
            (1 < v → ∃ t, exec (.nodeCompletion run) s = .next t ∧ t.nat p.pa 4 = v - 1 ∧ (∀ y, y < p.pa ∨ p.pa + 4 ≤ y → t.byte y = u2.byte y) ∧
              t.dev.steps = u2.dev.steps ∧ (t.card r.card).map (·.nodesLeft) = some (c.nodesLeft - 1)) ∧
            (v = 1 → ∀ u3, (readyNode c nn nva r.inst n) (u2.storeNat none p.pa 4 0 (u2.badIn p.pa 4)) = (.ok (), u3) →
              ∃ t, exec (.nodeCompletion run) s = .next t ∧ t.mem = u3.mem ∧
                ∃ new, t.dev.steps = u2.dev.steps ++ new ∧ ∀ w ∈ new, w.card = c.id ∧ w.node = n ∧ w.inst = r.inst ∧ w.ten = c.ten) ∧
            (v = 0 → ∃ t, exec (.nodeCompletion run) s = .next t ∧ (t.card r.card).bind (·.fail) = some (3, 8, n, r.inst - c.inst))))))

/-- R411: a step every member of which has halted at its YIELD is set aside: its contexts are unbound and held as they were, the registers
of each stand in its image in the yield area, and the step is ready again. Bound again, at its turn, each context holds what its image
says. Both wait while one of its cores is frozen; whose turn it is, is log entry 87. -/
def Obligations.StepsAreSetAsideAndBoundAgain : Prop :=
  ∀ (ten pick step : Nat) (s : State),
    let reg := fun (s : State) (m : Nat × Nat) (n : Nat) => ((s.ctx m.1 m.2).areg (BitVec.ofNat 5 n)).v.toNat
    (∀ p ps b, s.members step = p :: ps → (s.ctx p.1 p.2).bind = some b →
      ((∃ m ∈ s.members step, s.frozen m.1 = true ∨ (s.ctx m.1 m.2).halted = false ∨ (s.ctx m.1 m.2).atYield = false ∨ s.canPark m.1 m.2 = false) →
        exec (.setAside step) s = .next s) ∧
      ((∀ m ∈ s.members step, s.frozen m.1 = false ∧ (s.ctx m.1 m.2).halted = true ∧ (s.ctx m.1 m.2).atYield = true ∧ s.canPark m.1 m.2 = true ∧
          (s.ctx m.1 m.2).elide = none) →
        ∃ t, exec (.setAside step) s = .next t ∧ (∀ m ∈ s.members step, (t.ctx m.1 m.2).bind = none) ∧
          (∃ u ms, u ∈ t.dev.steps ∧ u.id = step ∧ u.aside = some ms ∧ u.card = b.card ∧ u.node = b.node ∧ u.coord = b.coord ∧
            ∀ m ∈ s.members step, ∃ h ∈ ms, h.1 = m.1 ∧ h.2.ctx = m.2 ∧
              let x := s.ctx m.1 m.2
              h.2.held.bind = x.bind ∧ h.2.held.a = x.a ∧ h.2.held.p = x.p ∧ h.2.held.v = x.v ∧ h.2.held.ap = x.ap ∧ h.2.held.xp = x.xp) ∧
          ((∀ m ∈ s.members step, m.2 < 4 ∧ m.1 ∈ s.partition b.tenant) →
            ∀ m ∈ s.members step, ∀ n, n < 32 → t.nat (s.yieldAt b.tenant m.1 m.2 + 0x100 + 8 * n) 8 = reg s m n))) ∧
    (∀ t ms, s.binds ten = true → s.headStep ten = some t → t.ten = ten → t.aside = some ms →
      (s.asideFits ms = false → exec (.stepBind ten pick) s = .next s) ∧
      (s.asideFits ms = true → (∃ h ∈ ms, s.frozen h.1 = true) →
        ∃ y, exec (.stepBind ten pick) s = .next y ∧ y.mem = s.mem ∧ y.cores = s.cores ∧ y.dev.steps = s.dev.steps) ∧
      (∀ u cs, s.asideFits ms = true → (∀ h ∈ ms, s.frozen h.1 = false) → fairNext s.rivals (lagsOf s.rivals s.dev.fairLag) = some ten →
        (loadImages ten ms) s = (.ok (), u) → u.restoreAside ten ms = .ok cs →
        (∀ h ∈ ms, h.2.held.elide = none ∧ ∀ g ∈ ms, g.1 = h.1 → g.2.ctx = h.2.ctx → g = h) →
        ∃ w, exec (.stepBind ten pick) s = .next w ∧ (∀ v ∈ w.dev.steps, v.id ≠ t.id) ∧
          ∀ h ∈ ms, (w.ctx h.1 h.2.ctx).bind.isSome = true ∧ (w.ctx h.1 h.2.ctx).halted = false ∧
            (w.ctx h.1 h.2.ctx).ap.pc = u.nat (u.yieldAt ten h.1 h.2.ctx + 8) 4 ∧
            ∀ n, 0 < n → n < 32 → reg w (h.1, h.2.ctx) n = u.nat (u.yieldAt ten h.1 h.2.ctx + 0x100 + 8 * n) 8))

/-! ## Partitions, registers, host, links, frames (03, 16, 20) -/

/-- R408, R409, R410, R411: HALT stops every bound context of a tenant, its release lets go on all but those that wait to be set aside,
COOP stands until they have halted; a frozen core is told when its freeze ends (R420), and a tripped device takes none of the three (R463;
log entry 105). A swap goes as SWAP says, and one in that finds nothing parked in its mode sets SWERR and abandons the steps of a set of
the other mode. That a forced halt acts at once is log entry 44; what a swap in of the other mode and a second swap out lose is log entry
33. R412, R413, R417: after a swap out every context of the tenant is unbound and parked as it was, and each scratchpad of the partition
stands in its slot of the swap area; after a swap in of a set held in shadow storage each context holds what was parked, at the core of
its rank, and each scratchpad what its slot holds. RAPC of a trapped context whose region has aborted since is the fallback in what is
saved (R225; log entry 122). That a context restored while HALT is 1 is halted, that a set which is written over is lost, and that a gang
comes back as one of its shape or not at all, is log entry 33. -/
def Obligations.PartitionsHaltAndSwap : Prop :=
  (∀ (ten : Nat) (s : State),
    let busy := fun (s : State) => s.cores.any fun k => k.2.ctxs.any fun x => match x.2.bind with
      | some b => b.tenant == ten && !x.2.halted
      | none => false
    (s.dev.tripped = true → exec (.forcedHalt ten) s = .next s ∧ exec (.haltRelease ten) s = .next s ∧ exec (.cooperativeRequest ten) s = .next s) ∧
    (s.dev.tripped = false →
      (∃ t, exec (.forcedHalt ten) s = .next t ∧ (t.control ten).halt = true ∧ t.mem = s.mem ∧
        ((∃ m ∈ s.boundOf ten, s.frozen m.1 = false) → (t.control ten).coop = ((s.control ten).coop && busy t)) ∧
        ∀ m ∈ s.boundOf ten, ∀ b, (s.ctx m.1 m.2).bind = some b → b.tenant = ten →
          (s.frozen m.1 = false → (t.ctx m.1 m.2).halted = true) ∧ (s.frozen m.1 = true → .ctl m.1 (.halt ten) ∈ (t.core m.1).held)) ∧
      (∃ t, exec (.haltRelease ten) s = .next t ∧ (t.control ten).halt = false ∧ t.mem = s.mem ∧
        ∀ m ∈ s.boundOf ten, ∀ b, (s.ctx m.1 m.2).bind = some b → b.tenant = ten →
          (s.frozen m.1 = false → (s.ctx m.1 m.2).atYield = false → (t.ctx m.1 m.2).halted = false) ∧
          (s.frozen m.1 = true → .ctl m.1 (.goOn ten) ∈ (t.core m.1).held)) ∧
      ∃ t, exec (.cooperativeRequest ten) s = .next t ∧ (t.control ten).coop = busy s ∧ t.mem = s.mem ∧ t.cores = s.cores) ∧
    let w := (s.control ten).swap
    (w ≠ 1 → exec (.swapOut ten) s = .next s) ∧ (w ≠ 2 → exec (.swapIn ten) s = .next s) ∧ (w ≠ 3 → exec (.swapExchange ten) s = .next s) ∧
    (s.canSwapOut ten = false → exec (.swapOut ten) s = .next s ∧ exec (.swapExchange ten) s = .next s) ∧
    (w = 2 → s.parkedSet ten = none → ∃ t, exec (.swapIn ten) s = .next t ∧ (t.control ten).swap = 0 ∧ (t.control ten).swerr = true ∧ t.mem = s.mem ∧
      t.cores = s.cores ∧ t.parkedSet ten = none ∧ ∀ p, (s.dev.parked.find? fun p => p.1 == ten) = some p → ∀ c ∈ p.2.ctxs, ∀ b, c.held.bind = some b →
        ∀ d, t.card b.card = some d → d.fail ≠ none) ∧
    (∀ p, w = 2 → s.parkedSet ten = some p → s.roomFor ten p = false → exec (.swapIn ten) s = .next s) ∧
    (∀ q, w = 3 → s.canSwapOut ten = true → s.parkedSet ten = some q → (s.swapOut ten (s.hostMode ten 6)).2.tableRoom ten q = false →
      exec (.swapExchange ten) s = .next s) ∧
    (w = 3 → s.canSwapOut ten = true → (∀ q, s.parkedSet ten = some q → (s.swapOut ten (s.hostMode ten 6)).2.tableRoom ten q = true) → ∃ t, exec (.swapExchange ten) s = .next t ∧ (t.control ten).swap = 0 ∧
      t.dev.parked.get { ctxs := [], bars := [] } ten = (s.swapOut ten (s.hostMode ten 6)).1 ∧
      (s.parkedSet ten = none → (t.control ten).swerr = true))) ∧
  (∀ (ten : Nat) (s : State),
    let slot := fun (host : Bool) (r : Nat) => (s.control ten).swapbase.toNat + (if host then 0x300000 else 0x280000) * r
    let inArea := Memory.wf s = true ∧ (s.control ten).swapbase.toNat + 0x300000 * 257 ≤ 0x8000000000
    ((s.control ten).swap = 1 → s.canSwapOut ten = true →
      ∃ t, exec (.swapOut ten) s = .next t ∧ (t.control ten).swap = 0 ∧ (∀ m ∈ s.boundOf ten, (t.ctx m.1 m.2).bind = none) ∧
        (∀ m ∈ s.boundOf ten, ∃ c ∈ (t.dev.parked.get { ctxs := [], bars := [] } ten).ctxs, c.ctx = m.2 ∧ c.rank = s.rankIn ten m.1 ∧
          let x := s.ctx m.1 m.2
          c.held.bind = x.bind ∧ c.held.a = x.a ∧ c.held.p = x.p ∧ c.held.x = x.x ∧ c.held.m = x.m ∧ c.held.g = x.g ∧ c.held.v = x.v ∧
            c.held.lt = x.lt ∧ c.held.o = x.o ∧ c.held.ap = x.ap ∧ c.held.xp = x.xp) ∧
        (∀ p, (s.dev.parked.find? fun p => p.1 == ten) = some p → ∀ c ∈ p.2.ctxs, ∀ b, c.held.bind = some b → ∀ d, t.card b.card = some d → d.fail ≠ none) ∧
        (let u := (s.boundOf ten).foldl (fun s m => s.settleRecord m.1 m.2) s
         (inArea → ∀ k ∈ s.partition ten, ∀ o, o < 0x200000 → t.byte (slot (s.hostMode ten 6) (s.rankIn ten k) + o) = u.byte (spad k o)) ∧
         ((∀ m ∈ s.boundOf ten, (s.ctx m.1 m.2).redirect = none) → u = s) ∧
         (∀ k x pc, s.boundOf ten = [(k, x)] → (s.ctx k x).redirect = some pc →
           let base := spad k (bits (s.ctx k x).trapCause.toNat 44 32 * 256)
           (s.nat (base + 8) 4 ≠ 0xFFFFFFFF → u.nat (base + 8) 4 = pc % 2 ^ 32) ∧
           (∀ a, a < base + 8 ∨ base + 73 ≤ a → u.byte a = s.byte a)))) ∧
    (∀ p, (s.control ten).swap = 2 → s.parkedSet ten = some p → s.roomFor ten p = true → p.host = false →
      p.clusters.Nodup → (∀ c ∈ p.clusters, c < 32) →
      (∀ c ∈ p.ctxs, c.shadowBad = false ∧ c.held.elide = none ∧ c.held.ap.heldBad = false ∧ c.held.xp.heldBad = false ∧ s.gangBack ten p c = true ∧
        (∃ k, s.backCore ten p c.rank = some k ∧ (s.core k).holds (c.held.bind.getD {}).img = true) ∧
        (let w := s.readImg (imageAt (slot false c.rank) c.ctx false) 9728
         banksOk w 0 = true ∧ copiesOk w 0 = true) ∧
        ∀ d ∈ p.ctxs, d.rank = c.rank → d.ctx = c.ctx → d = c) →
      ∃ t, exec (.swapIn ten) s = .next t ∧ (t.control ten).swap = 0 ∧ t.dev.parked.has ten = false ∧
        (∀ c ∈ p.ctxs, ∀ k, s.backCore ten p c.rank = some k →
          let x := t.ctx k c.ctx
          let h := c.held
          x.bind.map (·.step) = some (h.bind.getD {}).step ∧ x.halted = (s.control ten).halt ∧ x.a = h.a ∧ x.p = h.p ∧ x.x = h.x ∧ x.m = h.m ∧
            x.g = h.g ∧ x.v = h.v ∧ x.lt = h.lt ∧ x.o = h.o ∧ x.apLoops = h.apLoops ∧ x.xpLoops = h.xpLoops ∧ x.ap.pc = h.ap.pc ∧ x.xp.pc = h.xp.pc) ∧
        (inArea → (∀ c ∈ p.ctxs, c.held.trapped = false) →
          ∀ r k, r < 8 * p.clusters.length → s.backCore ten p r = some k →
            ∀ o, o < 0x200000 → t.byte (spad k o) = s.byte (slot false r + o))) ∧
    (∀ p r, p.host = false → s.owns ten (p.clusters.getD (r / 8) 0) = true → r < 8 * p.clusters.length →
      s.backCore ten p r = some (8 * p.clusters.getD (r / 8) 0 + r % 8)) ∧
    (∀ p r, p.host = true → s.backCore ten p r = (s.partition ten)[r]?))

/-- R78, R79, R405, R421, R427, R448: GO removes the entries of its pages at once and is busy until what was translated before has
performed; a GO while busy sets ERR alone; an empty range removes nothing; reads that take clear what they return; park service and
context control resume or deliver a parked port and return a trapped context; a frozen core takes a write of context control when its
freeze ends. That entries go at GO, and BUSY stands until what was translated before is done, is log entry 34; that a range drops every
walk-cache entry of the tenant is log entry 95. -/
def Obligations.RegistersActOnReadsAndWrites : Prop :=
  ∀ (ten k x n : Nat) (len : BitVec 32) (s : State),
    (s.dev.tripped = true → exec (.tlbiWholeTenant ten) s = .next s ∧ exec (.cctlResume k x) s = .next s) ∧
    (s.frozen k = true → exec (.parkqRead k) s = .next s ∧ exec (.cecountRead k) s = .next s ∧ exec (.parkResume k x n) s = .next s ∧
      exec (.parkDeliver k x n) s = .next s ∧
      (s.dev.tripped = false → exec (.cctlResume k x) s = .next (s.holdAt k (.ctl k (.control x (2 ^ 31)))))) ∧
    (s.dev.tripped = false → ten ≤ 16 → (s.trans ten).busy = false →
      (∃ t, exec (.tlbiWholeTenant ten) s = .next t ∧ (t.trans ten).busy = true ∧ t.mem = s.mem ∧
        (∀ e ∈ t.walk, e.ten ≠ ten) ∧ (∀ e ∈ s.tlb, e.ten ≠ ten → e ∈ t.tlb) ∧
        (∀ e ∈ t.tlb, e.ten = ten → 2 ^ 44 ≤ e.page * 2 ^ (10 * e.lvl))) ∧
      (let first := bits (s.trans ten).tlbiva.toNat 56 13
       ∃ t, exec (.tlbiRange ten len) s = .next t ∧ (t.trans ten).busy = true ∧ t.mem = s.mem ∧ (len = 0 → t.walk = s.walk) ∧ (len ≠ 0 → ∀ e ∈ t.walk, e.ten ≠ ten) ∧
        (∀ e, e ∈ t.tlb ↔ e ∈ s.tlb ∧ ¬ (e.ten = ten ∧ len ≠ 0 ∧ e.page * 2 ^ (10 * e.lvl) < first + len.toNat ∧
          first < (e.page + 1) * 2 ^ (10 * e.lvl))))) ∧
    (ten ≤ 16 → (s.trans ten).busy = true →
      (s.dev.tripped = false → ∃ t, exec (.tlbiWholeTenant ten) s = .next t ∧ (t.trans ten).err = true ∧ t.tlb = s.tlb ∧ t.walk = s.walk) ∧
      (s.tlbiWaits ten = true → exec (.tlbInvalidationComplete ten) s = .next s) ∧
      (s.tlbiWaits ten = false → ∃ t, exec (.tlbInvalidationComplete ten) s = .next t ∧ (t.trans ten).busy = false ∧ t.tlb = s.tlb)) ∧
    (s.frozen k = false → ∀ px pn q, (s.core k).parkList = (px, pn) :: q →
      ∃ t, exec (.parkqRead k) s = .next t ∧ (t.core k).parkQ = q ∧ (t.core k).parkDesc = ((s.ctx k px).port pn).fault ∧ t.mem = s.mem) ∧
    (s.frozen k = false → ∃ t, exec (.cecountRead k) s = .next t ∧ (t.core k).ceCount = 0 ∧ t.mem = s.mem) ∧
    (s.dev.tripped = false → ∃ t, exec (.lostRead ten) s = .next t ∧ (t.log ten).lost = 0 ∧ t.mem = s.mem) ∧
    (s.dev.tripped = false → n < 4 → ∃ t, exec (.portCounterRead k n) s = .next t ∧ (t.eth k).counter n = 0 ∧ t.mem = s.mem) ∧
    (s.frozen k = false → (s.port k x n).act = true → (s.port k x n).park = true →
      (∃ t, exec (.parkResume k x n) s = .next t ∧ (t.port k x n).park = false ∧ (t.port k x n).fault = 0 ∧ (x, n) ∉ (t.core k).parkQ) ∧
      (∃ t, exec (.parkDeliver k x n) s = .next t ∧ (t.port k x n).flt = true ∧ (x, n) ∉ (t.core k).parkQ) ∧
      (n < 16 →
        (∃ t, exec (.cctlParkResume k x n) s = .next t ∧ (t.port k x n).park = false) ∧
        (∃ t, exec (.cctlParkDeliver k x n) s = .next t ∧ (t.port k x n).flt = true))) ∧
    (s.frozen k = false → s.isTrapped k x = false → exec (.cctlResume k x) s = .next s) ∧
    (s.frozen k = false → s.isTrapped k x = true → x < 4 →
      let back := s.returnFromTrap k x fun s c => if x = 4 then s.abandonSystem k else s.abandon k x c
      (∀ t, back = some t → exec (.cctlResume k x) s = .next (t.modCtx k x fun c => { c with resumed := some s.cc })) ∧
      (back = none →
        ∃ t, exec (.cctlResume k x) s = .next t ∧ (t.ctx k x).rerr = true ∧ (t.ctx k x).trapped = (s.ctx k x).trapped))

/-- R61, R66, R369, R449, R450, R451, R453, R454, R457: the host's accesses through BAR2 act where the function's windows allow them;
register writes act as an access of the region, of which a virtual function may write CTR, CCFG, LPOST, ELTAIL, and HALT and COOP of PCTL,
and whose reads of registers through it have no effect; a write that the windows refuse is dropped, a read or AtomicOp that they refuse is
answered with poisoned data, and each is logged; a cluster moves through a scrub; the bridge and the ports take their mode. The data of a
refused read are free values (log entry 2). -/
def Obligations.HostAccessesAndMoves : Prop :=
  ∀ (fn off n c p : Nat) (bs : List Byte) (v : BitVec 64) (op : ReqOp) (s : State), s.dev.tripped = false →
    let r := fnSrc fn
    let may := fun (len : Nat) (acc : AccessKind) => s.windowOk r.ten off (off + len - 1) acc = true
    (inBar2 fn off bs.length = true → may bs.length .write →
      ∃ t, exec (.hostPostedWrite fn off bs) s = .next t ∧ (∀ i, i < bs.length → t.byte (off + i) = bs.getD i 0) ∧
        (∀ a, a < off ∨ off + bs.length ≤ a → t.byte a = s.byte a)) ∧
    (inBar2 fn off n = true → may n .read →
      ∃ t, exec (.hostRead fn false off n) s = .next t ∧ t.dev.hostReply = s.bytes off n ∧ t.dev.hostBad = s.badIn off n ∧ t.mem = s.mem) ∧
    (inBar2 fn off bs.length = true → s.windowOk r.ten off (off + bs.length - 1) .write = false →
      exec (.hostPostedWrite fn off bs) s = .next (s.refuseAt r off)) ∧
    (inBar2 fn off n = true → s.windowOk r.ten off (off + n - 1) .read = false →
      ∃ t, exec (.hostRead fn false off n) s = .next t ∧ t.dev.hostBad = true ∧ t.dev.hostReply.length = n ∧ t.mem = (s.refuseAt r off).mem) ∧
    (inBar2 fn off n = true → hostAtomic op = true → atomicAt op off n = true →
      (s.windowOk r.ten off (off + n - 1) .atomic = false →
        ∃ t, exec (.hostAtomicop fn off n op v) s = .next t ∧ t.dev.hostBad = true ∧ t.dev.hostReply.length = n ∧ t.mem = (s.refuseAt r off).mem) ∧
      (may n .atomic →
        let w := 2 ^ (8 * n)
        let old := s.nat off n
        ∃ t, exec (.hostAtomicop fn off n op v) s = .next t ∧ t.dev.hostReply = leBytes n old ∧ t.dev.hostBad = s.badIn off n ∧
          (∀ a, a < off ∨ off + n ≤ a → t.byte a = s.byte a) ∧
          (op = .add → t.nat off n = (old + v.toNat) % w ∧ t.badIn off n = s.badIn off n) ∧ (op = .swap → t.nat off n = v.toNat % w) ∧
          (∀ c, op = .cas c → s.badIn off n = false → t.nat off n = if old = c.toNat % w then v.toNat % w else old) ∧
          (∀ c, op = .cas c → s.badIn off n = true → t.mem = s.mem))) ∧
    (fn < 16 → inDram off = true → 0 < n → s.windowOk fn off (off + n - 1) .read = true →
      ∃ t, exec (.cxlMemRequest fn off n none) s = .next t ∧ t.dev.hostReply = s.bytes off n ∧ t.mem = s.mem) ∧
    (fn < 16 → inDram off = true → 0 < n → s.windowOk fn off (off + n - 1) .read = false →
      ∃ t, exec (.cxlMemRequest fn off n none) s = .next t ∧ t.dev.hostBad = true) ∧
    (fn < 16 → inDram off = true → 0 < bs.length → s.windowOk fn off (off + bs.length - 1) .write = true →
      exec (.cxlMemRequest fn off n (some bs)) s = .next (s.store none off bs false)) ∧
    (∀ o, barOffset 0 off = some o → regAccess o n = true → exec (.registerWrite 0 off n v) s = .next (s.regWrite o n v.toNat)) ∧
    (∀ o, barOffset 0 off = some o → regAccess o n = true → ∃ t, exec (.hostRead 0 true off n) s = .next t ∧
      t.dev.hostReply = leBytes n (s.regRead o n).1) ∧
    (∀ o, fn ≠ 0 → barOffset fn off = some o → regAccess o n = true →
      let g := regAt (o / 8 * 8)
      let whole := (∃ t m, g = .ctr t m ∨ g = .ccfg t m) ∨ ∃ t, g = .lpost t ∨ g = .eltail t
      let halts := ∃ t, g = .pctl t
      exec (.hostRead fn true off n) s = .next (s.reply (leBytes n (s.regRead o n).1) false) ∧
      (whole → exec (.registerWrite fn off n v) s = .next (s.regWrite o n v.toNat)) ∧
      (halts → exec (.registerWrite fn off n v) s = .next (s.regWrite o n (v.toNat % 4))) ∧
      (¬ whole → ¬ halts → exec (.registerWrite fn off n v) s = .next s)) ∧
    (let q := s.cpart c
     let valid := v.getLsbD 5
     let ten := v.toNat % 16
     (valid = q.valid → ten = q.ten → v.getLsbD 6 = false → exec (.cpartMove c v) s = .next s) ∧
     ((valid ≠ q.valid ∨ ten ≠ q.ten) → s.moveRefused c = true →
        ∃ t, exec (.cpartMove c v) s = .next t ∧ (t.cpart c).err = true ∧ (t.cpart c).valid = q.valid ∧ (t.cpart c).ten = q.ten) ∧
     ((valid ≠ q.valid ∨ ten ≠ q.ten) → s.moveRefused c = false →
        ∃ t, exec (.cpartMove c v) s = .next t ∧ (t.cpart c).busy = true ∧ (t.cpart c).valid = valid ∧ (t.cpart c).ten = ten ∧ t.mem = s.mem) ∧
     (q.busy = true → ∃ t, exec (.cpartMoveComplete c) s = .next t ∧ (t.cpart c).busy = false ∧
        (∀ a, spad (8 * c) 0 ≤ a → a < spad (8 * c) (8 * 0x200000) → t.byte a = 0) ∧
        (∀ a, a < 0x10000000000 → t.byte a = s.byte a))) ∧
    ((s.dev.bridge.up = true → exec .retrain s = .next s) ∧
     (s.dev.bridge.up = false → ∃ t, exec .retrain s = .next t ∧ t.dev.bridge.retrain = some s.gtc)) ∧
    (let e := s.eth p
     (e.mode = 0 → exec (.portModeOff p) s = .next s ∧
        (e.fctr ≠ e.frctr → s.ringTaken p = false →
          (∃ t, exec (.portModeNymay p) s = .next t ∧ (t.eth p).mode = 1 ∧ t.mem = s.mem) ∧
          (∃ t, exec (.portModeIngress p) s = .next t ∧ (t.eth p).mode = 2 ∧ t.mem = s.mem))) ∧
     (e.mode ≠ 0 → ∃ t, exec (.portModeOff p) s = .next t ∧ (t.eth p).mode = 0 ∧ (t.eth p).held = false))

/-- R452, R460, R461, R462, R463: what resets, the steps of the boot ROM, attestation, temperature and time messages do; the values that
the spec leaves to a standard are free, those of a firmware image functions of its bytes (log entry 2). DEVICE_RESET keeps memory (log
entry 59), an FLR drops what is of the tenant (log entry 62), the codes of the SPDM requests are of that standard (log entry 96), and the
rate that a time source sets lies within ±500 ppm (log entry 40). The image that is loaded is the one verified, whatever DRAM holds since.
What a tripped device still takes is R463, in the reading of log entry 105, as is that a warning's entry counts as lost where a stopped
link leads to its ring. R425, R426, R456: a bridge or a Nymay link retrains, is logged when it comes up in time, goes down after 100 µs,
and comes up again; a peer's request acts on what the port's windows allow. What crosses the bridge is lost with it, and the ports that
send across it fail; what has reached the port of a frozen core is there, and a frozen core's own ports fail when its freeze ends (R420).
That a Nymay link is lost after the same 100 µs is log entry 57. -/
def Obligations.ResetsBootTemperatureAndLinks : Prop :=
  (∀ (ten temp : Nat) (req : List Byte) (s : State),
    (∃ t, exec .deviceReset s = .next t ∧ t.cores = State.reset.cores ∧ t.gtc = State.reset.gtc ∧ t.reqs = [] ∧ t.tlb = [] ∧
      t.dev.trans = [] ∧ t.dev.launch = [] ∧ t.dev.control = [] ∧ t.dev.bootStage = 1 ∧ t.dev.bootFail = 0 ∧ t.mem = s.mem) ∧
    (s.dev.tripped = false → ten < 16 →
      ∃ t, exec (.vfFlr ten) s = .next t ∧ t.dev.launch.has ten = false ∧ t.dev.control.has ten = false ∧ t.dev.parked.has ten = false ∧
        (∀ u ∈ t.dev.steps, u.ten ≠ ten) ∧ (∀ q ∈ t.reqs, q.ten ≠ ten) ∧ (∀ m ∈ t.dev.msix ++ t.dev.msixPend, m.1 ≠ ten)) ∧
    (s.dev.tripped = false →
      ∃ t, exec .pf0Flr s = .next t ∧ t.dev.cparts = [] ∧ t.dev.tcfg = 0 ∧ t.dev.tadj = 0 ∧ t.dev.hoff = 0 ∧ t.dev.log = {} ∧ t.dev.therm = 0 ∧
        (∀ m ∈ t.dev.msix ++ t.dev.msixPend, m.1 ≠ 16)) ∧
    ((s.dev.bootFail ≠ 0 ∨ s.dev.tripped = true) → exec .firmwareImageVerify s = .next s) ∧
    (s.dev.bootFail = 0 → s.dev.tripped = false →
      let img := s.dev.image.map (·.1)
      let goes := fun (v : Option (Fin 255)) (stage : Nat) => ∃ t, exec .firmwareImageVerify s = .next t ∧ t.mem = s.mem ∧ t.cores = s.cores ∧
        match v with
        | none => t.dev.bootStage = stage + 1 ∧ t.dev.bootFail = 0
        | some c => t.dev.bootStage = stage ∧ t.dev.bootFail = c.val + 1
      (s.dev.bootStage = 1 → goes (Config.trainVerdict s.fresh) 1) ∧ (s.dev.bootStage = 2 → s.dev.imageIn = true → goes none 2) ∧
      (s.dev.bootStage = 2 → s.dev.imageIn = false → exec .firmwareImageVerify s = .next s) ∧
      (s.dev.bootStage = 3 → goes (Config.firmwareVerdict (s.firmware.map (·.1))) 3 ∧
        (Config.firmwareVerdict (s.firmware.map (·.1)) = none → ∃ t, exec .firmwareImageVerify s = .next t ∧ t.dev.image = s.firmware)) ∧
      (s.dev.bootStage = 4 →
        (∀ c, Config.firmwareVersion img = some c → goes (some c) 4) ∧
        (Config.firmwareVersion img = none →
          ∃ t, exec .firmwareImageVerify s = .next t ∧ t.dev.bootStage = 5 ∧ t.mem = s.mem ∧
            t.dev.digest = Config.imageDigest img ∧
            ∀ k, k < 256 → (t.ctx k 4).ap.active = true ∧ (t.ctx k 4).ap.pc = (Config.firmwareEntry img).toNat / 4 * 4 ∧
              ∀ o, o < Config.imemSize → (t.core k).imem.get 0 o = img.getD ((Config.firmwareCode img).toNat * 4 + o) 0))) ∧
    (s.dev.tripped = false → req ≠ [] →
      ∃ t, exec (.spdmRequest req) s = .next t ∧ t.mem = s.mem ∧
        t.dev.hostReply = if req.getD 1 0 ∈ ([0x84, 0xE1, 0xE3, 0x81, 0x82, 0x83, 0xE0] : List Byte)
          then Config.spdmAnswer req (Config.deviceKey s.dev.digest) s.measurements s.fresh else Config.spdmRefusal req) ∧
    (95 * 16 ≤ temp → temp < 0x10000 → s.dev.therm.getLsbD 16 = false →
      ∃ t, exec (.thermalWarning temp) s = .next t ∧ t.dev.therm.getLsbD 16 = true ∧ t.dev.tripped = s.dev.tripped ∧
        (s.stopped s.dev.log.nextAt = true → t.dev.log = s.dev.log.drop ∧ t.mem = s.mem) ∧
        (s.stopped s.dev.log.nextAt = false → t.mem = (s.logError none { cls := (Config.thermalClass s.fresh).toNat, d0 := temp }).mem)) ∧
    (temp < 95 * 16 → exec (.thermalWarning temp) s = .next s) ∧
    (105 * 16 ≤ temp → temp < 0x10000 →
      ∃ t, exec (.thermalTrip temp) s = .next t ∧ t.dev.therm.getLsbD 17 = true ∧ t.dev.tripped = true ∧ t.mem = s.mem ∧ t.cores = s.cores) ∧
    (temp < 105 * 16 → exec (.thermalTrip temp) s = .next s) ∧
    (s.dev.tripped = false → s.timeSource = true →
      ∃ t, exec .timeSyncMessage s = .next t ∧ t.dev.tadj = rateOf (Config.servoRate s.fresh).toNat ∧ t.dev.hoff = Config.servoOffset s.fresh ∧
        -500000 ≤ sgn 32 t.dev.tadj.toNat ∧ sgn 32 t.dev.tadj.toNat ≤ 500000)) ∧
  (∀ (p off n : Nat) (v : BitVec 64) (s : State), s.dev.tripped = false →
    let b := s.dev.bridge
    let e := s.eth p
    (b.up = true → b.retrain = none →
      ∃ t, exec .bridgeRetrainEvent s = .next t ∧ t.dev.bridge.retrain = some s.gtc ∧ t.dev.bridge.up = true ∧ t.mem = s.mem) ∧
    (∀ g, b.retrain = some g →
      (b.up = false → ∃ t, exec .bridgeTrainingComplete s = .next t ∧ t.dev.bridge.up = true ∧ t.dev.bridge.retrain = none) ∧
      (b.up = true → s.gtc - g ≤ 100000 →
        (∃ t, exec .bridgeTrainingComplete s = .next t ∧ t.dev.bridge.up = true ∧ t.dev.bridge.retrain = none) ∧
        exec .bridgeLinkDown s = .next s) ∧
      (b.up = true → 100000 < s.gtc - g →
        exec .bridgeTrainingComplete s = .next s ∧
        ∃ t, exec .bridgeLinkDown s = .next t ∧ t.dev.bridge.up = false ∧
          (∀ k ∈ t.toks, k.held = true ∨ k.src.core / 128 = k.dst.core / 128 ∨ .token k.id ∈ (t.core k.dst.core).held) ∧
          (∀ m ∈ t.barMsgs, m.src.core / 128 = m.core / 128 ∨ .barrier m.id ∈ (t.core m.core).held) ∧
          (∀ f ∈ t.elems, f.core / 128 = f.toCore / 128 ∨ (if f.isEnd then .marker f.id else .element f.id) ∈ (t.core f.toCore).held) ∧
          (∀ k x n m, ((k, x, n), m) ∈ s.crossing → (s.port k x n).act = true →
            (s.frozen k = false → (t.port k x n).flt = true) ∧ (s.frozen k = true → .ctl k (.cut x n) ∈ (t.core k).held)))) ∧
    (p < 8 → e.up = true → e.mode = 1 → e.retrain = none →
      ∃ t, exec (.nymayLinkRetrain p) s = .next t ∧ (t.eth p).retrain = some s.gtc ∧ (t.eth p).up = true) ∧
    (∀ g, e.retrain = some g → e.up = true → e.mode = 1 → 100000 < s.gtc - g →
      ∃ t, exec (.nymayLinkDown p) s = .next t ∧ (t.eth p).up = false ∧ (t.eth p).retrain = none) ∧
    (p < 8 → e.up = true → e.mode = 1 → e.retrain = none → inWord8 off n = true →
      (inDram off || inSpad off || inSram off) = true → (inSpad off = true → s.frozen (spadCore off) = false) →
      (s.windowOk e.ten off (off + n - 1) .read = true →
        ∃ t, exec (.nymayRequestArrival p off n .read v) s = .next t ∧ (t.eth p).reply = leBytes n (s.nat off n) ∧
          (t.eth p).replyBad = s.badIn off n ∧ t.mem = s.mem) ∧
      (s.windowOk e.ten off (off + n - 1) .write = true →
        ∃ t, exec (.nymayRequestArrival p off n .write v) s = .next t ∧ t.nat off n = v.toNat % 2 ^ (8 * n) ∧
          ∀ a, a < off ∨ off + n ≤ a → t.byte a = s.byte a)) ∧
    (p < 8 → e.up = false → ∃ t, exec (.ethernetLinkUp p) s = .next t ∧ (t.eth p).up = true ∧ (t.eth p).retrain = none ∧ t.mem = s.mem))

/-- R395, R429, R458, R459: a leader takes a free slot or drops its block; a payload goes to its place in the slot; a trailer completes
the slot and posts the full counter; every packet of a dropped block is dropped; datagrams outside the subset of R458 are counted and
dropped; a held frame times out; a host frame goes to the next entry of the host's ring, whose index never wraps (log entry 61). The list
of dropped blocks has no end (log entry 102). -/
def Obligations.FramesFillTheirSlots : Prop :=
  ∀ (p pkt len : Nat) (g : Gvsp) (width height pix : BitVec 32) (bs : List Byte) (s : State),
    let e := s.eth p
    let r := s.ctr e.ten e.frctr
    let slot := e.slotAt
    let started := fun (t : State) => (t.eth p).held = true ∧ (t.eth p).frame = some { block := g.block.toNat, lgtc := s.gtc, lastAt := s.gtc } ∧
      (s.windowOk e.ten (slot + 8) (slot + 255) .write = true →
        t.nat (slot + 8) 8 = 0 ∧ t.nat (slot + 16) 4 = 0 ∧ t.nat (slot + 20) 4 = 0 ∧ t.nat (slot + 24) 8 = s.gtc % 2 ^ 64 ∧ t.nat (slot + 32) 8 = 0 ∧
        t.nat (slot + 40) 8 = g.block.toNat % 2 ^ 64 ∧ t.nat (slot + 48) 4 = width.toNat ∧ t.nat (slot + 52) 4 = height.toNat ∧ t.nat (slot + 56) 4 = pix.toNat ∧
        (∀ i, 60 ≤ i → i < 256 → t.byte (slot + i) = 0) ∧ (∀ a, a < slot + 8 ∨ slot + 256 ≤ a → t.byte a = s.byte a))
    let ok := g.udp4 = true ∧ g.port = e.pcfg.toNat / 2 ^ 48 ∧ g.ext = true ∧ g.status = 0 ∧ g.form ≠ .other ∧ (g.form ≠ .payload → g.ptype = 1)
    (s.receives p false = true →
      (¬ ok → (∃ t, exec (.gvspPacketRefused ⟨p, g⟩) s = .next t ∧ (t.eth p).badpkt = e.badpkt + 1 ∧ t.mem = s.mem) ∧
        (g.form = .leader → ∃ t, exec (.gvspLeader p g width height pix) s = .next t ∧ (t.eth p).badpkt = e.badpkt + 1 ∧ t.mem = s.mem)) ∧
      (ok → exec (.gvspPacketRefused ⟨p, g⟩) s = .next s) ∧
      (ok → g.form = .leader →
        (e.dropped.contains g.block.toNat = true → exec (.gvspLeader p g width height pix) s = .next s) ∧
        (e.dropped.contains g.block.toNat = false → e.frame = none → e.held = false → r.parBad = false →
          (r.count = 0 → ∃ t, exec (.gvspLeader p g width height pix) s = .next t ∧ (t.eth p).drop = e.drop + 1 ∧
            (t.eth p).dropped.contains g.block.toNat = true ∧ t.mem = s.mem) ∧
          (0 < r.count → ∃ t, exec (.gvspLeader p g width height pix) s = .next t ∧ started t ∧ (t.ctr e.ten e.frctr).count = (r.count - 1) % 2 ^ 32)) ∧
        (e.dropped.contains g.block.toNat = false → e.frame = none → e.held = true →
          ∃ t, exec (.gvspLeader p g width height pix) s = .next t ∧ started t ∧ t.dev.launch = s.dev.launch) ∧
        (∀ f, e.dropped.contains g.block.toNat = false → e.frame = some f →
          (f.block = g.block.toNat → ∃ t, exec (.gvspLeader p g width height pix) s = .next t ∧ (t.eth p).frame = some { f with lastAt := s.gtc } ∧ t.mem = s.mem) ∧
          (f.block ≠ g.block.toNat → ∃ t, exec (.gvspLeader p g width height pix) s = .next t ∧ started t ∧ (t.eth p).slot = e.slot ∧
            (t.eth p).incompl = e.incompl + 1 ∧ t.dev.launch = s.dev.launch))) ∧
      (∀ f, ok → e.frame = some f → f.block = g.block.toNat →
        (0 < pkt → g.form = .payload →
          let o := (pkt - 1) * e.pktSize
          let kept := bs.take (e.slotSize - 256 - o)
          let at_ := e.rbase.toNat + e.slot * e.slotSize + 256 + o
          s.windowOk e.ten at_ (at_ + kept.length - 1) .write = true →
          ∃ t, exec (.gvspPayload p g pkt bs) s = .next t ∧ (∀ i, i < kept.length → t.byte (at_ + i) = kept.getD i 0) ∧
            (∀ a, a < at_ ∨ at_ + kept.length ≤ a → t.byte a = s.byte a) ∧
            (t.eth p).frame = some (if f.ids.contains pkt then { f with lastAt := s.gtc }
              else { f with ids := pkt :: f.ids, bytes := f.bytes + kept.length, lastAt := s.gtc })) ∧
        ((s.ctr e.ten e.fctr).parBad = false → g.form = .trailer →
          ∃ t, exec (.gvspTrailer p g len) s = .next t ∧ (t.eth p).frame = none ∧ (t.eth p).held = false ∧
            (t.eth p).frames = e.frames + 1 ∧ (t.eth p).slot = (e.slot + 1) % max 1 e.slots ∧
            (s.windowOk e.ten slot (slot + 7) .write = true → s.windowOk e.ten (slot + 8) (slot + 23) .write = true →
              s.windowOk e.ten (slot + 32) (slot + 39) .write = true →
              let n := (len + e.pktSize - 1) / e.pktSize
              t.nat slot 8 = 1 ∧ t.nat (slot + 8) 8 = (if f.ids.length = n ∧ f.bytes = len then 0 else 1) ∧ t.nat (slot + 16) 4 = f.bytes % 2 ^ 32 ∧
              t.nat (slot + 20) 4 = (n - f.ids.length) % 2 ^ 32 ∧ t.nat (slot + 32) 8 = s.gtc % 2 ^ 64 ∧
              (∀ a, a < slot ∨ slot + 40 ≤ a ∨ (slot + 24 ≤ a ∧ a < slot + 32) → t.byte a = s.byte a)) ∧
            (t.ctr e.ten e.fctr).count = ((s.ctr e.ten e.fctr).count + 1) % 2 ^ 32))) ∧
    (∀ f, e.frame = some f → p < 8 →
      ((e.timeout = 0 ∨ s.gtc - f.lastAt < e.timeout * 1000) → exec (.frameTimeout p) s = .next s) ∧
      (e.timeout ≠ 0 → e.timeout * 1000 ≤ s.gtc - f.lastAt → ∃ t, exec (.frameTimeout p) s = .next t ∧ (t.eth p).frame = none ∧ t.mem = s.mem)) ∧
    (s.receives p true = true →
      let at_ := e.hrbase.toNat + 0x4000 * e.hidx
      let kept := bs.take 0x3FF8
      ∃ t, exec (.hostIngressFrame p bs) s = .next t ∧ (t.eth p).hidx = e.hidx + 1 ∧
        (s.windowOk e.ten at_ (at_ + 8 + kept.length - 1) .write = true →
          t.nat at_ 8 = bs.length % 2 ^ 64 ∧ (∀ i, i < kept.length → t.byte (at_ + 8 + i) = kept.getD i 0) ∧
          ∀ a, a < at_ ∨ at_ + 8 + kept.length ≤ a → t.byte a = s.byte a) ∧
        (e.ten, bits (s.control e.ten).log.cfg.toNat 5 0) ∈ t.dev.msix)
end

