-- ==== Sys2Proof/Laws/Encoding.lean ====
section
/-! SUPPORT. Fields and words: reading the fields of a joined word gives the fields back. -/

namespace Sys2Proof.Laws
open Sys2Proof

/-- The values `vs` fit the widths `ws`, one for one. -/
def Fit : List Nat → List Nat → Prop
  | [], [] => True
  | w :: ws, v :: vs => v < 2 ^ w ∧ Fit ws vs
  | _, _ => False

@[simp] theorem fit_nil : Fit [] [] = True := rfl
@[simp] theorem fit_cons (w v : Nat) (ws vs : List Nat) : Fit (w :: ws) (v :: vs) = (v < 2 ^ w ∧ Fit ws vs) := rfl

theorem join_lt : ∀ (ws vs : List Nat), Fit ws vs → join ws vs < 2 ^ ws.sum
  | [], [], _ => by simp [join]
  | w :: ws, v :: vs, h => by
    have ih := join_lt ws vs h.2
    simp only [join, List.sum_cons, Nat.pow_add]
    have : v + 1 ≤ 2 ^ w := h.1
    calc v * 2 ^ ws.sum + join ws vs < v * 2 ^ ws.sum + 2 ^ ws.sum := by omega
      _ = (v + 1) * 2 ^ ws.sum := by rw [Nat.succ_mul]
      _ ≤ _ := Nat.mul_le_mul_right _ this

theorem split_add (ws : List Nat) (x k : Nat) : split ws (k * 2 ^ ws.sum + x) = split ws x := by
  induction ws generalizing k x with
  | nil => rfl
  | cons w ws ih =>
    simp only [split, List.sum_cons, Nat.pow_add]
    have hp : 0 < 2 ^ ws.sum := Nat.two_pow_pos _
    have e : k * (2 ^ w * 2 ^ ws.sum) + x = (k * 2 ^ w) * 2 ^ ws.sum + x := by rw [Nat.mul_assoc]
    rw [e, ih x (k * 2 ^ w)]
    congr 1
    rw [Nat.mul_comm (k * 2 ^ w), Nat.mul_add_div hp, Nat.mul_comm k, Nat.mul_add_mod]

/-- Reading the fields of a joined word gives the fields back. -/
theorem split_join : ∀ (ws vs : List Nat), Fit ws vs → split ws (join ws vs) = vs
  | [], [], _ => rfl
  | w :: ws, v :: vs, h => by
    have hl := join_lt ws vs h.2
    simp only [split, join]
    rw [split_add, split_join ws vs h.2]
    congr 1
    have hp : 0 < 2 ^ ws.sum := Nat.two_pow_pos _
    rw [Nat.mul_comm v, Nat.mul_add_div hp, Nat.div_eq_of_lt hl, Nat.add_zero, Nat.mod_eq_of_lt h.1]

@[simp] theorem toNat_bool_lt (b : Bool) : b.toNat < 2 := by cases b <;> decide
@[simp] theorem toNat_bool_le (b : Bool) : b.toNat ≤ 1 := by cases b <;> decide
@[simp] theorem toNat_bool_beq (b : Bool) : (b.toNat == 1) = b := by cases b <;> rfl

@[simp] theorem Scope.ofCode_code (s : Scope) : Scope.ofCode? s.code = some s := by cases s <;> rfl
@[simp] theorem Scope.code_lt (s : Scope) : s.code < 8 := by cases s <;> decide
@[simp] theorem Cond.ofCode_code (s : Cond) : Cond.ofCode? s.code = some s := by cases s <;> rfl
@[simp] theorem Cond.code_lt (s : Cond) : s.code < 8 := by cases s <;> decide
@[simp] theorem Fmt.ofCode_code (s : Fmt) : Fmt.ofCode? s.code = some s := by cases s <;> rfl
@[simp] theorem Fmt.code_lt (s : Fmt) : s.code < 16 := by cases s <;> decide
@[simp] theorem AccTy.ofCode_code (s : AccTy) : AccTy.ofCode? s.code = some s := by cases s <;> rfl
@[simp] theorem AccTy.code_lt (s : AccTy) : s.code < 16 := by cases s <;> decide
@[simp] theorem Level.ofCode_code (s : Level) : Level.ofCode s.code = s := by cases s <;> rfl
@[simp] theorem Level.code_lt (s : Level) : s.code < 4 := by cases s <;> decide

theorem ofNat_toNat (w : Nat) (x : BitVec w) : BitVec.ofNat w x.toNat = x := by simp

@[simp] theorem Opnd.code_lt (o : Opnd) : o.code < 4096 := by
  have := join_lt [1, 1, 2, 8] [o.rot.toNat, o.trap.toNat, o.lvl.code, o.idx.toNat] (by simp [o.idx.isLt])
  simpa [Opnd.code] using this

@[simp] theorem Opnd.ofCode_code (o : Opnd) : Opnd.ofCode o.code = o := by
  unfold Opnd.ofCode Opnd.code
  rw [split_join _ _ (by simp [o.idx.isLt])]
  simp

@[simp] theorem VmOp.code_lt (o : VmOp) : o.code < 4096 := by
  have := join_lt [1, 1, 2, 8] [o.rot.toNat, 0, 0, o.idx.toNat] (by simp [o.idx.isLt])
  simpa [VmOp.code] using this

@[simp] theorem VmOp.ofCode_code (o : VmOp) : VmOp.ofCode? o.code = some o := by
  unfold VmOp.ofCode? VmOp.code
  rw [split_join _ _ (by simp [o.idx.isLt])]
  simp

theorem regField_of_lt (x lim : Nat) (d : Bool) (h : x < lim) (h' : x < 256) : regField x lim d = some x := by
  have e : x = join [1, 1, 2, 8] [0, 0, 0, x] := by simp [join]
  unfold regField
  rw [show split [1, 1, 2, 8] x = [0, 0, 0, x] by
    conv => lhs; rw [e]
    exact split_join _ _ (by simp; omega)]
  simp [h]

@[simp] theorem regField_toNat4 (x : BitVec 4) (d : Bool) : regField x.toNat 16 d = some x.toNat :=
  regField_of_lt _ _ _ x.isLt (by have := x.isLt; omega)

@[simp] theorem regField_toNat3 (x : BitVec 3) (d : Bool) : regField x.toNat 8 d = some x.toNat :=
  regField_of_lt _ _ _ x.isLt (by have := x.isLt; omega)

@[simp] theorem GSrc.code_lt (o : GSrc) : o.code < 4096 := by
  have := join_lt [1, 1, 2, 8] [0, o.trap.toNat, 0, o.g.toNat] (by have := o.g.isLt; simp; omega)
  simpa [GSrc.code] using this

@[simp] theorem GSrc.ofCode_code (o : GSrc) : GSrc.ofCode? o.code = some o := by
  have hg := o.g.isLt
  unfold GSrc.ofCode? GSrc.code
  rw [split_join _ _ (by simp; omega)]
  simp [hg]

/-- The fields of a written AP word. -/
theorem apFields_apWord (opc : Nat) (h : ApHdr) (rd ra : BitVec 5) (n : Snd) (lo : Nat)
    (ho : opc < 256) (hn : n.rb < 32 ∧ n.bimm < 2 ∧ n.imm < 2 ^ 32) (hl : lo < 2 ^ 54) :
    apFields (apWord opc h rd ra n lo) =
      some ⟨opc, h.psense.toNat, h.pred.toNat, rd.toNat, ra.toNat, n.rb, n.bimm, n.imm,
        h.popm.toNat, h.pushm.toNat, lo⟩ := by
  unfold apFields apWord
  have a := h.pred.isLt; have b := rd.isLt; have c := ra.isLt; have d := h.popm.isLt; have e := h.pushm.isLt
  rw [split_join]
  simp only [apWidths, fit_cons, fit_nil]
  have := toNat_bool_lt h.psense
  refine ⟨by omega, by omega, by omega, by omega, by omega, by omega, by omega, by omega, by omega, by omega,
    by omega, by omega, trivial⟩

/-- The fields of a written XP word. -/
theorem xpFields_xpWord (opc : Nat) (h : XpHdr) (d a b c lo : Nat)
    (ho : opc < 256) (hd : d < 4096) (ha : a < 4096) (hb : b < 4096) (hc : c < 4096) (hl : lo < 2 ^ 54) :
    xpFields (xpWord opc h d a b c lo) =
      some ⟨opc, h.lmask.toNat, d, a, b, c, h.popm.toNat, h.pushm.toNat, lo⟩ := by
  unfold xpFields xpWord
  have p := h.lmask.isLt; have q := h.popm.isLt; have r := h.pushm.isLt
  rw [split_join]
  · simp; omega
  · simp only [xpWidths, fit_cons, fit_nil]
    refine ⟨by omega, by omega, by omega, by omega, by omega, by omega, by omega, by omega, by omega, by omega, trivial⟩

@[simp] theorem XOp2.s2_lt (b : XOp2) : b.s2 < 4096 := by
  cases b with
  | reg x => have := x.isLt; simp [XOp2.s2]; omega
  | imm v => simp [XOp2.s2]

@[simp] theorem XOp2.lo_lt (b : XOp2) : b.lo < 2 ^ 54 := by
  cases b with
  | reg x => simp [XOp2.lo]
  | imm v => exact join_lt [21, 1, 32] [0, 1, v.toNat] (by have := v.isLt; simp; omega)

@[simp] theorem xop2Fields_code (b : XOp2) : xop2Fields b.s2 b.lo = some b := by
  cases b with
  | reg x =>
    have h : split [21, 1, 32] 0 = [0, 0, 0] := by decide
    simp [XOp2.s2, XOp2.lo, xop2Fields, h]
  | imm v =>
    have h := split_join [21, 1, 32] [0, 1, v.toNat] (by have := v.isLt; simp; omega)
    simp [XOp2.s2, XOp2.lo, xop2Fields, h]

@[simp] theorem BrTest.s1_lt (t : BrTest) : t.s1 < 4096 := by
  cases t <;> simp [BrTest.s1] <;> rename_i x <;> have := x.isLt <;> omega
@[simp] theorem BrTest.cond_lt (t : BrTest) : t.cond < 8 := by cases t <;> simp [BrTest.cond]
@[simp] theorem BrTest.port_lt (t : BrTest) : t.port < 16 := by
  cases t <;> simp [BrTest.port] <;> rename_i x <;> exact x.isLt
@[simp] theorem BrTest.ofFields_code (t : BrTest) : BrTest.ofFields? t.s1 t.cond t.port = some t := by
  cases t <;> simp [BrTest.ofFields?, BrTest.s1, BrTest.cond, BrTest.port]

theorem MwldOpts.fit (w : MwldOpts) : Fit [11, 1, 1, 1, 3, 3, 6, 2, 1, 25]
    [0, w.rowMajor.toNat, w.band.isSome.toNat, w.mask.isSome.toNat, 0, (w.mask.getD ⟨0, false, 0⟩).g.toNat,
      (w.mask.getD ⟨0, false, 0⟩).mbase.toNat, 0, (w.mask.getD ⟨0, false, 0⟩).gte.toNat, 0] := by
  have a := (w.mask.getD ⟨0, false, 0⟩).g.isLt
  have b := (w.mask.getD ⟨0, false, 0⟩).mbase.isLt
  simp
  omega

@[simp] theorem MwldOpts.s2_lt (w : MwldOpts) : w.s2 < 4096 := by
  unfold MwldOpts.s2
  split
  · rename_i x _; have := x.isLt; omega
  · decide
@[simp] theorem MwldOpts.lo_lt (w : MwldOpts) : w.lo < 2 ^ 54 := join_lt _ _ (MwldOpts.fit w)

@[simp] theorem MwldOpts.ofFields_code (w : MwldOpts) : MwldOpts.ofFields? w.s2 w.lo = some w := by
  have h := split_join _ _ (MwldOpts.fit w)
  unfold MwldOpts.ofFields? MwldOpts.lo
  generalize join _ _ = L at h ⊢
  simp only [h]
  obtain ⟨r, b, m⟩ := w
  cases b <;> cases m <;> simp [MwldOpts.s2]

end Sys2Proof.Laws
end

