-- ==== Sys2Proof/Laws/Map.lean ====
section
/-! SUPPORT. Finite maps: reading after a write, and the canonical form that every write keeps. -/

namespace Sys2Proof.Machine.SMap

theorem get_put_self {α : Type} (d : α) (m : SMap α) (k : Nat) (v : α) : SMap.get d (SMap.put m k v) k = v := by
  induction m with
  | nil => simp [SMap.put, SMap.get]
  | cons p m ih =>
    obtain ⟨j, w⟩ := p
    simp only [SMap.put]
    split
    · simp [SMap.get]
    · split
      · simp [SMap.get]
      · have : ¬ j = k := by omega
        simp [SMap.get, this, ih]

theorem get_put_ne {α : Type} (d : α) (m : SMap α) {k j : Nat} (v : α) (h : j ≠ k) :
    SMap.get d (SMap.put m k v) j = SMap.get d m j := by
  induction m with
  | nil => simp [SMap.put, SMap.get, Ne.symm h]
  | cons p m ih =>
    obtain ⟨i, w⟩ := p
    simp only [SMap.put]
    split
    · simp [SMap.get, Ne.symm h]
    · split
      · rename_i e
        subst e
        simp [SMap.get, Ne.symm h]
      · simp [SMap.get, ih]

theorem get_put {α : Type} (d : α) (m : SMap α) (k j : Nat) (v : α) :
    SMap.get d (SMap.put m k v) j = if j = k then v else SMap.get d m j := by
  split
  · rename_i h; subst h; exact get_put_self d m j v
  · rename_i h; exact get_put_ne d m v h

theorem get_erase_self {α : Type} (d : α) (m : SMap α) (k : Nat) : SMap.get d (SMap.erase m k) k = d := by
  induction m with
  | nil => rfl
  | cons p m ih =>
    obtain ⟨i, w⟩ := p
    simp only [SMap.erase]
    split
    · exact ih
    · rename_i h; simp [SMap.get, h, ih]

theorem get_erase_ne {α : Type} (d : α) (m : SMap α) {k j : Nat} (h : j ≠ k) :
    SMap.get d (SMap.erase m k) j = SMap.get d m j := by
  induction m with
  | nil => rfl
  | cons p m ih =>
    obtain ⟨i, w⟩ := p
    simp only [SMap.erase]
    split
    · rename_i e; subst e; simp [SMap.get, Ne.symm h, ih]
    · simp [SMap.get, ih]

theorem get_set {α : Type} [DecidableEq α] (d : α) (m : SMap α) (k j : Nat) (v : α) :
    SMap.get d (SMap.set d m k v) j = if j = k then v else SMap.get d m j := by
  unfold SMap.set
  split
  · rename_i h
    split
    · rename_i e; subst e; rw [get_erase_self, h]
    · rename_i e; exact get_erase_ne d m e
  · exact get_put d m k j v

/-! ## The canonical form -/

theorem rising_mono {α : Type} (m : SMap α) {l l' : Nat} (h : l ≤ l') (r : SMap.rising (some l') m = true) :
    SMap.rising (some l) m = true := by
  cases m with
  | nil => rfl
  | cons p m =>
    obtain ⟨k, w⟩ := p
    simp only [SMap.rising, Bool.and_eq_true, decide_eq_true_eq] at r ⊢
    exact ⟨by omega, r.2⟩

theorem rising_none {α : Type} (m : SMap α) {l : Nat} (r : SMap.rising (some l) m = true) :
    SMap.rising none m = true := by
  cases m with
  | nil => rfl
  | cons p m =>
    obtain ⟨k, w⟩ := p
    simp only [SMap.rising, Bool.and_eq_true, decide_eq_true_eq] at r ⊢
    exact r.2

theorem rising_put {α : Type} (m : SMap α) (k : Nat) (v : α) {l : Nat} (hl : l < k)
    (r : SMap.rising (some l) m = true) : SMap.rising (some l) (SMap.put m k v) = true := by
  induction m generalizing l with
  | nil => simp [SMap.put, SMap.rising, hl]
  | cons p m ih =>
    obtain ⟨i, w⟩ := p
    simp only [SMap.rising, Bool.and_eq_true, decide_eq_true_eq] at r
    simp only [SMap.put]
    split
    · rename_i h
      simp only [SMap.rising, Bool.and_eq_true, decide_eq_true_eq]
      exact ⟨hl, h, r.2⟩
    · split
      · rename_i h; subst h
        simp only [SMap.rising, Bool.and_eq_true, decide_eq_true_eq]
        exact ⟨hl, r.2⟩
      · simp only [SMap.rising, Bool.and_eq_true, decide_eq_true_eq]
        exact ⟨r.1, ih (by omega) r.2⟩

theorem rising_put_none {α : Type} (m : SMap α) (k : Nat) (v : α) (r : SMap.rising none m = true) :
    SMap.rising none (SMap.put m k v) = true := by
  cases m with
  | nil => rfl
  | cons p m =>
    obtain ⟨i, w⟩ := p
    simp only [SMap.rising] at r
    simp only [SMap.put]
    split
    · rename_i h
      simp only [SMap.rising, Bool.and_eq_true, decide_eq_true_eq]
      exact ⟨h, r⟩
    · split
      · rename_i h; subst h; exact r
      · simp only [SMap.rising]
        exact rising_put m k v (by omega) r

theorem rising_erase {α : Type} (m : SMap α) (k : Nat) {l : Nat} (r : SMap.rising (some l) m = true) :
    SMap.rising (some l) (SMap.erase m k) = true := by
  induction m generalizing l with
  | nil => rfl
  | cons p m ih =>
    obtain ⟨i, w⟩ := p
    simp only [SMap.rising, Bool.and_eq_true, decide_eq_true_eq] at r
    simp only [SMap.erase]
    split
    · exact ih (rising_mono m (by omega) r.2)
    · simp only [SMap.rising, Bool.and_eq_true, decide_eq_true_eq]
      exact ⟨r.1, ih r.2⟩

theorem rising_erase_none {α : Type} (m : SMap α) (k : Nat) (r : SMap.rising none m = true) :
    SMap.rising none (SMap.erase m k) = true := by
  cases m with
  | nil => rfl
  | cons p m =>
    obtain ⟨i, w⟩ := p
    simp only [SMap.rising] at r
    simp only [SMap.erase]
    split
    · exact rising_none _ (rising_erase m k r)
    · exact rising_erase m k r

theorem mem_erase {α : Type} (m : SMap α) (k : Nat) (p : Nat × α) (h : p ∈ SMap.erase m k) : p ∈ m := by
  induction m with
  | nil => simp [SMap.erase] at h
  | cons q m ih =>
    obtain ⟨i, w⟩ := q
    simp only [SMap.erase] at h
    split at h
    · exact List.mem_cons_of_mem _ (ih h)
    · rcases List.mem_cons.mp h with e | e
      · exact e ▸ List.mem_cons_self
      · exact List.mem_cons_of_mem _ (ih e)

theorem mem_put {α : Type} (m : SMap α) (k : Nat) (v : α) (p : Nat × α) (h : p ∈ SMap.put m k v) : p ∈ m ∨ p = (k, v) := by
  induction m with
  | nil => simp only [SMap.put, List.mem_singleton] at h; exact .inr h
  | cons q m ih =>
    obtain ⟨i, w⟩ := q
    simp only [SMap.put] at h
    split at h
    · rcases List.mem_cons.mp h with e | e
      · exact .inr e
      · exact .inl e
    · split at h
      · rcases List.mem_cons.mp h with e | e
        · exact .inr e
        · exact .inl (List.mem_cons_of_mem _ e)
      · rcases List.mem_cons.mp h with e | e
        · exact .inl (e ▸ List.mem_cons_self)
        · rcases ih e with e | e
          · exact .inl (List.mem_cons_of_mem _ e)
          · exact .inr e

/-- A write of a map in canonical form leaves it so. -/
theorem wf_set {α : Type} [DecidableEq α] (d : α) (m : SMap α) (k : Nat) (v : α) (h : SMap.wf d m = true) :
    SMap.wf d (SMap.set d m k v) = true := by
  simp only [SMap.wf, Bool.and_eq_true, List.all_eq_true, bne_iff_ne, ne_eq] at h ⊢
  unfold SMap.set
  split
  · exact ⟨rising_erase_none m k h.1, fun p hp => h.2 p (mem_erase m k p hp)⟩
  · rename_i hv
    refine ⟨rising_put_none m k v h.1, fun p hp => ?_⟩
    rcases mem_put m k v p hp with e | e
    · exact h.2 p e
    · subst e; exact hv

end Sys2Proof.Machine.SMap
end

