-- ==== Sys2Proof/Laws/OpcodeMap.lean ====
section
/-! SUPPORT. The opcode maps, one lemma per assigned opcode (Tables 08-8 and 08-9). -/

namespace Sys2Proof.Laws
open Sys2Proof

theorem parseAp_01 (f : ApF) (h : f.opc = 0x01) : parseAp f = parseNop f := by
  cases f; cases h; rfl
theorem parseAp_02 (f : ApF) (h : f.opc = 0x02) : parseAp f = parseAdd f := by
  cases f; cases h; rfl
theorem parseAp_03 (f : ApF) (h : f.opc = 0x03) : parseAp f = parseSub f := by
  cases f; cases h; rfl
theorem parseAp_04 (f : ApF) (h : f.opc = 0x04) : parseAp f = parseMul f := by
  cases f; cases h; rfl
theorem parseAp_05 (f : ApF) (h : f.opc = 0x05) : parseAp f = parseMulh f := by
  cases f; cases h; rfl
theorem parseAp_06 (f : ApF) (h : f.opc = 0x06) : parseAp f = parseMulhn f := by
  cases f; cases h; rfl
theorem parseAp_07 (f : ApF) (h : f.opc = 0x07) : parseAp f = parseDiv f := by
  cases f; cases h; rfl
theorem parseAp_08 (f : ApF) (h : f.opc = 0x08) : parseAp f = parseDivn f := by
  cases f; cases h; rfl
theorem parseAp_09 (f : ApF) (h : f.opc = 0x09) : parseAp f = parseRem f := by
  cases f; cases h; rfl
theorem parseAp_0A (f : ApF) (h : f.opc = 0x0A) : parseAp f = parseRemn f := by
  cases f; cases h; rfl
theorem parseAp_0B (f : ApF) (h : f.opc = 0x0B) : parseAp f = parseAdds f := by
  cases f; cases h; rfl
theorem parseAp_0C (f : ApF) (h : f.opc = 0x0C) : parseAp f = parseSubs f := by
  cases f; cases h; rfl
theorem parseAp_0D (f : ApF) (h : f.opc = 0x0D) : parseAp f = parseAddsn f := by
  cases f; cases h; rfl
theorem parseAp_0E (f : ApF) (h : f.opc = 0x0E) : parseAp f = parseSubsn f := by
  cases f; cases h; rfl
theorem parseAp_10 (f : ApF) (h : f.opc = 0x10) : parseAp f = parseAnd f := by
  cases f; cases h; rfl
theorem parseAp_11 (f : ApF) (h : f.opc = 0x11) : parseAp f = parseOr f := by
  cases f; cases h; rfl
theorem parseAp_12 (f : ApF) (h : f.opc = 0x12) : parseAp f = parseXor f := by
  cases f; cases h; rfl
theorem parseAp_13 (f : ApF) (h : f.opc = 0x13) : parseAp f = parseAndn f := by
  cases f; cases h; rfl
theorem parseAp_14 (f : ApF) (h : f.opc = 0x14) : parseAp f = parseOrn f := by
  cases f; cases h; rfl
theorem parseAp_18 (f : ApF) (h : f.opc = 0x18) : parseAp f = parseShl f := by
  cases f; cases h; rfl
theorem parseAp_19 (f : ApF) (h : f.opc = 0x19) : parseAp f = parseShr f := by
  cases f; cases h; rfl
theorem parseAp_1A (f : ApF) (h : f.opc = 0x1A) : parseAp f = parseSar f := by
  cases f; cases h; rfl
theorem parseAp_1B (f : ApF) (h : f.opc = 0x1B) : parseAp f = parseRol f := by
  cases f; cases h; rfl
theorem parseAp_1C (f : ApF) (h : f.opc = 0x1C) : parseAp f = parseRor f := by
  cases f; cases h; rfl
theorem parseAp_20 (f : ApF) (h : f.opc = 0x20) : parseAp f = parseMin f := by
  cases f; cases h; rfl
theorem parseAp_21 (f : ApF) (h : f.opc = 0x21) : parseAp f = parseMax f := by
  cases f; cases h; rfl
theorem parseAp_22 (f : ApF) (h : f.opc = 0x22) : parseAp f = parseMinn f := by
  cases f; cases h; rfl
theorem parseAp_23 (f : ApF) (h : f.opc = 0x23) : parseAp f = parseMaxn f := by
  cases f; cases h; rfl
theorem parseAp_24 (f : ApF) (h : f.opc = 0x24) : parseAp f = parseAbs f := by
  cases f; cases h; rfl
theorem parseAp_28 (f : ApF) (h : f.opc = 0x28) : parseAp f = parseClz f := by
  cases f; cases h; rfl
theorem parseAp_29 (f : ApF) (h : f.opc = 0x29) : parseAp f = parseCtz f := by
  cases f; cases h; rfl
theorem parseAp_2A (f : ApF) (h : f.opc = 0x2A) : parseAp f = parsePopc f := by
  cases f; cases h; rfl
theorem parseAp_2B (f : ApF) (h : f.opc = 0x2B) : parseAp f = parseBswap f := by
  cases f; cases h; rfl
theorem parseAp_30 (f : ApF) (h : f.opc = 0x30) : parseAp f = parseExts f := by
  cases f; cases h; rfl
theorem parseAp_31 (f : ApF) (h : f.opc = 0x31) : parseAp f = parseExtn f := by
  cases f; cases h; rfl
theorem parseAp_32 (f : ApF) (h : f.opc = 0x32) : parseAp f = parseIns f := by
  cases f; cases h; rfl
theorem parseAp_34 (f : ApF) (h : f.opc = 0x34) : parseAp f = parseMovi f := by
  cases f; cases h; rfl
theorem parseAp_35 (f : ApF) (h : f.opc = 0x35) : parseAp f = parseMovhi f := by
  cases f; cases h; rfl
theorem parseAp_38 (f : ApF) (h : f.opc = 0x38) : parseAp f = parseSel f := by
  cases f; cases h; rfl
theorem parseAp_70 (f : ApF) (h : f.opc = 0x70) : parseAp f = parsePcmp f := by
  cases f; cases h; rfl
theorem parseAp_71 (f : ApF) (h : f.opc = 0x71) : parseAp f = parsePcmpn f := by
  cases f; cases h; rfl
theorem parseAp_72 (f : ApF) (h : f.opc = 0x72) : parseAp f = parsePand f := by
  cases f; cases h; rfl
theorem parseAp_73 (f : ApF) (h : f.opc = 0x73) : parseAp f = parsePor f := by
  cases f; cases h; rfl
theorem parseAp_74 (f : ApF) (h : f.opc = 0x74) : parseAp f = parsePxor f := by
  cases f; cases h; rfl
theorem parseAp_75 (f : ApF) (h : f.opc = 0x75) : parseAp f = parsePnot f := by
  cases f; cases h; rfl
theorem parseAp_76 (f : ApF) (h : f.opc = 0x76) : parseAp f = parsePset f := by
  cases f; cases h; rfl
theorem parseAp_77 (f : ApF) (h : f.opc = 0x77) : parseAp f = parsePtst f := by
  cases f; cases h; rfl
theorem parseAp_60 (f : ApF) (h : f.opc = 0x60) : parseAp f = parseBr f := by
  cases f; cases h; rfl
theorem parseAp_61 (f : ApF) (h : f.opc = 0x61) : parseAp f = parseJmpr f := by
  cases f; cases h; rfl
theorem parseAp_62 (f : ApF) (h : f.opc = 0x62) : parseAp f = parseCall f := by
  cases f; cases h; rfl
theorem parseAp_63 (f : ApF) (h : f.opc = 0x63) : parseAp f = parseRet f := by
  cases f; cases h; rfl
theorem parseAp_64 (f : ApF) (h : f.opc = 0x64) : parseAp f = (parseLoop f).orElse fun _ => parseLoopImmediate f := by
  cases f; cases h; rfl
theorem parseAp_65 (f : ApF) (h : f.opc = 0x65) : parseAp f = parseLbrk f := by
  cases f; cases h; rfl
theorem parseAp_40 (f : ApF) (h : f.opc = 0x40) : parseAp f = parseLd f := by
  cases f; cases h; rfl
theorem parseAp_41 (f : ApF) (h : f.opc = 0x41) : parseAp f = parseSt f := by
  cases f; cases h; rfl
theorem parseAp_42 (f : ApF) (h : f.opc = 0x42) : parseAp f = parseLdc f := by
  cases f; cases h; rfl
theorem parseAp_43 (f : ApF) (h : f.opc = 0x43) : parseAp f = parseLdacq f := by
  cases f; cases h; rfl
theorem parseAp_44 (f : ApF) (h : f.opc = 0x44) : parseAp f = parseStrel f := by
  cases f; cases h; rfl
theorem parseAp_45 (f : ApF) (h : f.opc = 0x45) : parseAp f = parseLds f := by
  cases f; cases h; rfl
theorem parseAp_46 (f : ApF) (h : f.opc = 0x46) : parseAp f = parseSts f := by
  cases f; cases h; rfl
theorem parseAp_48 (f : ApF) (h : f.opc = 0x48) : parseAp f = parseAswap f := by
  cases f; cases h; rfl
theorem parseAp_49 (f : ApF) (h : f.opc = 0x49) : parseAp f = parseAcas f := by
  cases f; cases h; rfl
theorem parseAp_4A (f : ApF) (h : f.opc = 0x4A) : parseAp f = parseAadd f := by
  cases f; cases h; rfl
theorem parseAp_4B (f : ApF) (h : f.opc = 0x4B) : parseAp f = parseAand f := by
  cases f; cases h; rfl
theorem parseAp_4C (f : ApF) (h : f.opc = 0x4C) : parseAp f = parseAor f := by
  cases f; cases h; rfl
theorem parseAp_4D (f : ApF) (h : f.opc = 0x4D) : parseAp f = parseAxor f := by
  cases f; cases h; rfl
theorem parseAp_4E (f : ApF) (h : f.opc = 0x4E) : parseAp f = parseAmin f := by
  cases f; cases h; rfl
theorem parseAp_4F (f : ApF) (h : f.opc = 0x4F) : parseAp f = parseAmax f := by
  cases f; cases h; rfl
theorem parseAp_50 (f : ApF) (h : f.opc = 0x50) : parseAp f = parseAminn f := by
  cases f; cases h; rfl
theorem parseAp_51 (f : ApF) (h : f.opc = 0x51) : parseAp f = parseAmaxn f := by
  cases f; cases h; rfl
theorem parseAp_52 (f : ApF) (h : f.opc = 0x52) : parseAp f = parseAminp f := by
  cases f; cases h; rfl
theorem parseAp_C0 (f : ApF) (h : f.opc = 0xC0) : parseAp f = parseFenceAcq f := by
  cases f; cases h; rfl
theorem parseAp_C1 (f : ApF) (h : f.opc = 0xC1) : parseAp f = parseFenceRel f := by
  cases f; cases h; rfl
theorem parseAp_C2 (f : ApF) (h : f.opc = 0xC2) : parseAp f = parseFenceSc f := by
  cases f; cases h; rfl
theorem parseAp_C4 (f : ApF) (h : f.opc = 0xC4) : parseAp f = parseSlb f := by
  cases f; cases h; rfl
theorem parseAp_C5 (f : ApF) (h : f.opc = 0xC5) : parseAp f = parseSlc f := by
  cases f; cases h; rfl
theorem parseAp_C6 (f : ApF) (h : f.opc = 0xC6) : parseAp f = parseSlx f := by
  cases f; cases h; rfl
theorem parseAp_C8 (f : ApF) (h : f.opc = 0xC8) : parseAp f = parseIfence f := by
  cases f; cases h; rfl
theorem parseAp_80 (f : ApF) (h : f.opc = 0x80) : parseAp f = parseScfg f := by
  cases f; cases h; rfl
theorem parseAp_81 (f : ApF) (h : f.opc = 0x81) : parseAp f = parseSgo f := by
  cases f; cases h; rfl
theorem parseAp_82 (f : ApF) (h : f.opc = 0x82) : parseAp f = (parseSrewStart f).orElse fun _ => parseSrewMark f := by
  cases f; cases h; rfl
theorem parseAp_83 (f : ApF) (h : f.opc = 0x83) : parseAp f = parseSmark f := by
  cases f; cases h; rfl
theorem parseAp_84 (f : ApF) (h : f.opc = 0x84) : parseAp f = parseSfork f := by
  cases f; cases h; rfl
theorem parseAp_85 (f : ApF) (h : f.opc = 0x85) : parseAp f = parseSend f := by
  cases f; cases h; rfl
theorem parseAp_86 (f : ApF) (h : f.opc = 0x86) : parseAp f = parseSsave f := by
  cases f; cases h; rfl
theorem parseAp_87 (f : ApF) (h : f.opc = 0x87) : parseAp f = parseSsaveb f := by
  cases f; cases h; rfl
theorem parseAp_88 (f : ApF) (h : f.opc = 0x88) : parseAp f = parseSrstr f := by
  cases f; cases h; rfl
theorem parseAp_89 (f : ApF) (h : f.opc = 0x89) : parseAp f = parseSqry f := by
  cases f; cases h; rfl
theorem parseAp_8A (f : ApF) (h : f.opc = 0x8A) : parseAp f = parseSmask f := by
  cases f; cases h; rfl
theorem parseAp_8B (f : ApF) (h : f.opc = 0x8B) : parseAp f = parseGrd f := by
  cases f; cases h; rfl
theorem parseAp_A0 (f : ApF) (h : f.opc = 0xA0) : parseAp f = parseCpy f := by
  cases f; cases h; rfl
theorem parseAp_A1 (f : ApF) (h : f.opc = 0xA1) : parseAp f = parseCpyi f := by
  cases f; cases h; rfl
theorem parseAp_A2 (f : ApF) (h : f.opc = 0xA2) : parseAp f = parseWmrd f := by
  cases f; cases h; rfl
theorem parseAp_A3 (f : ApF) (h : f.opc = 0xA3) : parseAp f = parseCpq f := by
  cases f; cases h; rfl
theorem parseAp_A4 (f : ApF) (h : f.opc = 0xA4) : parseAp f = parseTwait f := by
  cases f; cases h; rfl
theorem parseAp_A5 (f : ApF) (h : f.opc = 0xA5) : parseAp f = parseTffr f := by
  cases f; cases h; rfl
theorem parseAp_A8 (f : ApF) (h : f.opc = 0xA8) : parseAp f = parseWait f := by
  cases f; cases h; rfl
theorem parseAp_AA (f : ApF) (h : f.opc = 0xAA) : parseAp f = parseBinit f := by
  cases f; cases h; rfl
theorem parseAp_AB (f : ApF) (h : f.opc = 0xAB) : parseAp f = parseBarr f := by
  cases f; cases h; rfl
theorem parseAp_AC (f : ApF) (h : f.opc = 0xAC) : parseAp f = parseBarrx f := by
  cases f; cases h; rfl
theorem parseAp_AD (f : ApF) (h : f.opc = 0xAD) : parseAp f = parseBwait f := by
  cases f; cases h; rfl
theorem parseAp_B0 (f : ApF) (h : f.opc = 0xB0) : parseAp f = parseWlcfg f := by
  cases f; cases h; rfl
theorem parseAp_B1 (f : ApF) (h : f.opc = 0xB1) : parseAp f = parseWlpush f := by
  cases f; cases h; rfl
theorem parseAp_B2 (f : ApF) (h : f.opc = 0xB2) : parseAp f = parseWlins f := by
  cases f; cases h; rfl
theorem parseAp_B3 (f : ApF) (h : f.opc = 0xB3) : parseAp f = parseWlclr f := by
  cases f; cases h; rfl
theorem parseAp_B4 (f : ApF) (h : f.opc = 0xB4) : parseAp f = parseWlcnt f := by
  cases f; cases h; rfl
theorem parseAp_B8 (f : ApF) (h : f.opc = 0xB8) : parseAp f = parseChlink f := by
  cases f; cases h; rfl
theorem parseAp_B9 (f : ApF) (h : f.opc = 0xB9) : parseAp f = parseChkick f := by
  cases f; cases h; rfl
theorem parseAp_BA (f : ApF) (h : f.opc = 0xBA) : parseAp f = parseChq f := by
  cases f; cases h; rfl
theorem parseAp_BB (f : ApF) (h : f.opc = 0xBB) : parseAp f = parseJpost f := by
  cases f; cases h; rfl
theorem parseAp_E0 (f : ApF) (h : f.opc = 0xE0) : parseAp f = (parseFork f).orElse fun _ => parseForkEntry f := by
  cases f; cases h; rfl
theorem parseAp_E1 (f : ApF) (h : f.opc = 0xE1) : parseAp f = parseRdv f := by
  cases f; cases h; rfl
theorem parseAp_E2 (f : ApF) (h : f.opc = 0xE2) : parseAp f = parseYield f := by
  cases f; cases h; rfl
theorem parseAp_E3 (f : ApF) (h : f.opc = 0xE3) : parseAp f = parseTrap f := by
  cases f; cases h; rfl
theorem parseAp_E4 (f : ApF) (h : f.opc = 0xE4) : parseAp f = parseEret f := by
  cases f; cases h; rfl
theorem parseAp_E5 (f : ApF) (h : f.opc = 0xE5) : parseAp f = parseRdsr f := by
  cases f; cases h; rfl
theorem parseAp_E6 (f : ApF) (h : f.opc = 0xE6) : parseAp f = parseWrsr f := by
  cases f; cases h; rfl
theorem parseAp_E7 (f : ApF) (h : f.opc = 0xE7) : parseAp f = parseGtcrd f := by
  cases f; cases h; rfl
theorem parseAp_E8 (f : ApF) (h : f.opc = 0xE8) : parseAp f = parseApDone f := by
  cases f; cases h; rfl
theorem parseXp_01 (f : XpF) (h : f.opc = 0x01) : parseXp f = parseVadd f := by
  cases f; cases h; rfl
theorem parseXp_02 (f : XpF) (h : f.opc = 0x02) : parseXp f = parseVsub f := by
  cases f; cases h; rfl
theorem parseXp_03 (f : XpF) (h : f.opc = 0x03) : parseXp f = parseVmul f := by
  cases f; cases h; rfl
theorem parseXp_04 (f : XpF) (h : f.opc = 0x04) : parseXp f = parseVmulh f := by
  cases f; cases h; rfl
theorem parseXp_05 (f : XpF) (h : f.opc = 0x05) : parseXp f = parseVmulhn f := by
  cases f; cases h; rfl
theorem parseXp_06 (f : XpF) (h : f.opc = 0x06) : parseXp f = parseVadds f := by
  cases f; cases h; rfl
theorem parseXp_07 (f : XpF) (h : f.opc = 0x07) : parseXp f = parseVsubs f := by
  cases f; cases h; rfl
theorem parseXp_08 (f : XpF) (h : f.opc = 0x08) : parseXp f = parseVaddsn f := by
  cases f; cases h; rfl
theorem parseXp_09 (f : XpF) (h : f.opc = 0x09) : parseXp f = parseVsubsn f := by
  cases f; cases h; rfl
theorem parseXp_0A (f : XpF) (h : f.opc = 0x0A) : parseXp f = parseVmad f := by
  cases f; cases h; rfl
theorem parseXp_0C (f : XpF) (h : f.opc = 0x0C) : parseXp f = parseVabs f := by
  cases f; cases h; rfl
theorem parseXp_10 (f : XpF) (h : f.opc = 0x10) : parseXp f = parseVand f := by
  cases f; cases h; rfl
theorem parseXp_11 (f : XpF) (h : f.opc = 0x11) : parseXp f = parseVor f := by
  cases f; cases h; rfl
theorem parseXp_12 (f : XpF) (h : f.opc = 0x12) : parseXp f = parseVxor f := by
  cases f; cases h; rfl
theorem parseXp_13 (f : XpF) (h : f.opc = 0x13) : parseXp f = parseVandn f := by
  cases f; cases h; rfl
theorem parseXp_14 (f : XpF) (h : f.opc = 0x14) : parseXp f = parseVshl f := by
  cases f; cases h; rfl
theorem parseXp_15 (f : XpF) (h : f.opc = 0x15) : parseXp f = parseVshr f := by
  cases f; cases h; rfl
theorem parseXp_16 (f : XpF) (h : f.opc = 0x16) : parseXp f = parseVsar f := by
  cases f; cases h; rfl
theorem parseXp_18 (f : XpF) (h : f.opc = 0x18) : parseXp f = parseVclz f := by
  cases f; cases h; rfl
theorem parseXp_19 (f : XpF) (h : f.opc = 0x19) : parseXp f = parseVpopc f := by
  cases f; cases h; rfl
theorem parseXp_20 (f : XpF) (h : f.opc = 0x20) : parseXp f = parseVmin f := by
  cases f; cases h; rfl
theorem parseXp_21 (f : XpF) (h : f.opc = 0x21) : parseXp f = parseVmax f := by
  cases f; cases h; rfl
theorem parseXp_22 (f : XpF) (h : f.opc = 0x22) : parseXp f = parseVminn f := by
  cases f; cases h; rfl
theorem parseXp_23 (f : XpF) (h : f.opc = 0x23) : parseXp f = parseVmaxn f := by
  cases f; cases h; rfl
theorem parseXp_24 (f : XpF) (h : f.opc = 0x24) : parseXp f = parseVcmp f := by
  cases f; cases h; rfl
theorem parseXp_25 (f : XpF) (h : f.opc = 0x25) : parseXp f = parseVcmpn f := by
  cases f; cases h; rfl
theorem parseXp_26 (f : XpF) (h : f.opc = 0x26) : parseXp f = parseVsel f := by
  cases f; cases h; rfl
theorem parseXp_28 (f : XpF) (h : f.opc = 0x28) : parseXp f = parseVdot4 f := by
  cases f; cases h; rfl
theorem parseXp_29 (f : XpF) (h : f.opc = 0x29) : parseXp f = parseVdot4n f := by
  cases f; cases h; rfl
theorem parseXp_2A (f : XpF) (h : f.opc = 0x2A) : parseXp f = parseVdot4s f := by
  cases f; cases h; rfl
theorem parseXp_2B (f : XpF) (h : f.opc = 0x2B) : parseXp f = parseVdot4sn f := by
  cases f; cases h; rfl
theorem parseXp_40 (f : XpF) (h : f.opc = 0x40) : parseXp f = parseVfadd f := by
  cases f; cases h; rfl
theorem parseXp_41 (f : XpF) (h : f.opc = 0x41) : parseXp f = parseVfaddzr f := by
  cases f; cases h; rfl
theorem parseXp_42 (f : XpF) (h : f.opc = 0x42) : parseXp f = parseVfaddfl f := by
  cases f; cases h; rfl
theorem parseXp_43 (f : XpF) (h : f.opc = 0x43) : parseXp f = parseVfaddcl f := by
  cases f; cases h; rfl
theorem parseXp_44 (f : XpF) (h : f.opc = 0x44) : parseXp f = parseVfsub f := by
  cases f; cases h; rfl
theorem parseXp_45 (f : XpF) (h : f.opc = 0x45) : parseXp f = parseVfsubzr f := by
  cases f; cases h; rfl
theorem parseXp_46 (f : XpF) (h : f.opc = 0x46) : parseXp f = parseVfsubfl f := by
  cases f; cases h; rfl
theorem parseXp_47 (f : XpF) (h : f.opc = 0x47) : parseXp f = parseVfsubcl f := by
  cases f; cases h; rfl
theorem parseXp_48 (f : XpF) (h : f.opc = 0x48) : parseXp f = parseVfmul f := by
  cases f; cases h; rfl
theorem parseXp_49 (f : XpF) (h : f.opc = 0x49) : parseXp f = parseVfmulzr f := by
  cases f; cases h; rfl
theorem parseXp_4A (f : XpF) (h : f.opc = 0x4A) : parseXp f = parseVfmulfl f := by
  cases f; cases h; rfl
theorem parseXp_4B (f : XpF) (h : f.opc = 0x4B) : parseXp f = parseVfmulcl f := by
  cases f; cases h; rfl
theorem parseXp_4C (f : XpF) (h : f.opc = 0x4C) : parseXp f = parseVfma f := by
  cases f; cases h; rfl
theorem parseXp_4D (f : XpF) (h : f.opc = 0x4D) : parseXp f = parseVfmazr f := by
  cases f; cases h; rfl
theorem parseXp_4E (f : XpF) (h : f.opc = 0x4E) : parseXp f = parseVfmafl f := by
  cases f; cases h; rfl
theorem parseXp_4F (f : XpF) (h : f.opc = 0x4F) : parseXp f = parseVfmacl f := by
  cases f; cases h; rfl
theorem parseXp_50 (f : XpF) (h : f.opc = 0x50) : parseXp f = parseVfdiv f := by
  cases f; cases h; rfl
theorem parseXp_51 (f : XpF) (h : f.opc = 0x51) : parseXp f = parseVfdivzr f := by
  cases f; cases h; rfl
theorem parseXp_52 (f : XpF) (h : f.opc = 0x52) : parseXp f = parseVfsqrt f := by
  cases f; cases h; rfl
theorem parseXp_54 (f : XpF) (h : f.opc = 0x54) : parseXp f = parseVfmin f := by
  cases f; cases h; rfl
theorem parseXp_55 (f : XpF) (h : f.opc = 0x55) : parseXp f = parseVfmax f := by
  cases f; cases h; rfl
theorem parseXp_56 (f : XpF) (h : f.opc = 0x56) : parseXp f = parseVfabs f := by
  cases f; cases h; rfl
theorem parseXp_57 (f : XpF) (h : f.opc = 0x57) : parseXp f = parseVfneg f := by
  cases f; cases h; rfl
theorem parseXp_58 (f : XpF) (h : f.opc = 0x58) : parseXp f = parseVfcmp f := by
  cases f; cases h; rfl
theorem parseXp_5C (f : XpF) (h : f.opc = 0x5C) : parseXp f = parseVfexp f := by
  cases f; cases h; rfl
theorem parseXp_5D (f : XpF) (h : f.opc = 0x5D) : parseXp f = parseVfscale f := by
  cases f; cases h; rfl
theorem parseXp_5E (f : XpF) (h : f.opc = 0x5E) : parseXp f = parseVfrint f := by
  cases f; cases h; rfl
theorem parseXp_5F (f : XpF) (h : f.opc = 0x5F) : parseXp f = parseVfrintfl f := by
  cases f; cases h; rfl
theorem parseXp_80 (f : XpF) (h : f.opc = 0x80) : parseXp f = parseVcvt f := by
  cases f; cases h; rfl
theorem parseXp_81 (f : XpF) (h : f.opc = 0x81) : parseXp f = parseVcvtzr f := by
  cases f; cases h; rfl
theorem parseXp_82 (f : XpF) (h : f.opc = 0x82) : parseXp f = parseVcvtfl f := by
  cases f; cases h; rfl
theorem parseXp_83 (f : XpF) (h : f.opc = 0x83) : parseXp f = parseVcvtcl f := by
  cases f; cases h; rfl
theorem parseXp_84 (f : XpF) (h : f.opc = 0x84) : parseXp f = parseVnars f := by
  cases f; cases h; rfl
theorem parseXp_85 (f : XpF) (h : f.opc = 0x85) : parseXp f = parseVnarw f := by
  cases f; cases h; rfl
theorem parseXp_86 (f : XpF) (h : f.opc = 0x86) : parseXp f = parseVqblk f := by
  cases f; cases h; rfl
theorem parseXp_87 (f : XpF) (h : f.opc = 0x87) : parseXp f = parseVdqblk f := by
  cases f; cases h; rfl
theorem parseXp_A0 (f : XpF) (h : f.opc = 0xA0) : parseXp f = parseVredf f := by
  cases f; cases h; rfl
theorem parseXp_A1 (f : XpF) (h : f.opc = 0xA1) : parseXp f = parseVredfmax f := by
  cases f; cases h; rfl
theorem parseXp_A2 (f : XpF) (h : f.opc = 0xA2) : parseXp f = parseVredfmin f := by
  cases f; cases h; rfl
theorem parseXp_A3 (f : XpF) (h : f.opc = 0xA3) : parseXp f = parseVred f := by
  cases f; cases h; rfl
theorem parseXp_A4 (f : XpF) (h : f.opc = 0xA4) : parseXp f = parseVreds f := by
  cases f; cases h; rfl
theorem parseXp_A5 (f : XpF) (h : f.opc = 0xA5) : parseXp f = parseVredmax f := by
  cases f; cases h; rfl
theorem parseXp_A6 (f : XpF) (h : f.opc = 0xA6) : parseXp f = parseVredmin f := by
  cases f; cases h; rfl
theorem parseXp_A8 (f : XpF) (h : f.opc = 0xA8) : parseXp f = parseVscan f := by
  cases f; cases h; rfl
theorem parseXp_A9 (f : XpF) (h : f.opc = 0xA9) : parseXp f = parseVbpfx f := by
  cases f; cases h; rfl
theorem parseXp_AA (f : XpF) (h : f.opc = 0xAA) : parseXp f = parseVisect f := by
  cases f; cases h; rfl
theorem parseXp_AB (f : XpF) (h : f.opc = 0xAB) : parseXp f = parseVcmprs f := by
  cases f; cases h; rfl
theorem parseXp_AC (f : XpF) (h : f.opc = 0xAC) : parseXp f = parseVexpnd f := by
  cases f; cases h; rfl
theorem parseXp_B0 (f : XpF) (h : f.opc = 0xB0) : parseXp f = parseVperm f := by
  cases f; cases h; rfl
theorem parseXp_B1 (f : XpF) (h : f.opc = 0xB1) : parseXp f = parseVbcast f := by
  cases f; cases h; rfl
theorem parseXp_B2 (f : XpF) (h : f.opc = 0xB2) : parseXp f = parseVrotl f := by
  cases f; cases h; rfl
theorem parseXp_B3 (f : XpF) (h : f.opc = 0xB3) : parseXp f = parseVslide f := by
  cases f; cases h; rfl
theorem parseXp_B4 (f : XpF) (h : f.opc = 0xB4) : parseXp f = parseVzip f := by
  cases f; cases h; rfl
theorem parseXp_B5 (f : XpF) (h : f.opc = 0xB5) : parseXp f = parseVunzip f := by
  cases f; cases h; rfl
theorem parseXp_B6 (f : XpF) (h : f.opc = 0xB6) : parseXp f = parseVmov f := by
  cases f; cases h; rfl
theorem parseXp_B7 (f : XpF) (h : f.opc = 0xB7) : parseXp f = parseVsplat f := by
  cases f; cases h; rfl
theorem parseXp_B8 (f : XpF) (h : f.opc = 0xB8) : parseXp f = parseMand f := by
  cases f; cases h; rfl
theorem parseXp_B9 (f : XpF) (h : f.opc = 0xB9) : parseXp f = parseMor f := by
  cases f; cases h; rfl
theorem parseXp_BA (f : XpF) (h : f.opc = 0xBA) : parseXp f = parseMxor f := by
  cases f; cases h; rfl
theorem parseXp_BB (f : XpF) (h : f.opc = 0xBB) : parseXp f = parseMnot f := by
  cases f; cases h; rfl
theorem parseXp_BC (f : XpF) (h : f.opc = 0xBC) : parseXp f = parseMpopc f := by
  cases f; cases h; rfl
theorem parseXp_BD (f : XpF) (h : f.opc = 0xBD) : parseXp f = parseMsetx f := by
  cases f; cases h; rfl
theorem parseXp_BE (f : XpF) (h : f.opc = 0xBE) : parseXp f = parseMgetx f := by
  cases f; cases h; rfl
theorem parseXp_E0 (f : XpF) (h : f.opc = 0xE0) : parseXp f = parseXadd f := by
  cases f; cases h; rfl
theorem parseXp_E1 (f : XpF) (h : f.opc = 0xE1) : parseXp f = parseXsub f := by
  cases f; cases h; rfl
theorem parseXp_E2 (f : XpF) (h : f.opc = 0xE2) : parseXp f = parseXmul f := by
  cases f; cases h; rfl
theorem parseXp_E3 (f : XpF) (h : f.opc = 0xE3) : parseXp f = parseXand f := by
  cases f; cases h; rfl
theorem parseXp_E4 (f : XpF) (h : f.opc = 0xE4) : parseXp f = parseXior f := by
  cases f; cases h; rfl
theorem parseXp_E5 (f : XpF) (h : f.opc = 0xE5) : parseXp f = parseXxor f := by
  cases f; cases h; rfl
theorem parseXp_E6 (f : XpF) (h : f.opc = 0xE6) : parseXp f = parseXshl f := by
  cases f; cases h; rfl
theorem parseXp_E7 (f : XpF) (h : f.opc = 0xE7) : parseXp f = parseXshr f := by
  cases f; cases h; rfl
theorem parseXp_E8 (f : XpF) (h : f.opc = 0xE8) : parseXp f = parseXmovi f := by
  cases f; cases h; rfl
theorem parseXp_E9 (f : XpF) (h : f.opc = 0xE9) : parseXp f = parseXlane f := by
  cases f; cases h; rfl
theorem parseXp_EA (f : XpF) (h : f.opc = 0xEA) : parseXp f = (parseXloop f).orElse fun _ => parseXloopImmediate f := by
  cases f; cases h; rfl
theorem parseXp_EB (f : XpF) (h : f.opc = 0xEB) : parseXp f = parseXbr f := by
  cases f; cases h; rfl
theorem parseXp_EC (f : XpF) (h : f.opc = 0xEC) : parseXp f = parseXbrc f := by
  cases f; cases h; rfl
theorem parseXp_ED (f : XpF) (h : f.opc = 0xED) : parseXp f = parseXbend f := by
  cases f; cases h; rfl
theorem parseXp_EE (f : XpF) (h : f.opc = 0xEE) : parseXp f = (parseVld f).orElse fun _ => parseVldIndexed f := by
  cases f; cases h; rfl
theorem parseXp_EF (f : XpF) (h : f.opc = 0xEF) : parseXp f = (parseVst f).orElse fun _ => parseVstIndexed f := by
  cases f; cases h; rfl
theorem parseXp_C0 (f : XpF) (h : f.opc = 0xC0) : parseXp f = parseMwldF4 f := by
  cases f; cases h; rfl
theorem parseXp_C1 (f : XpF) (h : f.opc = 0xC1) : parseXp f = parseMwldE4m3 f := by
  cases f; cases h; rfl
theorem parseXp_C2 (f : XpF) (h : f.opc = 0xC2) : parseXp f = parseMwldE5m2 f := by
  cases f; cases h; rfl
theorem parseXp_C3 (f : XpF) (h : f.opc = 0xC3) : parseXp f = parseMwldBf16 f := by
  cases f; cases h; rfl
theorem parseXp_C4 (f : XpF) (h : f.opc = 0xC4) : parseXp f = parseMwldF16 f := by
  cases f; cases h; rfl
theorem parseXp_C5 (f : XpF) (h : f.opc = 0xC5) : parseXp f = parseMwldI8 f := by
  cases f; cases h; rfl
theorem parseXp_C6 (f : XpF) (h : f.opc = 0xC6) : parseXp f = parseMwldN8 f := by
  cases f; cases h; rfl
theorem parseXp_C7 (f : XpF) (h : f.opc = 0xC7) : parseXp f = parseMwldI4 f := by
  cases f; cases h; rfl
theorem parseXp_C8 (f : XpF) (h : f.opc = 0xC8) : parseXp f = parseMwldN4 f := by
  cases f; cases h; rfl
theorem parseXp_CA (f : XpF) (h : f.opc = 0xCA) : parseXp f = parseMwid f := by
  cases f; cases h; rfl
theorem parseXp_CB (f : XpF) (h : f.opc = 0xCB) : parseXp f = parseMwperm f := by
  cases f; cases h; rfl
theorem parseXp_CC (f : XpF) (h : f.opc = 0xCC) : parseXp f = parseMwones f := by
  cases f; cases h; rfl
theorem parseXp_CD (f : XpF) (h : f.opc = 0xCD) : parseXp f = parseMwsel f := by
  cases f; cases h; rfl
theorem parseXp_CE (f : XpF) (h : f.opc = 0xCE) : parseXp f = parseMwswp f := by
  cases f; cases h; rfl
theorem parseXp_D0 (f : XpF) (h : f.opc = 0xD0) : parseXp f = parseMmul f := by
  cases f; cases h; rfl
theorem parseXp_D1 (f : XpF) (h : f.opc = 0xD1) : parseXp f = parseMmulz f := by
  cases f; cases h; rfl
theorem parseXp_D2 (f : XpF) (h : f.opc = 0xD2) : parseXp f = parseMmulm f := by
  cases f; cases h; rfl
theorem parseXp_D3 (f : XpF) (h : f.opc = 0xD3) : parseXp f = parseMmulmz f := by
  cases f; cases h; rfl
theorem parseXp_D4 (f : XpF) (h : f.opc = 0xD4) : parseXp f = (parseMacrd f).orElse fun _ => parseMacrdScratchpad f := by
  cases f; cases h; rfl
theorem parseXp_D5 (f : XpF) (h : f.opc = 0xD5) : parseXp f = parseMacclr f := by
  cases f; cases h; rfl
theorem parseXp_D8 (f : XpF) (h : f.opc = 0xD8) : parseXp f = ((parseMscoutQuery f).orElse fun _ => parseMscoutKey f).orElse fun _ => parseMscoutScore f := by
  cases f; cases h; rfl
theorem parseXp_D9 (f : XpF) (h : f.opc = 0xD9) : parseXp f = parseMcairn f := by
  cases f; cases h; rfl
theorem parseXp_DA (f : XpF) (h : f.opc = 0xDA) : parseXp f = parseGand f := by
  cases f; cases h; rfl
theorem parseXp_DB (f : XpF) (h : f.opc = 0xDB) : parseXp f = parseGor f := by
  cases f; cases h; rfl
theorem parseXp_DC (f : XpF) (h : f.opc = 0xDC) : parseXp f = parseGandn f := by
  cases f; cases h; rfl
theorem parseXp_DD (f : XpF) (h : f.opc = 0xDD) : parseXp f = parseGset f := by
  cases f; cases h; rfl
theorem parseXp_DE (f : XpF) (h : f.opc = 0xDE) : parseXp f = parseGget f := by
  cases f; cases h; rfl
theorem parseXp_F0 (f : XpF) (h : f.opc = 0xF0) : parseXp f = parseXpRdv f := by
  cases f; cases h; rfl
theorem parseXp_F1 (f : XpF) (h : f.opc = 0xF1) : parseXp f = parseXpWait f := by
  cases f; cases h; rfl
theorem parseXp_F2 (f : XpF) (h : f.opc = 0xF2) : parseXp f = parseWlpopv f := by
  cases f; cases h; rfl
theorem parseXp_F3 (f : XpF) (h : f.opc = 0xF3) : parseXp f = parseXpIfence f := by
  cases f; cases h; rfl
theorem parseXp_F4 (f : XpF) (h : f.opc = 0xF4) : parseXp f = parseXpRdsr f := by
  cases f; cases h; rfl
theorem parseXp_F5 (f : XpF) (h : f.opc = 0xF5) : parseXp f = parseXpWrsr f := by
  cases f; cases h; rfl
theorem parseXp_F6 (f : XpF) (h : f.opc = 0xF6) : parseXp f = parseXpYield f := by
  cases f; cases h; rfl
theorem parseXp_F7 (f : XpF) (h : f.opc = 0xF7) : parseXp f = parseXpTrap f := by
  cases f; cases h; rfl
theorem parseXp_F8 (f : XpF) (h : f.opc = 0xF8) : parseXp f = parseXpDone f := by
  cases f; cases h; rfl
theorem parseXp_F9 (f : XpF) (h : f.opc = 0xF9) : parseXp f = parseXpNop f := by
  cases f; cases h; rfl
theorem parseXp_FA (f : XpF) (h : f.opc = 0xFA) : parseXp f = parseXpFenceAcq f := by
  cases f; cases h; rfl
theorem parseXp_FB (f : XpF) (h : f.opc = 0xFB) : parseXp f = parseXpFenceRel f := by
  cases f; cases h; rfl
theorem parseXp_FC (f : XpF) (h : f.opc = 0xFC) : parseXp f = parseXpFenceSc f := by
  cases f; cases h; rfl
theorem encodeWord_nop (h : ApHdr) :
    encodeWord (.nop h) = some (.ap, apWord 0x01 h 0 0 ⟨0, 0, 0⟩ 0) := rfl
theorem encodeWord_add (h : ApHdr) (rd ra : BitVec 5) (o : Op2) :
    encodeWord (.add h rd ra o) = some (.ap, apWord 0x02 h rd ra (.ofOp2 o) 0) := rfl
theorem encodeWord_sub (h : ApHdr) (rd ra : BitVec 5) (o : Op2) :
    encodeWord (.sub h rd ra o) = some (.ap, apWord 0x03 h rd ra (.ofOp2 o) 0) := rfl
theorem encodeWord_mul (h : ApHdr) (rd ra : BitVec 5) (o : Op2) :
    encodeWord (.mul h rd ra o) = some (.ap, apWord 0x04 h rd ra (.ofOp2 o) 0) := rfl
theorem encodeWord_mulh (h : ApHdr) (rd ra : BitVec 5) (o : Op2) :
    encodeWord (.mulh h rd ra o) = some (.ap, apWord 0x05 h rd ra (.ofOp2 o) 0) := rfl
theorem encodeWord_mulhn (h : ApHdr) (rd ra : BitVec 5) (o : Op2) :
    encodeWord (.mulhn h rd ra o) = some (.ap, apWord 0x06 h rd ra (.ofOp2 o) 0) := rfl
theorem encodeWord_div (h : ApHdr) (rd ra : BitVec 5) (o : Op2) :
    encodeWord (.div h rd ra o) = some (.ap, apWord 0x07 h rd ra (.ofOp2 o) 0) := rfl
theorem encodeWord_divn (h : ApHdr) (rd ra : BitVec 5) (o : Op2) :
    encodeWord (.divn h rd ra o) = some (.ap, apWord 0x08 h rd ra (.ofOp2 o) 0) := rfl
theorem encodeWord_rem (h : ApHdr) (rd ra : BitVec 5) (o : Op2) :
    encodeWord (.rem h rd ra o) = some (.ap, apWord 0x09 h rd ra (.ofOp2 o) 0) := rfl
theorem encodeWord_remn (h : ApHdr) (rd ra : BitVec 5) (o : Op2) :
    encodeWord (.remn h rd ra o) = some (.ap, apWord 0x0A h rd ra (.ofOp2 o) 0) := rfl
theorem encodeWord_adds (h : ApHdr) (rd ra : BitVec 5) (o : Op2) :
    encodeWord (.adds h rd ra o) = some (.ap, apWord 0x0B h rd ra (.ofOp2 o) 0) := rfl
theorem encodeWord_subs (h : ApHdr) (rd ra : BitVec 5) (o : Op2) :
    encodeWord (.subs h rd ra o) = some (.ap, apWord 0x0C h rd ra (.ofOp2 o) 0) := rfl
theorem encodeWord_addsn (h : ApHdr) (rd ra : BitVec 5) (o : Op2) :
    encodeWord (.addsn h rd ra o) = some (.ap, apWord 0x0D h rd ra (.ofOp2 o) 0) := rfl
theorem encodeWord_subsn (h : ApHdr) (rd ra : BitVec 5) (o : Op2) :
    encodeWord (.subsn h rd ra o) = some (.ap, apWord 0x0E h rd ra (.ofOp2 o) 0) := rfl
theorem encodeWord_and (h : ApHdr) (rd ra : BitVec 5) (o : Op2) :
    encodeWord (.and h rd ra o) = some (.ap, apWord 0x10 h rd ra (.ofOp2 o) 0) := rfl
theorem encodeWord_or (h : ApHdr) (rd ra : BitVec 5) (o : Op2) :
    encodeWord (.or h rd ra o) = some (.ap, apWord 0x11 h rd ra (.ofOp2 o) 0) := rfl
theorem encodeWord_xor (h : ApHdr) (rd ra : BitVec 5) (o : Op2) :
    encodeWord (.xor h rd ra o) = some (.ap, apWord 0x12 h rd ra (.ofOp2 o) 0) := rfl
theorem encodeWord_andn (h : ApHdr) (rd ra : BitVec 5) (o : Op2) :
    encodeWord (.andn h rd ra o) = some (.ap, apWord 0x13 h rd ra (.ofOp2 o) 0) := rfl
theorem encodeWord_orn (h : ApHdr) (rd ra : BitVec 5) (o : Op2) :
    encodeWord (.orn h rd ra o) = some (.ap, apWord 0x14 h rd ra (.ofOp2 o) 0) := rfl
theorem encodeWord_shl (h : ApHdr) (rd ra : BitVec 5) (o : Op2) :
    encodeWord (.shl h rd ra o) = some (.ap, apWord 0x18 h rd ra (.ofOp2 o) 0) := rfl
theorem encodeWord_shr (h : ApHdr) (rd ra : BitVec 5) (o : Op2) :
    encodeWord (.shr h rd ra o) = some (.ap, apWord 0x19 h rd ra (.ofOp2 o) 0) := rfl
theorem encodeWord_sar (h : ApHdr) (rd ra : BitVec 5) (o : Op2) :
    encodeWord (.sar h rd ra o) = some (.ap, apWord 0x1A h rd ra (.ofOp2 o) 0) := rfl
theorem encodeWord_rol (h : ApHdr) (rd ra : BitVec 5) (o : Op2) :
    encodeWord (.rol h rd ra o) = some (.ap, apWord 0x1B h rd ra (.ofOp2 o) 0) := rfl
theorem encodeWord_ror (h : ApHdr) (rd ra : BitVec 5) (o : Op2) :
    encodeWord (.ror h rd ra o) = some (.ap, apWord 0x1C h rd ra (.ofOp2 o) 0) := rfl
theorem encodeWord_min (h : ApHdr) (rd ra : BitVec 5) (o : Op2) :
    encodeWord (.min h rd ra o) = some (.ap, apWord 0x20 h rd ra (.ofOp2 o) 0) := rfl
theorem encodeWord_max (h : ApHdr) (rd ra : BitVec 5) (o : Op2) :
    encodeWord (.max h rd ra o) = some (.ap, apWord 0x21 h rd ra (.ofOp2 o) 0) := rfl
theorem encodeWord_minn (h : ApHdr) (rd ra : BitVec 5) (o : Op2) :
    encodeWord (.minn h rd ra o) = some (.ap, apWord 0x22 h rd ra (.ofOp2 o) 0) := rfl
theorem encodeWord_maxn (h : ApHdr) (rd ra : BitVec 5) (o : Op2) :
    encodeWord (.maxn h rd ra o) = some (.ap, apWord 0x23 h rd ra (.ofOp2 o) 0) := rfl
theorem encodeWord_abs (h : ApHdr) (rd ra : BitVec 5) :
    encodeWord (.abs h rd ra) = some (.ap, apWord 0x24 h rd ra ⟨0, 0, 0⟩ 0) := rfl
theorem encodeWord_clz (h : ApHdr) (rd ra : BitVec 5) :
    encodeWord (.clz h rd ra) = some (.ap, apWord 0x28 h rd ra ⟨0, 0, 0⟩ 0) := rfl
theorem encodeWord_ctz (h : ApHdr) (rd ra : BitVec 5) :
    encodeWord (.ctz h rd ra) = some (.ap, apWord 0x29 h rd ra ⟨0, 0, 0⟩ 0) := rfl
theorem encodeWord_popc (h : ApHdr) (rd ra : BitVec 5) :
    encodeWord (.popc h rd ra) = some (.ap, apWord 0x2A h rd ra ⟨0, 0, 0⟩ 0) := rfl
theorem encodeWord_bswap (h : ApHdr) (rd ra : BitVec 5) :
    encodeWord (.bswap h rd ra) = some (.ap, apWord 0x2B h rd ra ⟨0, 0, 0⟩ 0) := rfl
theorem encodeWord_exts (h : ApHdr) (rd ra : BitVec 5) (pos lenm1 : BitVec 6) :
    encodeWord (.exts h rd ra pos lenm1) = some (.ap, apWord 0x30 h rd ra ⟨0, 0, 0⟩ (join [18, 6, 6, 24] [0, pos.toNat, lenm1.toNat, 0])) := rfl
theorem encodeWord_extn (h : ApHdr) (rd ra : BitVec 5) (pos lenm1 : BitVec 6) :
    encodeWord (.extn h rd ra pos lenm1) = some (.ap, apWord 0x31 h rd ra ⟨0, 0, 0⟩ (join [18, 6, 6, 24] [0, pos.toNat, lenm1.toNat, 0])) := rfl
theorem encodeWord_ins (h : ApHdr) (rd : BitVec 5) (o : Op2) (pos lenm1 : BitVec 6) :
    encodeWord (.ins h rd o pos lenm1) = some (.ap, apWord 0x32 h rd 0 (.ofOp2 o) (join [18, 6, 6, 24] [0, pos.toNat, lenm1.toNat, 0])) := rfl
theorem encodeWord_movi (h : ApHdr) (rd : BitVec 5) (imm : BitVec 32) :
    encodeWord (.movi h rd imm) = some (.ap, apWord 0x34 h rd 0 ⟨0, 1, imm.toNat⟩ 0) := rfl
theorem encodeWord_movhi (h : ApHdr) (rd : BitVec 5) (imm : BitVec 32) :
    encodeWord (.movhi h rd imm) = some (.ap, apWord 0x35 h rd 0 ⟨0, 1, imm.toNat⟩ 0) := rfl
theorem encodeWord_sel (h : ApHdr) (rd ra : BitVec 5) (o : Op2) (pa : BitVec 3) :
    encodeWord (.sel h rd ra o pa) = some (.ap, apWord 0x38 h rd ra (.ofOp2 o) (join [14, 3, 37] [0, pa.toNat, 0])) := rfl
theorem encodeWord_pcmp (h : ApHdr) (ra : BitVec 5) (o : Op2) (pd : BitVec 3) (cc : Cond) :
    encodeWord (.pcmp h ra o pd cc) = some (.ap, apWord 0x70 h 0 ra (.ofOp2 o) (join [11, 3, 6, 3, 31] [0, pd.toNat, 0, cc.code, 0])) := rfl
theorem encodeWord_pcmpn (h : ApHdr) (ra : BitVec 5) (o : Op2) (pd : BitVec 3) (cc : Cond) :
    encodeWord (.pcmpn h ra o pd cc) = some (.ap, apWord 0x71 h 0 ra (.ofOp2 o) (join [11, 3, 6, 3, 31] [0, pd.toNat, 0, cc.code, 0])) := rfl
theorem encodeWord_pand (h : ApHdr) (pd pa pb : BitVec 3) :
    encodeWord (.pand h pd pa pb) = some (.ap, apWord 0x72 h 0 0 ⟨0, 0, 0⟩ (join [11, 3, 3, 3, 34] [0, pd.toNat, pa.toNat, pb.toNat, 0])) := rfl
theorem encodeWord_por (h : ApHdr) (pd pa pb : BitVec 3) :
    encodeWord (.por h pd pa pb) = some (.ap, apWord 0x73 h 0 0 ⟨0, 0, 0⟩ (join [11, 3, 3, 3, 34] [0, pd.toNat, pa.toNat, pb.toNat, 0])) := rfl
theorem encodeWord_pxor (h : ApHdr) (pd pa pb : BitVec 3) :
    encodeWord (.pxor h pd pa pb) = some (.ap, apWord 0x74 h 0 0 ⟨0, 0, 0⟩ (join [11, 3, 3, 3, 34] [0, pd.toNat, pa.toNat, pb.toNat, 0])) := rfl
theorem encodeWord_pnot (h : ApHdr) (pd pa : BitVec 3) :
    encodeWord (.pnot h pd pa) = some (.ap, apWord 0x75 h 0 0 ⟨0, 0, 0⟩ (join [11, 3, 3, 37] [0, pd.toNat, pa.toNat, 0])) := rfl
theorem encodeWord_pset (h : ApHdr) (ra : BitVec 5) (pd : BitVec 3) :
    encodeWord (.pset h ra pd) = some (.ap, apWord 0x76 h 0 ra ⟨0, 0, 0⟩ (join [11, 3, 40] [0, pd.toNat, 0])) := rfl
theorem encodeWord_ptst (h : ApHdr) (ra : BitVec 5) (o : Op2) (pd : BitVec 3) :
    encodeWord (.ptst h ra o pd) = some (.ap, apWord 0x77 h 0 ra (.ofOp2 o) (join [11, 3, 40] [0, pd.toNat, 0])) := rfl
theorem encodeWord_br (h : ApHdr) (off : BitVec 32) :
    encodeWord (.br h off) = some (.ap, apWord 0x60 h 0 0 ⟨0, 0, off.toNat⟩ 0) := rfl
theorem encodeWord_jmpr (h : ApHdr) (ra : BitVec 5) (off : BitVec 32) :
    encodeWord (.jmpr h ra off) = some (.ap, apWord 0x61 h 0 ra ⟨0, 0, off.toNat⟩ 0) := rfl
theorem encodeWord_call (h : ApHdr) (rd : BitVec 5) (off : BitVec 32) :
    encodeWord (.call h rd off) = some (.ap, apWord 0x62 h rd 0 ⟨0, 0, off.toNat⟩ 0) := rfl
theorem encodeWord_ret (h : ApHdr) (ra : BitVec 5) :
    encodeWord (.ret h ra) = some (.ap, apWord 0x63 h 0 ra ⟨0, 0, 0⟩ 0) := rfl
theorem encodeWord_loop (h : ApHdr) (ra : BitVec 5) (off : BitVec 32) :
    encodeWord (.loop h ra off) = some (.ap, apWord 0x64 h 0 ra ⟨0, 0, off.toNat⟩ (join [37, 1, 16] [0, 0, 0])) := rfl
theorem encodeWord_loopImmediate (h : ApHdr) (off : BitVec 32) (limm : BitVec 16) :
    encodeWord (.loopImmediate h off limm) = some (.ap, apWord 0x64 h 0 0 ⟨0, 0, off.toNat⟩ (join [37, 1, 16] [0, 1, limm.toNat])) := rfl
theorem encodeWord_lbrk (h : ApHdr) :
    encodeWord (.lbrk h) = some (.ap, apWord 0x65 h 0 0 ⟨0, 0, 0⟩ 0) := rfl
theorem encodeWord_ld (h : ApHdr) (rd ra : BitVec 5) (off : BitVec 32) (ty : AccTy) :
    encodeWord (.ld h rd ra off ty) = some (.ap, apWord 0x40 h rd ra ⟨0, 0, off.toNat⟩ (join [4, 50] [ty.code, 0])) := rfl
theorem encodeWord_st (h : ApHdr) (ra rb : BitVec 5) (off : BitVec 32) (ty : AccTy) :
    encodeWord (.st h ra rb off ty) = some (.ap, apWord 0x41 h 0 ra ⟨rb.toNat, 0, off.toNat⟩ (join [4, 50] [ty.code, 0])) := rfl
theorem encodeWord_ldc (h : ApHdr) (rd ra : BitVec 5) (off : BitVec 32) (ty : AccTy) :
    encodeWord (.ldc h rd ra off ty) = some (.ap, apWord 0x42 h rd ra ⟨0, 0, off.toNat⟩ (join [4, 50] [ty.code, 0])) := rfl
theorem encodeWord_ldacq (h : ApHdr) (rd ra : BitVec 5) (off : BitVec 32) (ty : AccTy) (sc : Scope) :
    encodeWord (.ldacq h rd ra off ty sc) = some (.ap, apWord 0x43 h rd ra ⟨0, 0, off.toNat⟩ (join [4, 4, 3, 43] [ty.code, 0, sc.code, 0])) := rfl
theorem encodeWord_strel (h : ApHdr) (ra rb : BitVec 5) (off : BitVec 32) (ty : AccTy) (sc : Scope) :
    encodeWord (.strel h ra rb off ty sc) = some (.ap, apWord 0x44 h 0 ra ⟨rb.toNat, 0, off.toNat⟩ (join [4, 4, 3, 43] [ty.code, 0, sc.code, 0])) := rfl
theorem encodeWord_lds (h : ApHdr) (rd ra : BitVec 5) (off : BitVec 32) (ty : AccTy) :
    encodeWord (.lds h rd ra off ty) = some (.ap, apWord 0x45 h rd ra ⟨0, 0, off.toNat⟩ (join [4, 50] [ty.code, 0])) := rfl
theorem encodeWord_sts (h : ApHdr) (ra rb : BitVec 5) (off : BitVec 32) (ty : AccTy) :
    encodeWord (.sts h ra rb off ty) = some (.ap, apWord 0x46 h 0 ra ⟨rb.toNat, 0, off.toNat⟩ (join [4, 50] [ty.code, 0])) := rfl
theorem encodeWord_aswap (h : ApHdr) (rd ra rb : BitVec 5) (off : BitVec 32) (ty : AccTy) :
    encodeWord (.aswap h rd ra rb off ty) = some (.ap, apWord 0x48 h rd ra ⟨rb.toNat, 0, off.toNat⟩ (join [4, 50] [ty.code, 0])) := rfl
theorem encodeWord_acas (h : ApHdr) (rd ra rb : BitVec 5) (off : BitVec 32) (ty : AccTy) (pd : BitVec 3) :
    encodeWord (.acas h rd ra rb off ty pd) = some (.ap, apWord 0x49 h rd ra ⟨rb.toNat, 0, off.toNat⟩ (join [4, 7, 3, 40] [ty.code, 0, pd.toNat, 0])) := rfl
theorem encodeWord_aadd (h : ApHdr) (rd ra rb : BitVec 5) (off : BitVec 32) (ty : AccTy) :
    encodeWord (.aadd h rd ra rb off ty) = some (.ap, apWord 0x4A h rd ra ⟨rb.toNat, 0, off.toNat⟩ (join [4, 50] [ty.code, 0])) := rfl
theorem encodeWord_aand (h : ApHdr) (rd ra rb : BitVec 5) (off : BitVec 32) (ty : AccTy) :
    encodeWord (.aand h rd ra rb off ty) = some (.ap, apWord 0x4B h rd ra ⟨rb.toNat, 0, off.toNat⟩ (join [4, 50] [ty.code, 0])) := rfl
theorem encodeWord_aor (h : ApHdr) (rd ra rb : BitVec 5) (off : BitVec 32) (ty : AccTy) :
    encodeWord (.aor h rd ra rb off ty) = some (.ap, apWord 0x4C h rd ra ⟨rb.toNat, 0, off.toNat⟩ (join [4, 50] [ty.code, 0])) := rfl
theorem encodeWord_axor (h : ApHdr) (rd ra rb : BitVec 5) (off : BitVec 32) (ty : AccTy) :
    encodeWord (.axor h rd ra rb off ty) = some (.ap, apWord 0x4D h rd ra ⟨rb.toNat, 0, off.toNat⟩ (join [4, 50] [ty.code, 0])) := rfl
theorem encodeWord_amin (h : ApHdr) (rd ra rb : BitVec 5) (off : BitVec 32) (ty : AccTy) :
    encodeWord (.amin h rd ra rb off ty) = some (.ap, apWord 0x4E h rd ra ⟨rb.toNat, 0, off.toNat⟩ (join [4, 50] [ty.code, 0])) := rfl
theorem encodeWord_amax (h : ApHdr) (rd ra rb : BitVec 5) (off : BitVec 32) (ty : AccTy) :
    encodeWord (.amax h rd ra rb off ty) = some (.ap, apWord 0x4F h rd ra ⟨rb.toNat, 0, off.toNat⟩ (join [4, 50] [ty.code, 0])) := rfl
theorem encodeWord_aminn (h : ApHdr) (rd ra rb : BitVec 5) (off : BitVec 32) (ty : AccTy) :
    encodeWord (.aminn h rd ra rb off ty) = some (.ap, apWord 0x50 h rd ra ⟨rb.toNat, 0, off.toNat⟩ (join [4, 50] [ty.code, 0])) := rfl
theorem encodeWord_amaxn (h : ApHdr) (rd ra rb : BitVec 5) (off : BitVec 32) (ty : AccTy) :
    encodeWord (.amaxn h rd ra rb off ty) = some (.ap, apWord 0x51 h rd ra ⟨rb.toNat, 0, off.toNat⟩ (join [4, 50] [ty.code, 0])) := rfl
theorem encodeWord_aminp (h : ApHdr) (rd ra rb : BitVec 5) (off : BitVec 32) (pd : BitVec 3) :
    encodeWord (.aminp h rd ra rb off pd) = some (.ap, apWord 0x52 h rd ra ⟨rb.toNat, 0, off.toNat⟩ (join [11, 3, 40] [0, pd.toNat, 0])) := rfl
theorem encodeWord_fenceAcq (h : ApHdr) (sc : Scope) :
    encodeWord (.fenceAcq h sc) = some (.ap, apWord 0xC0 h 0 0 ⟨0, 0, 0⟩ (join [8, 3, 43] [0, sc.code, 0])) := rfl
theorem encodeWord_fenceRel (h : ApHdr) (sc : Scope) :
    encodeWord (.fenceRel h sc) = some (.ap, apWord 0xC1 h 0 0 ⟨0, 0, 0⟩ (join [8, 3, 43] [0, sc.code, 0])) := rfl
theorem encodeWord_fenceSc (h : ApHdr) (sc : Scope) :
    encodeWord (.fenceSc h sc) = some (.ap, apWord 0xC2 h 0 0 ⟨0, 0, 0⟩ (join [8, 3, 43] [0, sc.code, 0])) := rfl
theorem encodeWord_slb (h : ApHdr) (rd ra : BitVec 5) (off fboff : BitVec 32) :
    encodeWord (.slb h rd ra off fboff) = some (.ap, apWord 0xC4 h rd ra ⟨0, 0, off.toNat⟩ (join [22, 32] [0, fboff.toNat])) := rfl
theorem encodeWord_slc (h : ApHdr) :
    encodeWord (.slc h) = some (.ap, apWord 0xC5 h 0 0 ⟨0, 0, 0⟩ 0) := rfl
theorem encodeWord_slx (h : ApHdr) (xcode : BitVec 8) :
    encodeWord (.slx h xcode) = some (.ap, apWord 0xC6 h 0 0 ⟨0, 0, 0⟩ (join [46, 8] [0, xcode.toNat])) := rfl
theorem encodeWord_ifence (h : ApHdr) :
    encodeWord (.ifence h) = some (.ap, apWord 0xC8 h 0 0 ⟨0, 0, 0⟩ 0) := rfl
theorem encodeWord_scfg (h : ApHdr) (o : Op2) (sp : BitVec 4) (word : BitVec 3) :
    encodeWord (.scfg h o sp word) = some (.ap, apWord 0x80 h 0 0 (.ofOp2 o) (join [11, 4, 3, 36] [0, sp.toNat, word.toNat, 0])) := rfl
theorem encodeWord_sgo (h : ApHdr) (sp : BitVec 4) :
    encodeWord (.sgo h sp) = some (.ap, apWord 0x81 h 0 0 ⟨0, 0, 0⟩ (join [11, 4, 39] [0, sp.toNat, 0])) := rfl
theorem encodeWord_srewStart (h : ApHdr) (sp : BitVec 4) :
    encodeWord (.srewStart h sp) = some (.ap, apWord 0x82 h 0 0 ⟨0, 0, 0⟩ (join [11, 4, 3, 1, 35] [0, sp.toNat, 0, 0, 0])) := rfl
theorem encodeWord_srewMark (h : ApHdr) (sp : BitVec 4) :
    encodeWord (.srewMark h sp) = some (.ap, apWord 0x82 h 0 0 ⟨0, 0, 0⟩ (join [11, 4, 3, 1, 35] [0, sp.toNat, 0, 1, 0])) := rfl
theorem encodeWord_smark (h : ApHdr) (sp : BitVec 4) :
    encodeWord (.smark h sp) = some (.ap, apWord 0x83 h 0 0 ⟨0, 0, 0⟩ (join [11, 4, 39] [0, sp.toNat, 0])) := rfl
theorem encodeWord_sfork (h : ApHdr) (ra : BitVec 5) (sp pport : BitVec 4) :
    encodeWord (.sfork h ra sp pport) = some (.ap, apWord 0x84 h 0 ra ⟨0, 0, 0⟩ (join [11, 4, 4, 4, 31] [0, sp.toNat, 0, pport.toNat, 0])) := rfl
theorem encodeWord_send (h : ApHdr) (sp : BitVec 4) :
    encodeWord (.send h sp) = some (.ap, apWord 0x85 h 0 0 ⟨0, 0, 0⟩ (join [11, 4, 39] [0, sp.toNat, 0])) := rfl
theorem encodeWord_ssave (h : ApHdr) (ra : BitVec 5) (off : BitVec 32) (sp : BitVec 4) :
    encodeWord (.ssave h ra off sp) = some (.ap, apWord 0x86 h 0 ra ⟨0, 0, off.toNat⟩ (join [11, 4, 39] [0, sp.toNat, 0])) := rfl
theorem encodeWord_ssaveb (h : ApHdr) (ra : BitVec 5) (off : BitVec 32) (sp : BitVec 4) :
    encodeWord (.ssaveb h ra off sp) = some (.ap, apWord 0x87 h 0 ra ⟨0, 0, off.toNat⟩ (join [11, 4, 39] [0, sp.toNat, 0])) := rfl
theorem encodeWord_srstr (h : ApHdr) (ra : BitVec 5) (off : BitVec 32) (sp : BitVec 4) :
    encodeWord (.srstr h ra off sp) = some (.ap, apWord 0x88 h 0 ra ⟨0, 0, off.toNat⟩ (join [11, 4, 39] [0, sp.toNat, 0])) := rfl
theorem encodeWord_sqry (h : ApHdr) (rd : BitVec 5) (sp : BitVec 4) :
    encodeWord (.sqry h rd sp) = some (.ap, apWord 0x89 h rd 0 ⟨0, 0, 0⟩ (join [11, 4, 39] [0, sp.toNat, 0])) := rfl
theorem encodeWord_smask (h : ApHdr) (sp : BitVec 4) (g : BitVec 3) (mbase : BitVec 6) :
    encodeWord (.smask h sp g mbase) = some (.ap, apWord 0x8A h 0 0 ⟨0, 0, 0⟩ (join [11, 4, 3, 6, 30] [0, sp.toNat, g.toNat, mbase.toNat, 0])) := rfl
theorem encodeWord_grd (h : ApHdr) (rd : BitVec 5) (g : BitVec 3) :
    encodeWord (.grd h rd g) = some (.ap, apWord 0x8B h rd 0 ⟨0, 0, 0⟩ (join [15, 3, 36] [0, g.toNat, 0])) := rfl
theorem encodeWord_cpy (h : ApHdr) (rd ra : BitVec 5) (off : BitVec 32) :
    encodeWord (.cpy h rd ra off) = some (.ap, apWord 0xA0 h rd ra ⟨0, 0, off.toNat⟩ 0) := rfl
theorem encodeWord_cpyi (h : ApHdr) (rd ra rb : BitVec 5) (off : BitVec 32) :
    encodeWord (.cpyi h rd ra rb off) = some (.ap, apWord 0xA1 h rd ra ⟨rb.toNat, 0, off.toNat⟩ 0) := rfl
theorem encodeWord_wmrd (h : ApHdr) (rd : BitVec 5) (nxt : Bool) (chan : BitVec 2) :
    encodeWord (.wmrd h rd nxt chan) = some (.ap, apWord 0xA2 h rd 0 ⟨0, 0, 0⟩ (join [11, 1, 2, 40] [0, nxt.toNat, chan.toNat, 0])) := rfl
theorem encodeWord_cpq (h : ApHdr) (rd : BitVec 5) (chan : BitVec 2) :
    encodeWord (.cpq h rd chan) = some (.ap, apWord 0xA3 h rd 0 ⟨0, 0, 0⟩ (join [12, 2, 40] [0, chan.toNat, 0])) := rfl
theorem encodeWord_twait (h : ApHdr) (rd : BitVec 5) (o : Op2) (all : Bool) :
    encodeWord (.twait h rd o all) = some (.ap, apWord 0xA4 h rd 0 (.ofOp2 o) (join [11, 1, 42] [0, all.toNat, 0])) := rfl
theorem encodeWord_tffr (h : ApHdr) (rd : BitVec 5) (o : Op2) (clr : Bool) :
    encodeWord (.tffr h rd o clr) = some (.ap, apWord 0xA5 h rd 0 (.ofOp2 o) (join [11, 1, 42] [0, clr.toNat, 0])) := rfl
theorem encodeWord_wait (h : ApHdr) (rd ra rb : BitVec 5) (off : BitVec 32) (all : Bool) (ncm1 : BitVec 2) :
    encodeWord (.wait h rd ra rb off all ncm1) = some (.ap, apWord 0xA8 h rd ra ⟨rb.toNat, 0, off.toNat⟩ (join [11, 1, 2, 40] [0, all.toNat, ncm1.toNat, 0])) := rfl
theorem encodeWord_binit (h : ApHdr) (ra : BitVec 5) (o : Op2) :
    encodeWord (.binit h ra o) = some (.ap, apWord 0xAA h 0 ra (.ofOp2 o) 0) := rfl
theorem encodeWord_barr (h : ApHdr) (rd ra : BitVec 5) (sc : Scope) :
    encodeWord (.barr h rd ra sc) = some (.ap, apWord 0xAB h rd ra ⟨0, 0, 0⟩ (join [8, 3, 43] [0, sc.code, 0])) := rfl
theorem encodeWord_barrx (h : ApHdr) (ra rb : BitVec 5) (sc : Scope) :
    encodeWord (.barrx h ra rb sc) = some (.ap, apWord 0xAC h 0 ra ⟨rb.toNat, 0, 0⟩ (join [8, 3, 43] [0, sc.code, 0])) := rfl
theorem encodeWord_bwait (h : ApHdr) (ra : BitVec 5) (o : Op2) (sc : Scope) :
    encodeWord (.bwait h ra o sc) = some (.ap, apWord 0xAD h 0 ra (.ofOp2 o) (join [8, 3, 43] [0, sc.code, 0])) := rfl
theorem encodeWord_wlcfg (h : ApHdr) (ra rb : BitVec 5) :
    encodeWord (.wlcfg h ra rb) = some (.ap, apWord 0xB0 h 0 ra ⟨rb.toNat, 0, 0⟩ 0) := rfl
theorem encodeWord_wlpush (h : ApHdr) (o : Op2) :
    encodeWord (.wlpush h o) = some (.ap, apWord 0xB1 h 0 0 (.ofOp2 o) 0) := rfl
theorem encodeWord_wlins (h : ApHdr) (o : Op2) (pd : BitVec 3) :
    encodeWord (.wlins h o pd) = some (.ap, apWord 0xB2 h 0 0 (.ofOp2 o) (join [11, 3, 40] [0, pd.toNat, 0])) := rfl
theorem encodeWord_wlclr (h : ApHdr) :
    encodeWord (.wlclr h) = some (.ap, apWord 0xB3 h 0 0 ⟨0, 0, 0⟩ 0) := rfl
theorem encodeWord_wlcnt (h : ApHdr) (rd : BitVec 5) :
    encodeWord (.wlcnt h rd) = some (.ap, apWord 0xB4 h rd 0 ⟨0, 0, 0⟩ 0) := rfl
theorem encodeWord_chlink (h : ApHdr) (ra : BitVec 5) (chan : BitVec 2) :
    encodeWord (.chlink h ra chan) = some (.ap, apWord 0xB8 h 0 ra ⟨0, 0, 0⟩ (join [12, 2, 40] [0, chan.toNat, 0])) := rfl
theorem encodeWord_chkick (h : ApHdr) (sc : Scope) (chan : BitVec 2) :
    encodeWord (.chkick h sc chan) = some (.ap, apWord 0xB9 h 0 0 ⟨0, 0, 0⟩ (join [8, 3, 1, 2, 40] [0, sc.code, 0, chan.toNat, 0])) := rfl
theorem encodeWord_chq (h : ApHdr) (rd : BitVec 5) (chan : BitVec 2) :
    encodeWord (.chq h rd chan) = some (.ap, apWord 0xBA h rd 0 ⟨0, 0, 0⟩ (join [12, 2, 40] [0, chan.toNat, 0])) := rfl
theorem encodeWord_jpost (h : ApHdr) (rd ra rb : BitVec 5) (off : BitVec 32) (sc : Scope) :
    encodeWord (.jpost h rd ra rb off sc) = some (.ap, apWord 0xBB h rd ra ⟨rb.toNat, 0, off.toNat⟩ (join [8, 3, 43] [0, sc.code, 0])) := rfl
theorem encodeWord_fork (h : ApHdr) (ra : BitVec 5) (off : BitVec 32) :
    encodeWord (.fork h ra off) = some (.ap, apWord 0xE0 h 0 ra ⟨0, 0, off.toNat⟩ (join [11, 1, 42] [0, 0, 0])) := rfl
theorem encodeWord_forkEntry (h : ApHdr) :
    encodeWord (.forkEntry h) = some (.ap, apWord 0xE0 h 0 0 ⟨0, 0, 0⟩ (join [11, 1, 42] [0, 1, 0])) := rfl
theorem encodeWord_rdv (h : ApHdr) :
    encodeWord (.rdv h) = some (.ap, apWord 0xE1 h 0 0 ⟨0, 0, 0⟩ 0) := rfl
theorem encodeWord_yield (h : ApHdr) :
    encodeWord (.yield h) = some (.ap, apWord 0xE2 h 0 0 ⟨0, 0, 0⟩ 0) := rfl
theorem encodeWord_trap (h : ApHdr) (code : BitVec 16) :
    encodeWord (.trap h code) = some (.ap, apWord 0xE3 h 0 0 ⟨0, 0, 0⟩ (join [38, 16] [0, code.toNat])) := rfl
theorem encodeWord_eret (h : ApHdr) (tctx : BitVec 2) :
    encodeWord (.eret h tctx) = some (.ap, apWord 0xE4 h 0 0 ⟨0, 0, 0⟩ (join [12, 2, 40] [0, tctx.toNat, 0])) := rfl
theorem encodeWord_rdsr (h : ApHdr) (rd : BitVec 5) (srn : BitVec 8) :
    encodeWord (.rdsr h rd srn) = some (.ap, apWord 0xE5 h rd 0 ⟨0, 0, 0⟩ (join [14, 8, 32] [0, srn.toNat, 0])) := rfl
theorem encodeWord_wrsr (h : ApHdr) (ra : BitVec 5) (srn : BitVec 8) :
    encodeWord (.wrsr h ra srn) = some (.ap, apWord 0xE6 h 0 ra ⟨0, 0, 0⟩ (join [14, 8, 32] [0, srn.toNat, 0])) := rfl
theorem encodeWord_gtcrd (h : ApHdr) (rd : BitVec 5) :
    encodeWord (.gtcrd h rd) = some (.ap, apWord 0xE7 h rd 0 ⟨0, 0, 0⟩ 0) := rfl
theorem encodeWord_apDone (h : ApHdr) :
    encodeWord (.apDone h) = some (.ap, apWord 0xE8 h 0 0 ⟨0, 0, 0⟩ 0) := rfl
theorem encodeWord_vadd (h : XpHdr) (d a b : Opnd) (ty : Fmt) :
    encodeWord (.vadd h d a b ty) = some (.xp, xpWord 0x01 h d.code a.code b.code 0 (join [4, 50] [ty.code, 0])) := rfl
theorem encodeWord_vsub (h : XpHdr) (d a b : Opnd) (ty : Fmt) :
    encodeWord (.vsub h d a b ty) = some (.xp, xpWord 0x02 h d.code a.code b.code 0 (join [4, 50] [ty.code, 0])) := rfl
theorem encodeWord_vmul (h : XpHdr) (d a b : Opnd) (ty : Fmt) :
    encodeWord (.vmul h d a b ty) = some (.xp, xpWord 0x03 h d.code a.code b.code 0 (join [4, 50] [ty.code, 0])) := rfl
theorem encodeWord_vmulh (h : XpHdr) (d a b : Opnd) (ty : Fmt) :
    encodeWord (.vmulh h d a b ty) = some (.xp, xpWord 0x04 h d.code a.code b.code 0 (join [4, 50] [ty.code, 0])) := rfl
theorem encodeWord_vmulhn (h : XpHdr) (d a b : Opnd) (ty : Fmt) :
    encodeWord (.vmulhn h d a b ty) = some (.xp, xpWord 0x05 h d.code a.code b.code 0 (join [4, 50] [ty.code, 0])) := rfl
theorem encodeWord_vadds (h : XpHdr) (d a b : Opnd) (ty : Fmt) :
    encodeWord (.vadds h d a b ty) = some (.xp, xpWord 0x06 h d.code a.code b.code 0 (join [4, 50] [ty.code, 0])) := rfl
theorem encodeWord_vsubs (h : XpHdr) (d a b : Opnd) (ty : Fmt) :
    encodeWord (.vsubs h d a b ty) = some (.xp, xpWord 0x07 h d.code a.code b.code 0 (join [4, 50] [ty.code, 0])) := rfl
theorem encodeWord_vaddsn (h : XpHdr) (d a b : Opnd) (ty : Fmt) :
    encodeWord (.vaddsn h d a b ty) = some (.xp, xpWord 0x08 h d.code a.code b.code 0 (join [4, 50] [ty.code, 0])) := rfl
theorem encodeWord_vsubsn (h : XpHdr) (d a b : Opnd) (ty : Fmt) :
    encodeWord (.vsubsn h d a b ty) = some (.xp, xpWord 0x09 h d.code a.code b.code 0 (join [4, 50] [ty.code, 0])) := rfl
theorem encodeWord_vmad (h : XpHdr) (d a b c : Opnd) (ty : Fmt) :
    encodeWord (.vmad h d a b c ty) = some (.xp, xpWord 0x0A h d.code a.code b.code c.code (join [4, 50] [ty.code, 0])) := rfl
theorem encodeWord_vabs (h : XpHdr) (d a : Opnd) (ty : Fmt) :
    encodeWord (.vabs h d a ty) = some (.xp, xpWord 0x0C h d.code a.code 0 0 (join [4, 50] [ty.code, 0])) := rfl
theorem encodeWord_vand (h : XpHdr) (d a b : Opnd) (ty : Fmt) :
    encodeWord (.vand h d a b ty) = some (.xp, xpWord 0x10 h d.code a.code b.code 0 (join [4, 50] [ty.code, 0])) := rfl
theorem encodeWord_vor (h : XpHdr) (d a b : Opnd) (ty : Fmt) :
    encodeWord (.vor h d a b ty) = some (.xp, xpWord 0x11 h d.code a.code b.code 0 (join [4, 50] [ty.code, 0])) := rfl
theorem encodeWord_vxor (h : XpHdr) (d a b : Opnd) (ty : Fmt) :
    encodeWord (.vxor h d a b ty) = some (.xp, xpWord 0x12 h d.code a.code b.code 0 (join [4, 50] [ty.code, 0])) := rfl
theorem encodeWord_vandn (h : XpHdr) (d a b : Opnd) (ty : Fmt) :
    encodeWord (.vandn h d a b ty) = some (.xp, xpWord 0x13 h d.code a.code b.code 0 (join [4, 50] [ty.code, 0])) := rfl
theorem encodeWord_vshl (h : XpHdr) (d a b : Opnd) (ty : Fmt) :
    encodeWord (.vshl h d a b ty) = some (.xp, xpWord 0x14 h d.code a.code b.code 0 (join [4, 50] [ty.code, 0])) := rfl
theorem encodeWord_vshr (h : XpHdr) (d a b : Opnd) (ty : Fmt) :
    encodeWord (.vshr h d a b ty) = some (.xp, xpWord 0x15 h d.code a.code b.code 0 (join [4, 50] [ty.code, 0])) := rfl
theorem encodeWord_vsar (h : XpHdr) (d a b : Opnd) (ty : Fmt) :
    encodeWord (.vsar h d a b ty) = some (.xp, xpWord 0x16 h d.code a.code b.code 0 (join [4, 50] [ty.code, 0])) := rfl
theorem encodeWord_vclz (h : XpHdr) (d a : Opnd) (ty : Fmt) :
    encodeWord (.vclz h d a ty) = some (.xp, xpWord 0x18 h d.code a.code 0 0 (join [4, 50] [ty.code, 0])) := rfl
theorem encodeWord_vpopc (h : XpHdr) (d a : Opnd) (ty : Fmt) :
    encodeWord (.vpopc h d a ty) = some (.xp, xpWord 0x19 h d.code a.code 0 0 (join [4, 50] [ty.code, 0])) := rfl
theorem encodeWord_vmin (h : XpHdr) (d a b : Opnd) (ty : Fmt) :
    encodeWord (.vmin h d a b ty) = some (.xp, xpWord 0x20 h d.code a.code b.code 0 (join [4, 50] [ty.code, 0])) := rfl
theorem encodeWord_vmax (h : XpHdr) (d a b : Opnd) (ty : Fmt) :
    encodeWord (.vmax h d a b ty) = some (.xp, xpWord 0x21 h d.code a.code b.code 0 (join [4, 50] [ty.code, 0])) := rfl
theorem encodeWord_vminn (h : XpHdr) (d a b : Opnd) (ty : Fmt) :
    encodeWord (.vminn h d a b ty) = some (.xp, xpWord 0x22 h d.code a.code b.code 0 (join [4, 50] [ty.code, 0])) := rfl
theorem encodeWord_vmaxn (h : XpHdr) (d a b : Opnd) (ty : Fmt) :
    encodeWord (.vmaxn h d a b ty) = some (.xp, xpWord 0x23 h d.code a.code b.code 0 (join [4, 50] [ty.code, 0])) := rfl
theorem encodeWord_vcmp (h : XpHdr) (d : BitVec 3) (a b : Opnd) (cc : Cond) :
    encodeWord (.vcmp h d a b cc) = some (.xp, xpWord 0x24 h d.toNat a.code b.code 0 (join [4, 7, 3, 40] [12, 0, cc.code, 0])) := rfl
theorem encodeWord_vcmpn (h : XpHdr) (d : BitVec 3) (a b : Opnd) (cc : Cond) :
    encodeWord (.vcmpn h d a b cc) = some (.xp, xpWord 0x25 h d.toNat a.code b.code 0 (join [4, 7, 3, 40] [13, 0, cc.code, 0])) := rfl
theorem encodeWord_vsel (h : XpHdr) (d a b : Opnd) (c : BitVec 3) :
    encodeWord (.vsel h d a b c) = some (.xp, xpWord 0x26 h d.code a.code b.code c.toNat 0) := rfl
theorem encodeWord_vdot4 (h : XpHdr) (d a b c : Opnd) :
    encodeWord (.vdot4 h d a b c) = some (.xp, xpWord 0x28 h d.code a.code b.code c.code 0) := rfl
theorem encodeWord_vdot4n (h : XpHdr) (d a b c : Opnd) :
    encodeWord (.vdot4n h d a b c) = some (.xp, xpWord 0x29 h d.code a.code b.code c.code 0) := rfl
theorem encodeWord_vdot4s (h : XpHdr) (d a b c : Opnd) :
    encodeWord (.vdot4s h d a b c) = some (.xp, xpWord 0x2A h d.code a.code b.code c.code 0) := rfl
theorem encodeWord_vdot4sn (h : XpHdr) (d a b c : Opnd) :
    encodeWord (.vdot4sn h d a b c) = some (.xp, xpWord 0x2B h d.code a.code b.code c.code 0) := rfl
theorem encodeWord_vfadd (h : XpHdr) (d a b : Opnd) :
    encodeWord (.vfadd h d a b) = some (.xp, xpWord 0x40 h d.code a.code b.code 0 0) := rfl
theorem encodeWord_vfaddzr (h : XpHdr) (d a b : Opnd) :
    encodeWord (.vfaddzr h d a b) = some (.xp, xpWord 0x41 h d.code a.code b.code 0 0) := rfl
theorem encodeWord_vfaddfl (h : XpHdr) (d a b : Opnd) :
    encodeWord (.vfaddfl h d a b) = some (.xp, xpWord 0x42 h d.code a.code b.code 0 0) := rfl
theorem encodeWord_vfaddcl (h : XpHdr) (d a b : Opnd) :
    encodeWord (.vfaddcl h d a b) = some (.xp, xpWord 0x43 h d.code a.code b.code 0 0) := rfl
theorem encodeWord_vfsub (h : XpHdr) (d a b : Opnd) :
    encodeWord (.vfsub h d a b) = some (.xp, xpWord 0x44 h d.code a.code b.code 0 0) := rfl
theorem encodeWord_vfsubzr (h : XpHdr) (d a b : Opnd) :
    encodeWord (.vfsubzr h d a b) = some (.xp, xpWord 0x45 h d.code a.code b.code 0 0) := rfl
theorem encodeWord_vfsubfl (h : XpHdr) (d a b : Opnd) :
    encodeWord (.vfsubfl h d a b) = some (.xp, xpWord 0x46 h d.code a.code b.code 0 0) := rfl
theorem encodeWord_vfsubcl (h : XpHdr) (d a b : Opnd) :
    encodeWord (.vfsubcl h d a b) = some (.xp, xpWord 0x47 h d.code a.code b.code 0 0) := rfl
theorem encodeWord_vfmul (h : XpHdr) (d a b : Opnd) :
    encodeWord (.vfmul h d a b) = some (.xp, xpWord 0x48 h d.code a.code b.code 0 0) := rfl
theorem encodeWord_vfmulzr (h : XpHdr) (d a b : Opnd) :
    encodeWord (.vfmulzr h d a b) = some (.xp, xpWord 0x49 h d.code a.code b.code 0 0) := rfl
theorem encodeWord_vfmulfl (h : XpHdr) (d a b : Opnd) :
    encodeWord (.vfmulfl h d a b) = some (.xp, xpWord 0x4A h d.code a.code b.code 0 0) := rfl
theorem encodeWord_vfmulcl (h : XpHdr) (d a b : Opnd) :
    encodeWord (.vfmulcl h d a b) = some (.xp, xpWord 0x4B h d.code a.code b.code 0 0) := rfl
theorem encodeWord_vfma (h : XpHdr) (d a b c : Opnd) :
    encodeWord (.vfma h d a b c) = some (.xp, xpWord 0x4C h d.code a.code b.code c.code 0) := rfl
theorem encodeWord_vfmazr (h : XpHdr) (d a b c : Opnd) :
    encodeWord (.vfmazr h d a b c) = some (.xp, xpWord 0x4D h d.code a.code b.code c.code 0) := rfl
theorem encodeWord_vfmafl (h : XpHdr) (d a b c : Opnd) :
    encodeWord (.vfmafl h d a b c) = some (.xp, xpWord 0x4E h d.code a.code b.code c.code 0) := rfl
theorem encodeWord_vfmacl (h : XpHdr) (d a b c : Opnd) :
    encodeWord (.vfmacl h d a b c) = some (.xp, xpWord 0x4F h d.code a.code b.code c.code 0) := rfl
theorem encodeWord_vfdiv (h : XpHdr) (d a b : Opnd) :
    encodeWord (.vfdiv h d a b) = some (.xp, xpWord 0x50 h d.code a.code b.code 0 0) := rfl
theorem encodeWord_vfdivzr (h : XpHdr) (d a b : Opnd) :
    encodeWord (.vfdivzr h d a b) = some (.xp, xpWord 0x51 h d.code a.code b.code 0 0) := rfl
theorem encodeWord_vfsqrt (h : XpHdr) (d a : Opnd) :
    encodeWord (.vfsqrt h d a) = some (.xp, xpWord 0x52 h d.code a.code 0 0 0) := rfl
theorem encodeWord_vfmin (h : XpHdr) (d a b : Opnd) :
    encodeWord (.vfmin h d a b) = some (.xp, xpWord 0x54 h d.code a.code b.code 0 0) := rfl
theorem encodeWord_vfmax (h : XpHdr) (d a b : Opnd) :
    encodeWord (.vfmax h d a b) = some (.xp, xpWord 0x55 h d.code a.code b.code 0 0) := rfl
theorem encodeWord_vfabs (h : XpHdr) (d a : Opnd) :
    encodeWord (.vfabs h d a) = some (.xp, xpWord 0x56 h d.code a.code 0 0 0) := rfl
theorem encodeWord_vfneg (h : XpHdr) (d a : Opnd) :
    encodeWord (.vfneg h d a) = some (.xp, xpWord 0x57 h d.code a.code 0 0 0) := rfl
theorem encodeWord_vfcmp (h : XpHdr) (d : BitVec 3) (a b : Opnd) (cc : Cond) :
    encodeWord (.vfcmp h d a b cc) = some (.xp, xpWord 0x58 h d.toNat a.code b.code 0 (join [11, 3, 40] [0, cc.code, 0])) := rfl
theorem encodeWord_vfexp (h : XpHdr) (d a : Opnd) :
    encodeWord (.vfexp h d a) = some (.xp, xpWord 0x5C h d.code a.code 0 0 0) := rfl
theorem encodeWord_vfscale (h : XpHdr) (d a b : Opnd) :
    encodeWord (.vfscale h d a b) = some (.xp, xpWord 0x5D h d.code a.code b.code 0 0) := rfl
theorem encodeWord_vfrint (h : XpHdr) (d a : Opnd) :
    encodeWord (.vfrint h d a) = some (.xp, xpWord 0x5E h d.code a.code 0 0 0) := rfl
theorem encodeWord_vfrintfl (h : XpHdr) (d a : Opnd) :
    encodeWord (.vfrintfl h d a) = some (.xp, xpWord 0x5F h d.code a.code 0 0 0) := rfl
theorem encodeWord_vcvt (h : XpHdr) (d a : Opnd) (ty ty2 : Fmt) (part : BitVec 3) :
    encodeWord (.vcvt h d a ty ty2 part) = some (.xp, xpWord 0x80 h d.code a.code 0 0 (join [4, 4, 3, 3, 40] [ty.code, ty2.code, 0, part.toNat, 0])) := rfl
theorem encodeWord_vcvtzr (h : XpHdr) (d a : Opnd) (ty ty2 : Fmt) (part : BitVec 3) :
    encodeWord (.vcvtzr h d a ty ty2 part) = some (.xp, xpWord 0x81 h d.code a.code 0 0 (join [4, 4, 3, 3, 40] [ty.code, ty2.code, 0, part.toNat, 0])) := rfl
theorem encodeWord_vcvtfl (h : XpHdr) (d a : Opnd) (ty ty2 : Fmt) (part : BitVec 3) :
    encodeWord (.vcvtfl h d a ty ty2 part) = some (.xp, xpWord 0x82 h d.code a.code 0 0 (join [4, 4, 3, 3, 40] [ty.code, ty2.code, 0, part.toNat, 0])) := rfl
theorem encodeWord_vcvtcl (h : XpHdr) (d a : Opnd) (ty ty2 : Fmt) (part : BitVec 3) :
    encodeWord (.vcvtcl h d a ty ty2 part) = some (.xp, xpWord 0x83 h d.code a.code 0 0 (join [4, 4, 3, 3, 40] [ty.code, ty2.code, 0, part.toNat, 0])) := rfl
theorem encodeWord_vnars (h : XpHdr) (d a : Opnd) (ty ty2 : Fmt) (part : BitVec 3) :
    encodeWord (.vnars h d a ty ty2 part) = some (.xp, xpWord 0x84 h d.code a.code 0 0 (join [4, 4, 3, 3, 40] [ty.code, ty2.code, 0, part.toNat, 0])) := rfl
theorem encodeWord_vnarw (h : XpHdr) (d a : Opnd) (ty ty2 : Fmt) (part : BitVec 3) :
    encodeWord (.vnarw h d a ty ty2 part) = some (.xp, xpWord 0x85 h d.code a.code 0 0 (join [4, 4, 3, 3, 40] [ty.code, ty2.code, 0, part.toNat, 0])) := rfl
theorem encodeWord_vqblk (h : XpHdr) (d a : Opnd) :
    encodeWord (.vqblk h d a) = some (.xp, xpWord 0x86 h d.code a.code 0 0 (join [4, 50] [5, 0])) := rfl
theorem encodeWord_vdqblk (h : XpHdr) (d a : Opnd) :
    encodeWord (.vdqblk h d a) = some (.xp, xpWord 0x87 h d.code a.code 0 0 (join [4, 4, 46] [0, 5, 0])) := rfl
theorem encodeWord_vredf (h : XpHdr) (d : BitVec 4) (a : Opnd) :
    encodeWord (.vredf h d a) = some (.xp, xpWord 0xA0 h d.toNat a.code 0 0 0) := rfl
theorem encodeWord_vredfmax (h : XpHdr) (d : BitVec 4) (a : Opnd) :
    encodeWord (.vredfmax h d a) = some (.xp, xpWord 0xA1 h d.toNat a.code 0 0 0) := rfl
theorem encodeWord_vredfmin (h : XpHdr) (d : BitVec 4) (a : Opnd) :
    encodeWord (.vredfmin h d a) = some (.xp, xpWord 0xA2 h d.toNat a.code 0 0 0) := rfl
theorem encodeWord_vred (h : XpHdr) (d : BitVec 4) (a : Opnd) (ty : Fmt) :
    encodeWord (.vred h d a ty) = some (.xp, xpWord 0xA3 h d.toNat a.code 0 0 (join [4, 50] [ty.code, 0])) := rfl
theorem encodeWord_vreds (h : XpHdr) (d : BitVec 4) (a : Opnd) (ty : Fmt) :
    encodeWord (.vreds h d a ty) = some (.xp, xpWord 0xA4 h d.toNat a.code 0 0 (join [4, 50] [ty.code, 0])) := rfl
theorem encodeWord_vredmax (h : XpHdr) (d : BitVec 4) (a : Opnd) (ty : Fmt) :
    encodeWord (.vredmax h d a ty) = some (.xp, xpWord 0xA5 h d.toNat a.code 0 0 (join [4, 50] [ty.code, 0])) := rfl
theorem encodeWord_vredmin (h : XpHdr) (d : BitVec 4) (a : Opnd) (ty : Fmt) :
    encodeWord (.vredmin h d a ty) = some (.xp, xpWord 0xA6 h d.toNat a.code 0 0 (join [4, 50] [ty.code, 0])) := rfl
theorem encodeWord_vscan (h : XpHdr) (d a : Opnd) (b : BitVec 4) (ty : Fmt) (exc : Bool) :
    encodeWord (.vscan h d a b ty exc) = some (.xp, xpWord 0xA8 h d.code a.code b.toNat 0 (join [4, 7, 1, 42] [ty.code, 0, exc.toNat, 0])) := rfl
theorem encodeWord_vbpfx (h : XpHdr) (d a : Opnd) (b : BitVec 4) :
    encodeWord (.vbpfx h d a b) = some (.xp, xpWord 0xA9 h d.code a.code b.toNat 0 0) := rfl
theorem encodeWord_visect (h : XpHdr) (d a b c : Opnd) (half : Bool) (xw : BitVec 4) :
    encodeWord (.visect h d a b c half xw) = some (.xp, xpWord 0xAA h d.code a.code b.code c.code (join [11, 1, 2, 4, 36] [0, half.toNat, 0, xw.toNat, 0])) := rfl
theorem encodeWord_vcmprs (h : XpHdr) (d a : Opnd) :
    encodeWord (.vcmprs h d a) = some (.xp, xpWord 0xAB h d.code a.code 0 0 0) := rfl
theorem encodeWord_vexpnd (h : XpHdr) (d a : Opnd) :
    encodeWord (.vexpnd h d a) = some (.xp, xpWord 0xAC h d.code a.code 0 0 0) := rfl
theorem encodeWord_vperm (h : XpHdr) (d a b : Opnd) :
    encodeWord (.vperm h d a b) = some (.xp, xpWord 0xB0 h d.code a.code b.code 0 0) := rfl
theorem encodeWord_vbcast (h : XpHdr) (d a : Opnd) (lane : BitVec 6) :
    encodeWord (.vbcast h d a lane) = some (.xp, xpWord 0xB1 h d.code a.code 0 0 (join [12, 6, 36] [0, lane.toNat, 0])) := rfl
theorem encodeWord_vrotl (h : XpHdr) (d a : Opnd) (lane : BitVec 6) :
    encodeWord (.vrotl h d a lane) = some (.xp, xpWord 0xB2 h d.code a.code 0 0 (join [12, 6, 36] [0, lane.toNat, 0])) := rfl
theorem encodeWord_vslide (h : XpHdr) (d a b : Opnd) (lane : BitVec 6) :
    encodeWord (.vslide h d a b lane) = some (.xp, xpWord 0xB3 h d.code a.code b.code 0 (join [12, 6, 36] [0, lane.toNat, 0])) := rfl
theorem encodeWord_vzip (h : XpHdr) (d a b : Opnd) (half : Bool) :
    encodeWord (.vzip h d a b half) = some (.xp, xpWord 0xB4 h d.code a.code b.code 0 (join [11, 1, 42] [0, half.toNat, 0])) := rfl
theorem encodeWord_vunzip (h : XpHdr) (d a b : Opnd) (half : Bool) :
    encodeWord (.vunzip h d a b half) = some (.xp, xpWord 0xB5 h d.code a.code b.code 0 (join [11, 1, 42] [0, half.toNat, 0])) := rfl
theorem encodeWord_vmov (h : XpHdr) (d a : Opnd) :
    encodeWord (.vmov h d a) = some (.xp, xpWord 0xB6 h d.code a.code 0 0 0) := rfl
theorem encodeWord_vsplat (h : XpHdr) (d : Opnd) (a : BitVec 4) :
    encodeWord (.vsplat h d a) = some (.xp, xpWord 0xB7 h d.code a.toNat 0 0 0) := rfl
theorem encodeWord_mand (h : XpHdr) (d a b : BitVec 3) :
    encodeWord (.mand h d a b) = some (.xp, xpWord 0xB8 h d.toNat a.toNat b.toNat 0 0) := rfl
theorem encodeWord_mor (h : XpHdr) (d a b : BitVec 3) :
    encodeWord (.mor h d a b) = some (.xp, xpWord 0xB9 h d.toNat a.toNat b.toNat 0 0) := rfl
theorem encodeWord_mxor (h : XpHdr) (d a b : BitVec 3) :
    encodeWord (.mxor h d a b) = some (.xp, xpWord 0xBA h d.toNat a.toNat b.toNat 0 0) := rfl
theorem encodeWord_mnot (h : XpHdr) (d a : BitVec 3) :
    encodeWord (.mnot h d a) = some (.xp, xpWord 0xBB h d.toNat a.toNat 0 0 0) := rfl
theorem encodeWord_mpopc (h : XpHdr) (d : BitVec 4) (a : BitVec 3) :
    encodeWord (.mpopc h d a) = some (.xp, xpWord 0xBC h d.toNat a.toNat 0 0 0) := rfl
theorem encodeWord_msetx (h : XpHdr) (d : BitVec 3) (a b : BitVec 4) :
    encodeWord (.msetx h d a b) = some (.xp, xpWord 0xBD h d.toNat a.toNat b.toNat 0 0) := rfl
theorem encodeWord_mgetx (h : XpHdr) (d : BitVec 4) (a : BitVec 3) (half : Bool) :
    encodeWord (.mgetx h d a half) = some (.xp, xpWord 0xBE h d.toNat a.toNat 0 0 (join [11, 1, 42] [0, half.toNat, 0])) := rfl
theorem encodeWord_xadd (h : XpHdr) (d a : BitVec 4) (b : XOp2) :
    encodeWord (.xadd h d a b) = some (.xp, xpWord 0xE0 h d.toNat a.toNat b.s2 0 b.lo) := rfl
theorem encodeWord_xsub (h : XpHdr) (d a : BitVec 4) (b : XOp2) :
    encodeWord (.xsub h d a b) = some (.xp, xpWord 0xE1 h d.toNat a.toNat b.s2 0 b.lo) := rfl
theorem encodeWord_xmul (h : XpHdr) (d a : BitVec 4) (b : XOp2) :
    encodeWord (.xmul h d a b) = some (.xp, xpWord 0xE2 h d.toNat a.toNat b.s2 0 b.lo) := rfl
theorem encodeWord_xand (h : XpHdr) (d a : BitVec 4) (b : XOp2) :
    encodeWord (.xand h d a b) = some (.xp, xpWord 0xE3 h d.toNat a.toNat b.s2 0 b.lo) := rfl
theorem encodeWord_xior (h : XpHdr) (d a : BitVec 4) (b : XOp2) :
    encodeWord (.xior h d a b) = some (.xp, xpWord 0xE4 h d.toNat a.toNat b.s2 0 b.lo) := rfl
theorem encodeWord_xxor (h : XpHdr) (d a : BitVec 4) (b : XOp2) :
    encodeWord (.xxor h d a b) = some (.xp, xpWord 0xE5 h d.toNat a.toNat b.s2 0 b.lo) := rfl
theorem encodeWord_xshl (h : XpHdr) (d a : BitVec 4) (b : XOp2) :
    encodeWord (.xshl h d a b) = some (.xp, xpWord 0xE6 h d.toNat a.toNat b.s2 0 b.lo) := rfl
theorem encodeWord_xshr (h : XpHdr) (d a : BitVec 4) (b : XOp2) :
    encodeWord (.xshr h d a b) = some (.xp, xpWord 0xE7 h d.toNat a.toNat b.s2 0 b.lo) := rfl
theorem encodeWord_xmovi (h : XpHdr) (d : BitVec 4) (imm : BitVec 32) :
    encodeWord (.xmovi h d imm) = some (.xp, xpWord 0xE8 h d.toNat 0 0 0 (join [22, 32] [0, imm.toNat])) := rfl
theorem encodeWord_xlane (h : XpHdr) (d : BitVec 4) (a : Opnd) (lane : BitVec 6) :
    encodeWord (.xlane h d a lane) = some (.xp, xpWord 0xE9 h d.toNat a.code 0 0 (join [12, 6, 36] [0, lane.toNat, 0])) := rfl
theorem encodeWord_xloop (h : XpHdr) (xc nr : BitVec 4) (fin : BitVec 18) :
    encodeWord (.xloop h xc nr fin) = some (.xp, xpWord 0xEA h 0 0 0 0 (join [11, 1, 4, 4, 16, 18] [0, 0, xc.toNat, nr.toNat, 0, fin.toNat])) := rfl
theorem encodeWord_xloopImmediate (h : XpHdr) (nr : BitVec 4) (limm : BitVec 16) (fin : BitVec 18) :
    encodeWord (.xloopImmediate h nr limm fin) = some (.xp, xpWord 0xEA h 0 0 0 0 (join [11, 1, 4, 4, 16, 18] [0, 1, 0, nr.toNat, limm.toNat, fin.toNat])) := rfl
theorem encodeWord_xbr (h : XpHdr) (imm : BitVec 32) :
    encodeWord (.xbr h imm) = some (.xp, xpWord 0xEB h 0 0 0 0 (join [22, 32] [0, imm.toNat])) := rfl
theorem encodeWord_xbrc (h : XpHdr) (t : BrTest) (imm : BitVec 32) :
    encodeWord (.xbrc h t imm) = some (.xp, xpWord 0xEC h 0 t.s1 0 0 (join [11, 3, 4, 4, 32] [0, t.cond, t.port, 0, imm.toNat])) := rfl
theorem encodeWord_xbend (h : XpHdr) (t : BrTest) :
    encodeWord (.xbend h t) = some (.xp, xpWord 0xED h 0 t.s1 0 0 (join [11, 3, 4, 36] [0, t.cond, t.port, 0])) := rfl
theorem encodeWord_vld (h : XpHdr) (d : VmOp) (a : BitVec 4) (imm : BitVec 32) :
    encodeWord (.vld h d a imm) = some (.xp, xpWord 0xEE h d.code a.toNat 0 0 (join [11, 2, 9, 32] [0, 0, 0, imm.toNat])) := rfl
theorem encodeWord_vldIndexed (h : XpHdr) (d : VmOp) (a : BitVec 4) (b : Opnd) (ty : Fmt) (imm : BitVec 32) :
    encodeWord (.vldIndexed h d a b ty imm) = some (.xp, xpWord 0xEE h d.code a.toNat b.code 0 (join [4, 7, 2, 9, 32] [ty.code, 0, 1, 0, imm.toNat])) := rfl
theorem encodeWord_vst (h : XpHdr) (a : BitVec 4) (b : Opnd) (imm : BitVec 32) :
    encodeWord (.vst h a b imm) = some (.xp, xpWord 0xEF h 0 a.toNat b.code 0 (join [11, 2, 9, 32] [0, 0, 0, imm.toNat])) := rfl
theorem encodeWord_vstIndexed (h : XpHdr) (a : BitVec 4) (b c : Opnd) (ty : Fmt) (imm : BitVec 32) :
    encodeWord (.vstIndexed h a b c ty imm) = some (.xp, xpWord 0xEF h 0 a.toNat b.code c.code (join [4, 7, 2, 9, 32] [ty.code, 0, 1, 0, imm.toNat])) := rfl
theorem encodeWord_mwldF4 (h : XpHdr) (a : Opnd) (w : MwldOpts) :
    encodeWord (.mwldF4 h a w) = some (.xp, xpWord 0xC0 h 0 a.code w.s2 0 w.lo) := rfl
theorem encodeWord_mwldE4m3 (h : XpHdr) (a : Opnd) (w : MwldOpts) :
    encodeWord (.mwldE4m3 h a w) = some (.xp, xpWord 0xC1 h 0 a.code w.s2 0 w.lo) := rfl
theorem encodeWord_mwldE5m2 (h : XpHdr) (a : Opnd) (w : MwldOpts) :
    encodeWord (.mwldE5m2 h a w) = some (.xp, xpWord 0xC2 h 0 a.code w.s2 0 w.lo) := rfl
theorem encodeWord_mwldBf16 (h : XpHdr) (a : Opnd) (w : MwldOpts) :
    encodeWord (.mwldBf16 h a w) = some (.xp, xpWord 0xC3 h 0 a.code w.s2 0 w.lo) := rfl
theorem encodeWord_mwldF16 (h : XpHdr) (a : Opnd) (w : MwldOpts) :
    encodeWord (.mwldF16 h a w) = some (.xp, xpWord 0xC4 h 0 a.code w.s2 0 w.lo) := rfl
theorem encodeWord_mwldI8 (h : XpHdr) (a : Opnd) (w : MwldOpts) :
    encodeWord (.mwldI8 h a w) = some (.xp, xpWord 0xC5 h 0 a.code w.s2 0 w.lo) := rfl
theorem encodeWord_mwldN8 (h : XpHdr) (a : Opnd) (w : MwldOpts) :
    encodeWord (.mwldN8 h a w) = some (.xp, xpWord 0xC6 h 0 a.code w.s2 0 w.lo) := rfl
theorem encodeWord_mwldI4 (h : XpHdr) (a : Opnd) (w : MwldOpts) :
    encodeWord (.mwldI4 h a w) = some (.xp, xpWord 0xC7 h 0 a.code w.s2 0 w.lo) := rfl
theorem encodeWord_mwldN4 (h : XpHdr) (a : Opnd) (w : MwldOpts) :
    encodeWord (.mwldN4 h a w) = some (.xp, xpWord 0xC8 h 0 a.code w.s2 0 w.lo) := rfl
theorem encodeWord_mwid (h : XpHdr) (ty : Fmt) :
    encodeWord (.mwid h ty) = some (.xp, xpWord 0xCA h 0 0 0 0 (join [4, 50] [ty.code, 0])) := rfl
theorem encodeWord_mwperm (h : XpHdr) (a : Opnd) (ty : Fmt) :
    encodeWord (.mwperm h a ty) = some (.xp, xpWord 0xCB h 0 a.code 0 0 (join [4, 50] [ty.code, 0])) := rfl
theorem encodeWord_mwones (h : XpHdr) (ty : Fmt) :
    encodeWord (.mwones h ty) = some (.xp, xpWord 0xCC h 0 0 0 0 (join [4, 50] [ty.code, 0])) := rfl
theorem encodeWord_mwsel (h : XpHdr) (a : BitVec 3) (ty : Fmt) :
    encodeWord (.mwsel h a ty) = some (.xp, xpWord 0xCD h 0 a.toNat 0 0 (join [4, 50] [ty.code, 0])) := rfl
theorem encodeWord_mwswp (h : XpHdr) :
    encodeWord (.mwswp h) = some (.xp, xpWord 0xCE h 0 0 0 0 0) := rfl
theorem encodeWord_mmul (h : XpHdr) (a : Opnd) (ty : Fmt) (abase : BitVec 6) :
    encodeWord (.mmul h a ty abase) = some (.xp, xpWord 0xD0 h 0 a.code 0 0 (join [4, 7, 6, 37] [ty.code, 0, abase.toNat, 0])) := rfl
theorem encodeWord_mmulz (h : XpHdr) (a : Opnd) (ty : Fmt) (abase : BitVec 6) :
    encodeWord (.mmulz h a ty abase) = some (.xp, xpWord 0xD1 h 0 a.code 0 0 (join [4, 7, 6, 37] [ty.code, 0, abase.toNat, 0])) := rfl
theorem encodeWord_mmulm (h : XpHdr) (a : Opnd) (ty : Fmt) (abase : BitVec 6) (g : BitVec 3) (mbase : BitVec 6) (ngm1 : BitVec 2) (gte : Bool) :
    encodeWord (.mmulm h a ty abase g mbase ngm1 gte) = some (.xp, xpWord 0xD2 h 0 a.code 0 0 (join [4, 7, 6, 3, 6, 2, 1, 25] [ty.code, 0, abase.toNat, g.toNat, mbase.toNat, ngm1.toNat, gte.toNat, 0])) := rfl
theorem encodeWord_mmulmz (h : XpHdr) (a : Opnd) (ty : Fmt) (abase : BitVec 6) (g : BitVec 3) (mbase : BitVec 6) (ngm1 : BitVec 2) (gte : Bool) :
    encodeWord (.mmulmz h a ty abase g mbase ngm1 gte) = some (.xp, xpWord 0xD3 h 0 a.code 0 0 (join [4, 7, 6, 3, 6, 2, 1, 25] [ty.code, 0, abase.toNat, g.toNat, mbase.toNat, ngm1.toNat, gte.toNat, 0])) := rfl
theorem encodeWord_macrd (h : XpHdr) (d : VmOp) (row : BitVec 6) (cg : BitVec 2) (clr : Bool) :
    encodeWord (.macrd h d row cg clr) = some (.xp, xpWord 0xD4 h d.code 0 0 0 (join [11, 6, 9, 2, 1, 1, 24] [0, row.toNat, 0, cg.toNat, 0, clr.toNat, 0])) := rfl
theorem encodeWord_macrdScratchpad (h : XpHdr) (a : BitVec 4) (row : BitVec 6) (cg : BitVec 2) (clr : Bool) :
    encodeWord (.macrdScratchpad h a row cg clr) = some (.xp, xpWord 0xD4 h 0 a.toNat 0 0 (join [11, 6, 9, 2, 1, 1, 24] [0, row.toNat, 0, cg.toNat, 1, clr.toNat, 0])) := rfl
theorem encodeWord_macclr (h : XpHdr) (row nrm1 : BitVec 6) :
    encodeWord (.macclr h row nrm1) = some (.xp, xpWord 0xD5 h 0 0 0 0 (join [11, 6, 13, 6, 18] [0, row.toNat, 0, nrm1.toNat, 0])) := rfl
theorem encodeWord_mscoutQuery (h : XpHdr) (a : Opnd) (eidx : BitVec 5) :
    encodeWord (.mscoutQuery h a eidx) = some (.xp, xpWord 0xD8 h 0 a.code 0 0 (join [4, 7, 2, 5, 36] [5, 0, 0, eidx.toNat, 0])) := rfl
theorem encodeWord_mscoutKey (h : XpHdr) (a : Opnd) (eidx : BitVec 5) :
    encodeWord (.mscoutKey h a eidx) = some (.xp, xpWord 0xD8 h 0 a.code 0 0 (join [4, 7, 2, 5, 36] [5, 0, 1, eidx.toNat, 0])) := rfl
theorem encodeWord_mscoutScore (h : XpHdr) (d a : Opnd) (eidx : BitVec 5) (nqm1 nkm1 slane : BitVec 6) (nsegm1 : Bool) :
    encodeWord (.mscoutScore h d a eidx nqm1 nkm1 slane nsegm1) = some (.xp, xpWord 0xD8 h d.code a.code 0 0 (join [4, 7, 2, 5, 6, 6, 6, 1, 17] [5, 0, 2, eidx.toNat, nqm1.toNat, nkm1.toNat, slane.toNat, nsegm1.toNat, 0])) := rfl
theorem encodeWord_mcairn (h : XpHdr) (d : BitVec 3) (a : Opnd) (b : BitVec 4) (c : BitVec 3) :
    encodeWord (.mcairn h d a b c) = some (.xp, xpWord 0xD9 h d.toNat a.code b.toNat c.toNat 0) := rfl
theorem encodeWord_gand (h : XpHdr) (d : BitVec 3) (a b : GSrc) :
    encodeWord (.gand h d a b) = some (.xp, xpWord 0xDA h d.toNat a.code b.code 0 0) := rfl
theorem encodeWord_gor (h : XpHdr) (d : BitVec 3) (a b : GSrc) :
    encodeWord (.gor h d a b) = some (.xp, xpWord 0xDB h d.toNat a.code b.code 0 0) := rfl
theorem encodeWord_gandn (h : XpHdr) (d : BitVec 3) (a b : GSrc) :
    encodeWord (.gandn h d a b) = some (.xp, xpWord 0xDC h d.toNat a.code b.code 0 0) := rfl
theorem encodeWord_gset (h : XpHdr) (d a : BitVec 3) :
    encodeWord (.gset h d a) = some (.xp, xpWord 0xDD h d.toNat a.toNat 0 0 0) := rfl
theorem encodeWord_gget (h : XpHdr) (d : BitVec 3) (a : GSrc) :
    encodeWord (.gget h d a) = some (.xp, xpWord 0xDE h d.toNat a.code 0 0 0) := rfl
theorem encodeWord_xpRdv (h : XpHdr) :
    encodeWord (.xpRdv h) = some (.xp, xpWord 0xF0 h 0 0 0 0 0) := rfl
theorem encodeWord_xpWait (h : XpHdr) (d a b : BitVec 4) (all : Bool) (ncm1 : BitVec 2) (imm : BitVec 32) :
    encodeWord (.xpWait h d a b all ncm1 imm) = some (.xp, xpWord 0xF1 h d.toNat a.toNat b.toNat 0 (join [11, 1, 2, 8, 32] [0, all.toNat, ncm1.toNat, 0, imm.toNat])) := rfl
theorem encodeWord_wlpopv (h : XpHdr) (d : VmOp) (xn : BitVec 4) :
    encodeWord (.wlpopv h d xn) = some (.xp, xpWord 0xF2 h d.code 0 0 0 (join [14, 4, 36] [0, xn.toNat, 0])) := rfl
theorem encodeWord_xpIfence (h : XpHdr) :
    encodeWord (.xpIfence h) = some (.xp, xpWord 0xF3 h 0 0 0 0 0) := rfl
theorem encodeWord_xpRdsr (h : XpHdr) (d : BitVec 4) (half : Bool) (srn : BitVec 8) :
    encodeWord (.xpRdsr h d half srn) = some (.xp, xpWord 0xF4 h d.toNat 0 0 0 (join [11, 1, 2, 8, 32] [0, half.toNat, 0, srn.toNat, 0])) := rfl
theorem encodeWord_xpWrsr (h : XpHdr) (a : BitVec 4) (srn : BitVec 8) :
    encodeWord (.xpWrsr h a srn) = some (.xp, xpWord 0xF5 h 0 a.toNat 0 0 (join [14, 8, 32] [0, srn.toNat, 0])) := rfl
theorem encodeWord_xpYield (h : XpHdr) :
    encodeWord (.xpYield h) = some (.xp, xpWord 0xF6 h 0 0 0 0 0) := rfl
theorem encodeWord_xpTrap (h : XpHdr) (code : BitVec 16) :
    encodeWord (.xpTrap h code) = some (.xp, xpWord 0xF7 h 0 0 0 0 (join [38, 16] [0, code.toNat])) := rfl
theorem encodeWord_xpDone (h : XpHdr) :
    encodeWord (.xpDone h) = some (.xp, xpWord 0xF8 h 0 0 0 0 0) := rfl
theorem encodeWord_xpNop (h : XpHdr) :
    encodeWord (.xpNop h) = some (.xp, xpWord 0xF9 h 0 0 0 0 0) := rfl
theorem encodeWord_xpFenceAcq (h : XpHdr) (sc : Scope) :
    encodeWord (.xpFenceAcq h sc) = some (.xp, xpWord 0xFA h 0 0 0 0 (join [8, 3, 43] [0, sc.code, 0])) := rfl
theorem encodeWord_xpFenceRel (h : XpHdr) (sc : Scope) :
    encodeWord (.xpFenceRel h sc) = some (.xp, xpWord 0xFB h 0 0 0 0 (join [8, 3, 43] [0, sc.code, 0])) := rfl
theorem encodeWord_xpFenceSc (h : XpHdr) (sc : Scope) :
    encodeWord (.xpFenceSc h sc) = some (.xp, xpWord 0xFC h 0 0 0 0 (join [8, 3, 43] [0, sc.code, 0])) := rfl

end Sys2Proof.Laws
end

