-- ==== Sys2Proof/Laws/PerInstr.lean ====
section
/-! SUPPORT. Lemmas said once per constructor: an instruction has an encoding exactly when it is no engine step or event. -/

namespace Sys2Proof.Laws.Encodable
open Sys2Proof

/-- An instruction has an encoding exactly when its side is one a group of IMEM words can hold (R184, R190). -/
def Statement (i : Instr) : Prop := (encodeWord i).isSome = (i.side != .event)

theorem nop (h : ApHdr) : Statement (.nop h) := rfl
theorem add (h : ApHdr) (rd ra : BitVec 5) (o : Op2) : Statement (.add h rd ra o) := rfl
theorem sub (h : ApHdr) (rd ra : BitVec 5) (o : Op2) : Statement (.sub h rd ra o) := rfl
theorem mul (h : ApHdr) (rd ra : BitVec 5) (o : Op2) : Statement (.mul h rd ra o) := rfl
theorem mulh (h : ApHdr) (rd ra : BitVec 5) (o : Op2) : Statement (.mulh h rd ra o) := rfl
theorem mulhn (h : ApHdr) (rd ra : BitVec 5) (o : Op2) : Statement (.mulhn h rd ra o) := rfl
theorem div (h : ApHdr) (rd ra : BitVec 5) (o : Op2) : Statement (.div h rd ra o) := rfl
theorem divn (h : ApHdr) (rd ra : BitVec 5) (o : Op2) : Statement (.divn h rd ra o) := rfl
theorem rem (h : ApHdr) (rd ra : BitVec 5) (o : Op2) : Statement (.rem h rd ra o) := rfl
theorem remn (h : ApHdr) (rd ra : BitVec 5) (o : Op2) : Statement (.remn h rd ra o) := rfl
theorem adds (h : ApHdr) (rd ra : BitVec 5) (o : Op2) : Statement (.adds h rd ra o) := rfl
theorem subs (h : ApHdr) (rd ra : BitVec 5) (o : Op2) : Statement (.subs h rd ra o) := rfl
theorem addsn (h : ApHdr) (rd ra : BitVec 5) (o : Op2) : Statement (.addsn h rd ra o) := rfl
theorem subsn (h : ApHdr) (rd ra : BitVec 5) (o : Op2) : Statement (.subsn h rd ra o) := rfl
theorem and (h : ApHdr) (rd ra : BitVec 5) (o : Op2) : Statement (.and h rd ra o) := rfl
theorem or (h : ApHdr) (rd ra : BitVec 5) (o : Op2) : Statement (.or h rd ra o) := rfl
theorem xor (h : ApHdr) (rd ra : BitVec 5) (o : Op2) : Statement (.xor h rd ra o) := rfl
theorem andn (h : ApHdr) (rd ra : BitVec 5) (o : Op2) : Statement (.andn h rd ra o) := rfl
theorem orn (h : ApHdr) (rd ra : BitVec 5) (o : Op2) : Statement (.orn h rd ra o) := rfl
theorem shl (h : ApHdr) (rd ra : BitVec 5) (o : Op2) : Statement (.shl h rd ra o) := rfl
theorem shr (h : ApHdr) (rd ra : BitVec 5) (o : Op2) : Statement (.shr h rd ra o) := rfl
theorem sar (h : ApHdr) (rd ra : BitVec 5) (o : Op2) : Statement (.sar h rd ra o) := rfl
theorem rol (h : ApHdr) (rd ra : BitVec 5) (o : Op2) : Statement (.rol h rd ra o) := rfl
theorem ror (h : ApHdr) (rd ra : BitVec 5) (o : Op2) : Statement (.ror h rd ra o) := rfl
theorem min (h : ApHdr) (rd ra : BitVec 5) (o : Op2) : Statement (.min h rd ra o) := rfl
theorem max (h : ApHdr) (rd ra : BitVec 5) (o : Op2) : Statement (.max h rd ra o) := rfl
theorem minn (h : ApHdr) (rd ra : BitVec 5) (o : Op2) : Statement (.minn h rd ra o) := rfl
theorem maxn (h : ApHdr) (rd ra : BitVec 5) (o : Op2) : Statement (.maxn h rd ra o) := rfl
theorem abs (h : ApHdr) (rd ra : BitVec 5) : Statement (.abs h rd ra) := rfl
theorem clz (h : ApHdr) (rd ra : BitVec 5) : Statement (.clz h rd ra) := rfl
theorem ctz (h : ApHdr) (rd ra : BitVec 5) : Statement (.ctz h rd ra) := rfl
theorem popc (h : ApHdr) (rd ra : BitVec 5) : Statement (.popc h rd ra) := rfl
theorem bswap (h : ApHdr) (rd ra : BitVec 5) : Statement (.bswap h rd ra) := rfl
theorem exts (h : ApHdr) (rd ra : BitVec 5) (pos lenm1 : BitVec 6) : Statement (.exts h rd ra pos lenm1) := rfl
theorem extn (h : ApHdr) (rd ra : BitVec 5) (pos lenm1 : BitVec 6) : Statement (.extn h rd ra pos lenm1) := rfl
theorem ins (h : ApHdr) (rd : BitVec 5) (o : Op2) (pos lenm1 : BitVec 6) : Statement (.ins h rd o pos lenm1) := rfl
theorem movi (h : ApHdr) (rd : BitVec 5) (imm : BitVec 32) : Statement (.movi h rd imm) := rfl
theorem movhi (h : ApHdr) (rd : BitVec 5) (imm : BitVec 32) : Statement (.movhi h rd imm) := rfl
theorem sel (h : ApHdr) (rd ra : BitVec 5) (o : Op2) (pa : BitVec 3) : Statement (.sel h rd ra o pa) := rfl
theorem pcmp (h : ApHdr) (ra : BitVec 5) (o : Op2) (pd : BitVec 3) (cc : Cond) : Statement (.pcmp h ra o pd cc) := rfl
theorem pcmpn (h : ApHdr) (ra : BitVec 5) (o : Op2) (pd : BitVec 3) (cc : Cond) : Statement (.pcmpn h ra o pd cc) := rfl
theorem pand (h : ApHdr) (pd pa pb : BitVec 3) : Statement (.pand h pd pa pb) := rfl
theorem por (h : ApHdr) (pd pa pb : BitVec 3) : Statement (.por h pd pa pb) := rfl
theorem pxor (h : ApHdr) (pd pa pb : BitVec 3) : Statement (.pxor h pd pa pb) := rfl
theorem pnot (h : ApHdr) (pd pa : BitVec 3) : Statement (.pnot h pd pa) := rfl
theorem pset (h : ApHdr) (ra : BitVec 5) (pd : BitVec 3) : Statement (.pset h ra pd) := rfl
theorem ptst (h : ApHdr) (ra : BitVec 5) (o : Op2) (pd : BitVec 3) : Statement (.ptst h ra o pd) := rfl
theorem br (h : ApHdr) (off : BitVec 32) : Statement (.br h off) := rfl
theorem jmpr (h : ApHdr) (ra : BitVec 5) (off : BitVec 32) : Statement (.jmpr h ra off) := rfl
theorem call (h : ApHdr) (rd : BitVec 5) (off : BitVec 32) : Statement (.call h rd off) := rfl
theorem ret (h : ApHdr) (ra : BitVec 5) : Statement (.ret h ra) := rfl
theorem loop (h : ApHdr) (ra : BitVec 5) (off : BitVec 32) : Statement (.loop h ra off) := rfl
theorem loopImmediate (h : ApHdr) (off : BitVec 32) (limm : BitVec 16) : Statement (.loopImmediate h off limm) := rfl
theorem lbrk (h : ApHdr) : Statement (.lbrk h) := rfl
theorem ld (h : ApHdr) (rd ra : BitVec 5) (off : BitVec 32) (ty : AccTy) : Statement (.ld h rd ra off ty) := rfl
theorem st (h : ApHdr) (ra rb : BitVec 5) (off : BitVec 32) (ty : AccTy) : Statement (.st h ra rb off ty) := rfl
theorem ldc (h : ApHdr) (rd ra : BitVec 5) (off : BitVec 32) (ty : AccTy) : Statement (.ldc h rd ra off ty) := rfl
theorem ldacq (h : ApHdr) (rd ra : BitVec 5) (off : BitVec 32) (ty : AccTy) (sc : Scope) : Statement (.ldacq h rd ra off ty sc) := rfl
theorem strel (h : ApHdr) (ra rb : BitVec 5) (off : BitVec 32) (ty : AccTy) (sc : Scope) : Statement (.strel h ra rb off ty sc) := rfl
theorem lds (h : ApHdr) (rd ra : BitVec 5) (off : BitVec 32) (ty : AccTy) : Statement (.lds h rd ra off ty) := rfl
theorem sts (h : ApHdr) (ra rb : BitVec 5) (off : BitVec 32) (ty : AccTy) : Statement (.sts h ra rb off ty) := rfl
theorem aswap (h : ApHdr) (rd ra rb : BitVec 5) (off : BitVec 32) (ty : AccTy) : Statement (.aswap h rd ra rb off ty) := rfl
theorem acas (h : ApHdr) (rd ra rb : BitVec 5) (off : BitVec 32) (ty : AccTy) (pd : BitVec 3) : Statement (.acas h rd ra rb off ty pd) := rfl
theorem aadd (h : ApHdr) (rd ra rb : BitVec 5) (off : BitVec 32) (ty : AccTy) : Statement (.aadd h rd ra rb off ty) := rfl
theorem aand (h : ApHdr) (rd ra rb : BitVec 5) (off : BitVec 32) (ty : AccTy) : Statement (.aand h rd ra rb off ty) := rfl
theorem aor (h : ApHdr) (rd ra rb : BitVec 5) (off : BitVec 32) (ty : AccTy) : Statement (.aor h rd ra rb off ty) := rfl
theorem axor (h : ApHdr) (rd ra rb : BitVec 5) (off : BitVec 32) (ty : AccTy) : Statement (.axor h rd ra rb off ty) := rfl
theorem amin (h : ApHdr) (rd ra rb : BitVec 5) (off : BitVec 32) (ty : AccTy) : Statement (.amin h rd ra rb off ty) := rfl
theorem amax (h : ApHdr) (rd ra rb : BitVec 5) (off : BitVec 32) (ty : AccTy) : Statement (.amax h rd ra rb off ty) := rfl
theorem aminn (h : ApHdr) (rd ra rb : BitVec 5) (off : BitVec 32) (ty : AccTy) : Statement (.aminn h rd ra rb off ty) := rfl
theorem amaxn (h : ApHdr) (rd ra rb : BitVec 5) (off : BitVec 32) (ty : AccTy) : Statement (.amaxn h rd ra rb off ty) := rfl
theorem aminp (h : ApHdr) (rd ra rb : BitVec 5) (off : BitVec 32) (pd : BitVec 3) : Statement (.aminp h rd ra rb off pd) := rfl
theorem fenceAcq (h : ApHdr) (sc : Scope) : Statement (.fenceAcq h sc) := rfl
theorem fenceRel (h : ApHdr) (sc : Scope) : Statement (.fenceRel h sc) := rfl
theorem fenceSc (h : ApHdr) (sc : Scope) : Statement (.fenceSc h sc) := rfl
theorem slb (h : ApHdr) (rd ra : BitVec 5) (off fboff : BitVec 32) : Statement (.slb h rd ra off fboff) := rfl
theorem slc (h : ApHdr) : Statement (.slc h) := rfl
theorem slx (h : ApHdr) (xcode : BitVec 8) : Statement (.slx h xcode) := rfl
theorem ifence (h : ApHdr) : Statement (.ifence h) := rfl
theorem scfg (h : ApHdr) (o : Op2) (sp : BitVec 4) (word : BitVec 3) : Statement (.scfg h o sp word) := rfl
theorem sgo (h : ApHdr) (sp : BitVec 4) : Statement (.sgo h sp) := rfl
theorem srewStart (h : ApHdr) (sp : BitVec 4) : Statement (.srewStart h sp) := rfl
theorem srewMark (h : ApHdr) (sp : BitVec 4) : Statement (.srewMark h sp) := rfl
theorem smark (h : ApHdr) (sp : BitVec 4) : Statement (.smark h sp) := rfl
theorem sfork (h : ApHdr) (ra : BitVec 5) (sp pport : BitVec 4) : Statement (.sfork h ra sp pport) := rfl
theorem send (h : ApHdr) (sp : BitVec 4) : Statement (.send h sp) := rfl
theorem ssave (h : ApHdr) (ra : BitVec 5) (off : BitVec 32) (sp : BitVec 4) : Statement (.ssave h ra off sp) := rfl
theorem ssaveb (h : ApHdr) (ra : BitVec 5) (off : BitVec 32) (sp : BitVec 4) : Statement (.ssaveb h ra off sp) := rfl
theorem srstr (h : ApHdr) (ra : BitVec 5) (off : BitVec 32) (sp : BitVec 4) : Statement (.srstr h ra off sp) := rfl
theorem sqry (h : ApHdr) (rd : BitVec 5) (sp : BitVec 4) : Statement (.sqry h rd sp) := rfl
theorem smask (h : ApHdr) (sp : BitVec 4) (g : BitVec 3) (mbase : BitVec 6) : Statement (.smask h sp g mbase) := rfl
theorem grd (h : ApHdr) (rd : BitVec 5) (g : BitVec 3) : Statement (.grd h rd g) := rfl
theorem cpy (h : ApHdr) (rd ra : BitVec 5) (off : BitVec 32) : Statement (.cpy h rd ra off) := rfl
theorem cpyi (h : ApHdr) (rd ra rb : BitVec 5) (off : BitVec 32) : Statement (.cpyi h rd ra rb off) := rfl
theorem wmrd (h : ApHdr) (rd : BitVec 5) (nxt : Bool) (chan : BitVec 2) : Statement (.wmrd h rd nxt chan) := rfl
theorem cpq (h : ApHdr) (rd : BitVec 5) (chan : BitVec 2) : Statement (.cpq h rd chan) := rfl
theorem twait (h : ApHdr) (rd : BitVec 5) (o : Op2) (all : Bool) : Statement (.twait h rd o all) := rfl
theorem tffr (h : ApHdr) (rd : BitVec 5) (o : Op2) (clr : Bool) : Statement (.tffr h rd o clr) := rfl
theorem wait (h : ApHdr) (rd ra rb : BitVec 5) (off : BitVec 32) (all : Bool) (ncm1 : BitVec 2) : Statement (.wait h rd ra rb off all ncm1) := rfl
theorem binit (h : ApHdr) (ra : BitVec 5) (o : Op2) : Statement (.binit h ra o) := rfl
theorem barr (h : ApHdr) (rd ra : BitVec 5) (sc : Scope) : Statement (.barr h rd ra sc) := rfl
theorem barrx (h : ApHdr) (ra rb : BitVec 5) (sc : Scope) : Statement (.barrx h ra rb sc) := rfl
theorem bwait (h : ApHdr) (ra : BitVec 5) (o : Op2) (sc : Scope) : Statement (.bwait h ra o sc) := rfl
theorem wlcfg (h : ApHdr) (ra rb : BitVec 5) : Statement (.wlcfg h ra rb) := rfl
theorem wlpush (h : ApHdr) (o : Op2) : Statement (.wlpush h o) := rfl
theorem wlins (h : ApHdr) (o : Op2) (pd : BitVec 3) : Statement (.wlins h o pd) := rfl
theorem wlclr (h : ApHdr) : Statement (.wlclr h) := rfl
theorem wlcnt (h : ApHdr) (rd : BitVec 5) : Statement (.wlcnt h rd) := rfl
theorem chlink (h : ApHdr) (ra : BitVec 5) (chan : BitVec 2) : Statement (.chlink h ra chan) := rfl
theorem chkick (h : ApHdr) (sc : Scope) (chan : BitVec 2) : Statement (.chkick h sc chan) := rfl
theorem chq (h : ApHdr) (rd : BitVec 5) (chan : BitVec 2) : Statement (.chq h rd chan) := rfl
theorem jpost (h : ApHdr) (rd ra rb : BitVec 5) (off : BitVec 32) (sc : Scope) : Statement (.jpost h rd ra rb off sc) := rfl
theorem fork (h : ApHdr) (ra : BitVec 5) (off : BitVec 32) : Statement (.fork h ra off) := rfl
theorem forkEntry (h : ApHdr) : Statement (.forkEntry h) := rfl
theorem rdv (h : ApHdr) : Statement (.rdv h) := rfl
theorem yield (h : ApHdr) : Statement (.yield h) := rfl
theorem trap (h : ApHdr) (code : BitVec 16) : Statement (.trap h code) := rfl
theorem eret (h : ApHdr) (tctx : BitVec 2) : Statement (.eret h tctx) := rfl
theorem rdsr (h : ApHdr) (rd : BitVec 5) (srn : BitVec 8) : Statement (.rdsr h rd srn) := rfl
theorem wrsr (h : ApHdr) (ra : BitVec 5) (srn : BitVec 8) : Statement (.wrsr h ra srn) := rfl
theorem gtcrd (h : ApHdr) (rd : BitVec 5) : Statement (.gtcrd h rd) := rfl
theorem apDone (h : ApHdr) : Statement (.apDone h) := rfl
theorem templateStoreLiteral (tgt : BitVec 6) (op : BitVec 128) : Statement (.templateStoreLiteral tgt op) := rfl
theorem vadd (h : XpHdr) (d a b : Opnd) (ty : Fmt) : Statement (.vadd h d a b ty) := rfl
theorem vsub (h : XpHdr) (d a b : Opnd) (ty : Fmt) : Statement (.vsub h d a b ty) := rfl
theorem vmul (h : XpHdr) (d a b : Opnd) (ty : Fmt) : Statement (.vmul h d a b ty) := rfl
theorem vmulh (h : XpHdr) (d a b : Opnd) (ty : Fmt) : Statement (.vmulh h d a b ty) := rfl
theorem vmulhn (h : XpHdr) (d a b : Opnd) (ty : Fmt) : Statement (.vmulhn h d a b ty) := rfl
theorem vadds (h : XpHdr) (d a b : Opnd) (ty : Fmt) : Statement (.vadds h d a b ty) := rfl
theorem vsubs (h : XpHdr) (d a b : Opnd) (ty : Fmt) : Statement (.vsubs h d a b ty) := rfl
theorem vaddsn (h : XpHdr) (d a b : Opnd) (ty : Fmt) : Statement (.vaddsn h d a b ty) := rfl
theorem vsubsn (h : XpHdr) (d a b : Opnd) (ty : Fmt) : Statement (.vsubsn h d a b ty) := rfl
theorem vmad (h : XpHdr) (d a b c : Opnd) (ty : Fmt) : Statement (.vmad h d a b c ty) := rfl
theorem vabs (h : XpHdr) (d a : Opnd) (ty : Fmt) : Statement (.vabs h d a ty) := rfl
theorem vand (h : XpHdr) (d a b : Opnd) (ty : Fmt) : Statement (.vand h d a b ty) := rfl
theorem vor (h : XpHdr) (d a b : Opnd) (ty : Fmt) : Statement (.vor h d a b ty) := rfl
theorem vxor (h : XpHdr) (d a b : Opnd) (ty : Fmt) : Statement (.vxor h d a b ty) := rfl
theorem vandn (h : XpHdr) (d a b : Opnd) (ty : Fmt) : Statement (.vandn h d a b ty) := rfl
theorem vshl (h : XpHdr) (d a b : Opnd) (ty : Fmt) : Statement (.vshl h d a b ty) := rfl
theorem vshr (h : XpHdr) (d a b : Opnd) (ty : Fmt) : Statement (.vshr h d a b ty) := rfl
theorem vsar (h : XpHdr) (d a b : Opnd) (ty : Fmt) : Statement (.vsar h d a b ty) := rfl
theorem vclz (h : XpHdr) (d a : Opnd) (ty : Fmt) : Statement (.vclz h d a ty) := rfl
theorem vpopc (h : XpHdr) (d a : Opnd) (ty : Fmt) : Statement (.vpopc h d a ty) := rfl
theorem vmin (h : XpHdr) (d a b : Opnd) (ty : Fmt) : Statement (.vmin h d a b ty) := rfl
theorem vmax (h : XpHdr) (d a b : Opnd) (ty : Fmt) : Statement (.vmax h d a b ty) := rfl
theorem vminn (h : XpHdr) (d a b : Opnd) (ty : Fmt) : Statement (.vminn h d a b ty) := rfl
theorem vmaxn (h : XpHdr) (d a b : Opnd) (ty : Fmt) : Statement (.vmaxn h d a b ty) := rfl
theorem vcmp (h : XpHdr) (d : BitVec 3) (a b : Opnd) (cc : Cond) : Statement (.vcmp h d a b cc) := rfl
theorem vcmpn (h : XpHdr) (d : BitVec 3) (a b : Opnd) (cc : Cond) : Statement (.vcmpn h d a b cc) := rfl
theorem vsel (h : XpHdr) (d a b : Opnd) (c : BitVec 3) : Statement (.vsel h d a b c) := rfl
theorem vdot4 (h : XpHdr) (d a b c : Opnd) : Statement (.vdot4 h d a b c) := rfl
theorem vdot4n (h : XpHdr) (d a b c : Opnd) : Statement (.vdot4n h d a b c) := rfl
theorem vdot4s (h : XpHdr) (d a b c : Opnd) : Statement (.vdot4s h d a b c) := rfl
theorem vdot4sn (h : XpHdr) (d a b c : Opnd) : Statement (.vdot4sn h d a b c) := rfl
theorem vfadd (h : XpHdr) (d a b : Opnd) : Statement (.vfadd h d a b) := rfl
theorem vfaddzr (h : XpHdr) (d a b : Opnd) : Statement (.vfaddzr h d a b) := rfl
theorem vfaddfl (h : XpHdr) (d a b : Opnd) : Statement (.vfaddfl h d a b) := rfl
theorem vfaddcl (h : XpHdr) (d a b : Opnd) : Statement (.vfaddcl h d a b) := rfl
theorem vfsub (h : XpHdr) (d a b : Opnd) : Statement (.vfsub h d a b) := rfl
theorem vfsubzr (h : XpHdr) (d a b : Opnd) : Statement (.vfsubzr h d a b) := rfl
theorem vfsubfl (h : XpHdr) (d a b : Opnd) : Statement (.vfsubfl h d a b) := rfl
theorem vfsubcl (h : XpHdr) (d a b : Opnd) : Statement (.vfsubcl h d a b) := rfl
theorem vfmul (h : XpHdr) (d a b : Opnd) : Statement (.vfmul h d a b) := rfl
theorem vfmulzr (h : XpHdr) (d a b : Opnd) : Statement (.vfmulzr h d a b) := rfl
theorem vfmulfl (h : XpHdr) (d a b : Opnd) : Statement (.vfmulfl h d a b) := rfl
theorem vfmulcl (h : XpHdr) (d a b : Opnd) : Statement (.vfmulcl h d a b) := rfl
theorem vfma (h : XpHdr) (d a b c : Opnd) : Statement (.vfma h d a b c) := rfl
theorem vfmazr (h : XpHdr) (d a b c : Opnd) : Statement (.vfmazr h d a b c) := rfl
theorem vfmafl (h : XpHdr) (d a b c : Opnd) : Statement (.vfmafl h d a b c) := rfl
theorem vfmacl (h : XpHdr) (d a b c : Opnd) : Statement (.vfmacl h d a b c) := rfl
theorem vfdiv (h : XpHdr) (d a b : Opnd) : Statement (.vfdiv h d a b) := rfl
theorem vfdivzr (h : XpHdr) (d a b : Opnd) : Statement (.vfdivzr h d a b) := rfl
theorem vfsqrt (h : XpHdr) (d a : Opnd) : Statement (.vfsqrt h d a) := rfl
theorem vfmin (h : XpHdr) (d a b : Opnd) : Statement (.vfmin h d a b) := rfl
theorem vfmax (h : XpHdr) (d a b : Opnd) : Statement (.vfmax h d a b) := rfl
theorem vfabs (h : XpHdr) (d a : Opnd) : Statement (.vfabs h d a) := rfl
theorem vfneg (h : XpHdr) (d a : Opnd) : Statement (.vfneg h d a) := rfl
theorem vfcmp (h : XpHdr) (d : BitVec 3) (a b : Opnd) (cc : Cond) : Statement (.vfcmp h d a b cc) := rfl
theorem vfexp (h : XpHdr) (d a : Opnd) : Statement (.vfexp h d a) := rfl
theorem vfscale (h : XpHdr) (d a b : Opnd) : Statement (.vfscale h d a b) := rfl
theorem vfrint (h : XpHdr) (d a : Opnd) : Statement (.vfrint h d a) := rfl
theorem vfrintfl (h : XpHdr) (d a : Opnd) : Statement (.vfrintfl h d a) := rfl
theorem vcvt (h : XpHdr) (d a : Opnd) (ty ty2 : Fmt) (part : BitVec 3) : Statement (.vcvt h d a ty ty2 part) := rfl
theorem vcvtzr (h : XpHdr) (d a : Opnd) (ty ty2 : Fmt) (part : BitVec 3) : Statement (.vcvtzr h d a ty ty2 part) := rfl
theorem vcvtfl (h : XpHdr) (d a : Opnd) (ty ty2 : Fmt) (part : BitVec 3) : Statement (.vcvtfl h d a ty ty2 part) := rfl
theorem vcvtcl (h : XpHdr) (d a : Opnd) (ty ty2 : Fmt) (part : BitVec 3) : Statement (.vcvtcl h d a ty ty2 part) := rfl
theorem vnars (h : XpHdr) (d a : Opnd) (ty ty2 : Fmt) (part : BitVec 3) : Statement (.vnars h d a ty ty2 part) := rfl
theorem vnarw (h : XpHdr) (d a : Opnd) (ty ty2 : Fmt) (part : BitVec 3) : Statement (.vnarw h d a ty ty2 part) := rfl
theorem vqblk (h : XpHdr) (d a : Opnd) : Statement (.vqblk h d a) := rfl
theorem vdqblk (h : XpHdr) (d a : Opnd) : Statement (.vdqblk h d a) := rfl
theorem vredf (h : XpHdr) (d : BitVec 4) (a : Opnd) : Statement (.vredf h d a) := rfl
theorem vredfmax (h : XpHdr) (d : BitVec 4) (a : Opnd) : Statement (.vredfmax h d a) := rfl
theorem vredfmin (h : XpHdr) (d : BitVec 4) (a : Opnd) : Statement (.vredfmin h d a) := rfl
theorem vred (h : XpHdr) (d : BitVec 4) (a : Opnd) (ty : Fmt) : Statement (.vred h d a ty) := rfl
theorem vreds (h : XpHdr) (d : BitVec 4) (a : Opnd) (ty : Fmt) : Statement (.vreds h d a ty) := rfl
theorem vredmax (h : XpHdr) (d : BitVec 4) (a : Opnd) (ty : Fmt) : Statement (.vredmax h d a ty) := rfl
theorem vredmin (h : XpHdr) (d : BitVec 4) (a : Opnd) (ty : Fmt) : Statement (.vredmin h d a ty) := rfl
theorem vscan (h : XpHdr) (d a : Opnd) (b : BitVec 4) (ty : Fmt) (exc : Bool) : Statement (.vscan h d a b ty exc) := rfl
theorem vbpfx (h : XpHdr) (d a : Opnd) (b : BitVec 4) : Statement (.vbpfx h d a b) := rfl
theorem visect (h : XpHdr) (d a b c : Opnd) (half : Bool) (xw : BitVec 4) : Statement (.visect h d a b c half xw) := rfl
theorem vcmprs (h : XpHdr) (d a : Opnd) : Statement (.vcmprs h d a) := rfl
theorem vexpnd (h : XpHdr) (d a : Opnd) : Statement (.vexpnd h d a) := rfl
theorem vperm (h : XpHdr) (d a b : Opnd) : Statement (.vperm h d a b) := rfl
theorem vbcast (h : XpHdr) (d a : Opnd) (lane : BitVec 6) : Statement (.vbcast h d a lane) := rfl
theorem vrotl (h : XpHdr) (d a : Opnd) (lane : BitVec 6) : Statement (.vrotl h d a lane) := rfl
theorem vslide (h : XpHdr) (d a b : Opnd) (lane : BitVec 6) : Statement (.vslide h d a b lane) := rfl
theorem vzip (h : XpHdr) (d a b : Opnd) (half : Bool) : Statement (.vzip h d a b half) := rfl
theorem vunzip (h : XpHdr) (d a b : Opnd) (half : Bool) : Statement (.vunzip h d a b half) := rfl
theorem vmov (h : XpHdr) (d a : Opnd) : Statement (.vmov h d a) := rfl
theorem vsplat (h : XpHdr) (d : Opnd) (a : BitVec 4) : Statement (.vsplat h d a) := rfl
theorem mand (h : XpHdr) (d a b : BitVec 3) : Statement (.mand h d a b) := rfl
theorem mor (h : XpHdr) (d a b : BitVec 3) : Statement (.mor h d a b) := rfl
theorem mxor (h : XpHdr) (d a b : BitVec 3) : Statement (.mxor h d a b) := rfl
theorem mnot (h : XpHdr) (d a : BitVec 3) : Statement (.mnot h d a) := rfl
theorem mpopc (h : XpHdr) (d : BitVec 4) (a : BitVec 3) : Statement (.mpopc h d a) := rfl
theorem msetx (h : XpHdr) (d : BitVec 3) (a b : BitVec 4) : Statement (.msetx h d a b) := rfl
theorem mgetx (h : XpHdr) (d : BitVec 4) (a : BitVec 3) (half : Bool) : Statement (.mgetx h d a half) := rfl
theorem xadd (h : XpHdr) (d a : BitVec 4) (b : XOp2) : Statement (.xadd h d a b) := rfl
theorem xsub (h : XpHdr) (d a : BitVec 4) (b : XOp2) : Statement (.xsub h d a b) := rfl
theorem xmul (h : XpHdr) (d a : BitVec 4) (b : XOp2) : Statement (.xmul h d a b) := rfl
theorem xand (h : XpHdr) (d a : BitVec 4) (b : XOp2) : Statement (.xand h d a b) := rfl
theorem xior (h : XpHdr) (d a : BitVec 4) (b : XOp2) : Statement (.xior h d a b) := rfl
theorem xxor (h : XpHdr) (d a : BitVec 4) (b : XOp2) : Statement (.xxor h d a b) := rfl
theorem xshl (h : XpHdr) (d a : BitVec 4) (b : XOp2) : Statement (.xshl h d a b) := rfl
theorem xshr (h : XpHdr) (d a : BitVec 4) (b : XOp2) : Statement (.xshr h d a b) := rfl
theorem xmovi (h : XpHdr) (d : BitVec 4) (imm : BitVec 32) : Statement (.xmovi h d imm) := rfl
theorem xlane (h : XpHdr) (d : BitVec 4) (a : Opnd) (lane : BitVec 6) : Statement (.xlane h d a lane) := rfl
theorem xloop (h : XpHdr) (xc nr : BitVec 4) (fin : BitVec 18) : Statement (.xloop h xc nr fin) := rfl
theorem xloopImmediate (h : XpHdr) (nr : BitVec 4) (limm : BitVec 16) (fin : BitVec 18) : Statement (.xloopImmediate h nr limm fin) := rfl
theorem xbr (h : XpHdr) (imm : BitVec 32) : Statement (.xbr h imm) := rfl
theorem xbrc (h : XpHdr) (t : BrTest) (imm : BitVec 32) : Statement (.xbrc h t imm) := rfl
theorem xbend (h : XpHdr) (t : BrTest) : Statement (.xbend h t) := rfl
theorem vld (h : XpHdr) (d : VmOp) (a : BitVec 4) (imm : BitVec 32) : Statement (.vld h d a imm) := rfl
theorem vldIndexed (h : XpHdr) (d : VmOp) (a : BitVec 4) (b : Opnd) (ty : Fmt) (imm : BitVec 32) : Statement (.vldIndexed h d a b ty imm) := rfl
theorem vst (h : XpHdr) (a : BitVec 4) (b : Opnd) (imm : BitVec 32) : Statement (.vst h a b imm) := rfl
theorem vstIndexed (h : XpHdr) (a : BitVec 4) (b c : Opnd) (ty : Fmt) (imm : BitVec 32) : Statement (.vstIndexed h a b c ty imm) := rfl
theorem mwldF4 (h : XpHdr) (a : Opnd) (w : MwldOpts) : Statement (.mwldF4 h a w) := rfl
theorem mwldE4m3 (h : XpHdr) (a : Opnd) (w : MwldOpts) : Statement (.mwldE4m3 h a w) := rfl
theorem mwldE5m2 (h : XpHdr) (a : Opnd) (w : MwldOpts) : Statement (.mwldE5m2 h a w) := rfl
theorem mwldBf16 (h : XpHdr) (a : Opnd) (w : MwldOpts) : Statement (.mwldBf16 h a w) := rfl
theorem mwldF16 (h : XpHdr) (a : Opnd) (w : MwldOpts) : Statement (.mwldF16 h a w) := rfl
theorem mwldI8 (h : XpHdr) (a : Opnd) (w : MwldOpts) : Statement (.mwldI8 h a w) := rfl
theorem mwldN8 (h : XpHdr) (a : Opnd) (w : MwldOpts) : Statement (.mwldN8 h a w) := rfl
theorem mwldI4 (h : XpHdr) (a : Opnd) (w : MwldOpts) : Statement (.mwldI4 h a w) := rfl
theorem mwldN4 (h : XpHdr) (a : Opnd) (w : MwldOpts) : Statement (.mwldN4 h a w) := rfl
theorem mwid (h : XpHdr) (ty : Fmt) : Statement (.mwid h ty) := rfl
theorem mwperm (h : XpHdr) (a : Opnd) (ty : Fmt) : Statement (.mwperm h a ty) := rfl
theorem mwones (h : XpHdr) (ty : Fmt) : Statement (.mwones h ty) := rfl
theorem mwsel (h : XpHdr) (a : BitVec 3) (ty : Fmt) : Statement (.mwsel h a ty) := rfl
theorem mwswp (h : XpHdr) : Statement (.mwswp h) := rfl
theorem mmul (h : XpHdr) (a : Opnd) (ty : Fmt) (abase : BitVec 6) : Statement (.mmul h a ty abase) := rfl
theorem mmulz (h : XpHdr) (a : Opnd) (ty : Fmt) (abase : BitVec 6) : Statement (.mmulz h a ty abase) := rfl
theorem mmulm (h : XpHdr) (a : Opnd) (ty : Fmt) (abase : BitVec 6) (g : BitVec 3) (mbase : BitVec 6) (ngm1 : BitVec 2) (gte : Bool) : Statement (.mmulm h a ty abase g mbase ngm1 gte) := rfl
theorem mmulmz (h : XpHdr) (a : Opnd) (ty : Fmt) (abase : BitVec 6) (g : BitVec 3) (mbase : BitVec 6) (ngm1 : BitVec 2) (gte : Bool) : Statement (.mmulmz h a ty abase g mbase ngm1 gte) := rfl
theorem macrd (h : XpHdr) (d : VmOp) (row : BitVec 6) (cg : BitVec 2) (clr : Bool) : Statement (.macrd h d row cg clr) := rfl
theorem macrdScratchpad (h : XpHdr) (a : BitVec 4) (row : BitVec 6) (cg : BitVec 2) (clr : Bool) : Statement (.macrdScratchpad h a row cg clr) := rfl
theorem macclr (h : XpHdr) (row nrm1 : BitVec 6) : Statement (.macclr h row nrm1) := rfl
theorem mscoutQuery (h : XpHdr) (a : Opnd) (eidx : BitVec 5) : Statement (.mscoutQuery h a eidx) := rfl
theorem mscoutKey (h : XpHdr) (a : Opnd) (eidx : BitVec 5) : Statement (.mscoutKey h a eidx) := rfl
theorem mscoutScore (h : XpHdr) (d a : Opnd) (eidx : BitVec 5) (nqm1 nkm1 slane : BitVec 6) (nsegm1 : Bool) : Statement (.mscoutScore h d a eidx nqm1 nkm1 slane nsegm1) := rfl
theorem mcairn (h : XpHdr) (d : BitVec 3) (a : Opnd) (b : BitVec 4) (c : BitVec 3) : Statement (.mcairn h d a b c) := rfl
theorem gand (h : XpHdr) (d : BitVec 3) (a b : GSrc) : Statement (.gand h d a b) := rfl
theorem gor (h : XpHdr) (d : BitVec 3) (a b : GSrc) : Statement (.gor h d a b) := rfl
theorem gandn (h : XpHdr) (d : BitVec 3) (a b : GSrc) : Statement (.gandn h d a b) := rfl
theorem gset (h : XpHdr) (d a : BitVec 3) : Statement (.gset h d a) := rfl
theorem gget (h : XpHdr) (d : BitVec 3) (a : GSrc) : Statement (.gget h d a) := rfl
theorem xpRdv (h : XpHdr) : Statement (.xpRdv h) := rfl
theorem xpWait (h : XpHdr) (d a b : BitVec 4) (all : Bool) (ncm1 : BitVec 2) (imm : BitVec 32) : Statement (.xpWait h d a b all ncm1 imm) := rfl
theorem wlpopv (h : XpHdr) (d : VmOp) (xn : BitVec 4) : Statement (.wlpopv h d xn) := rfl
theorem xpIfence (h : XpHdr) : Statement (.xpIfence h) := rfl
theorem xpRdsr (h : XpHdr) (d : BitVec 4) (half : Bool) (srn : BitVec 8) : Statement (.xpRdsr h d half srn) := rfl
theorem xpWrsr (h : XpHdr) (a : BitVec 4) (srn : BitVec 8) : Statement (.xpWrsr h a srn) := rfl
theorem xpYield (h : XpHdr) : Statement (.xpYield h) := rfl
theorem xpTrap (h : XpHdr) (code : BitVec 16) : Statement (.xpTrap h code) := rfl
theorem xpDone (h : XpHdr) : Statement (.xpDone h) := rfl
theorem xpNop (h : XpHdr) : Statement (.xpNop h) := rfl
theorem xpFenceAcq (h : XpHdr) (sc : Scope) : Statement (.xpFenceAcq h sc) := rfl
theorem xpFenceRel (h : XpHdr) (sc : Scope) : Statement (.xpFenceRel h sc) := rfl
theorem xpFenceSc (h : XpHdr) (sc : Scope) : Statement (.xpFenceSc h sc) := rfl
theorem stallRelease (t : Tid) : Statement (.stallRelease t) := rfl
theorem waitTimeout (t : Tid) : Statement (.waitTimeout t) := rfl
theorem watchdog (t : Tid) : Statement (.watchdog t) := rfl
theorem loadDataArrival (id : Nat) : Statement (.loadDataArrival id) := rfl
theorem longLatencyDelivery (id : Nat) : Statement (.longLatencyDelivery id) := rfl
theorem tokenArrival (id : Nat) : Statement (.tokenArrival id) := rfl
theorem memoryRequestArrival (id : Nat) (ue : Bool) : Statement (.memoryRequestArrival id ue) := rfl
theorem atomicPerform (id : Nat) (ue : Bool) : Statement (.atomicPerform id ue) := rfl
theorem pageTableWalk (core ctx va : Nat) (acc : AccessKind) : Statement (.pageTableWalk core ctx va acc) := rfl
theorem copy (core id : Nat) : Statement (.copy core id) := rfl
theorem copyToImem (core id : Nat) : Statement (.copyToImem core id) := rfl
theorem copyToTemplateStore (core id : Nat) : Statement (.copyToTemplateStore core id) := rfl
theorem publish (core id : Nat) : Statement (.publish core id) := rfl
theorem gather (core id : Nat) : Statement (.gather core id) := rfl
theorem rread (core id : Nat) : Statement (.rread core id) := rfl
theorem rreadReply (core id row : Nat) : Statement (.rreadReply core id row) := rfl
theorem pool (core id : Nat) : Statement (.pool core id) := rfl
theorem csr (core id : Nat) : Statement (.csr core id) := rfl
theorem decode (core id : Nat) : Statement (.decode core id) := rfl
theorem encode (core id : Nat) : Statement (.encode core id) := rfl
theorem hist (core id : Nat) : Statement (.hist core id) := rfl
theorem build (core id : Nat) : Statement (.build core id) := rfl
theorem copyCompletion (core id : Nat) : Statement (.copyCompletion core id) := rfl
theorem almanacRelease (core id : Nat) : Statement (.almanacRelease core id) := rfl
theorem codecDecodeBlock (u : CodecUser) : Statement (.codecDecodeBlock u) := rfl
theorem codecEncodeBlock (u : CodecUser) : Statement (.codecEncodeBlock u) := rfl
theorem chainEntryFetch (core ctx chan : Nat) : Statement (.chainEntryFetch core ctx chan) := rfl
theorem chainSlotConsume (core ctx chan : Nat) : Statement (.chainSlotConsume core ctx chan) := rfl
theorem chainPost (core ctx chan : Nat) : Statement (.chainPost core ctx chan) := rfl
theorem ringAuditEvent (ten n : Nat) (flip : Bool) : Statement (.ringAuditEvent ten n flip) := rfl
theorem triggerLaunch (ten n : Nat) : Statement (.triggerLaunch ten n) := rfl
theorem streamElementGenerate (core ctx sp : Nat) : Statement (.streamElementGenerate core ctx sp) := rfl
theorem streamLineFull (core ctx sp line : Nat) : Statement (.streamLineFull core ctx sp line) := rfl
theorem streamDrain (core ctx sp : Nat) : Statement (.streamDrain core ctx sp) := rfl
theorem maskLatch (core ctx sp : Nat) : Statement (.maskLatch core ctx sp) := rfl
theorem peerElementArrival (id : Nat) : Statement (.peerElementArrival id) := rfl
theorem endMarkerArrival (id : Nat) : Statement (.endMarkerArrival id) := rfl
theorem workListSpill (core ctx : Nat) : Statement (.workListSpill core ctx) := rfl
theorem workListRefill (core ctx : Nat) : Statement (.workListRefill core ctx) := rfl
theorem arrayOperation (core : Nat) : Statement (.arrayOperation core) := rfl
theorem scoutOperation (core : Nat) : Statement (.scoutOperation core) := rfl
theorem deferredPoisonTrap (core ctx : Nat) : Statement (.deferredPoisonTrap core ctx) := rfl
theorem barrierArrivalMessage (id : Nat) : Statement (.barrierArrivalMessage id) := rfl
theorem handlerDispatch (core : Nat) : Statement (.handlerDispatch core) := rfl
theorem correctableErrorFreeze (err : FoundError) : Statement (.correctableErrorFreeze err) := rfl
theorem freezeEnd (core : Nat) : Statement (.freezeEnd core) := rfl
theorem msixWrite (write : VectorWrite) : Statement (.msixWrite write) := rfl
theorem tailSwapReport (ten cls : Nat) : Statement (.tailSwapReport ten cls) := rfl
theorem stepBind (ten pick : Nat) : Statement (.stepBind ten pick) := rfl
theorem gangRelease (step : Nat) : Statement (.gangRelease step) := rfl
theorem transformNodeStart (ten : Nat) : Statement (.transformNodeStart ten) := rfl
theorem nodeCompletion (run : Nat) : Statement (.nodeCompletion run) := rfl
theorem cardCompletion (id : Nat) : Statement (.cardCompletion id) := rfl
theorem stepAgeing (step : Nat) : Statement (.stepAgeing step) := rfl
theorem yieldRequest (step victim : Nat) : Statement (.yieldRequest step victim) := rfl
theorem setAside (step : Nat) : Statement (.setAside step) := rfl
theorem qtailWrite (ten cls : Nat) (v : BitVec 64) : Statement (.qtailWrite ten cls v) := rfl
theorem ctrWrite (ten n : Nat) (v : BitVec 64) : Statement (.ctrWrite ten n v) := rfl
theorem ccfgWrite (ten n : Nat) (v : BitVec 64) : Statement (.ccfgWrite ten n v) := rfl
theorem lpost (ten : Nat) (v : BitVec 64) : Statement (.lpost ten v) := rfl
theorem forcedHalt (ten : Nat) : Statement (.forcedHalt ten) := rfl
theorem haltRelease (ten : Nat) : Statement (.haltRelease ten) := rfl
theorem cooperativeRequest (ten : Nat) : Statement (.cooperativeRequest ten) := rfl
theorem swapOut (ten : Nat) : Statement (.swapOut ten) := rfl
theorem swapIn (ten : Nat) : Statement (.swapIn ten) := rfl
theorem swapExchange (ten : Nat) : Statement (.swapExchange ten) := rfl
theorem tlbiWholeTenant (ten : Nat) : Statement (.tlbiWholeTenant ten) := rfl
theorem tlbiRange (ten : Nat) (npages : BitVec 32) : Statement (.tlbiRange ten npages) := rfl
theorem tlbInvalidationComplete (ten : Nat) : Statement (.tlbInvalidationComplete ten) := rfl
theorem parkqRead (core : Nat) : Statement (.parkqRead core) := rfl
theorem parkResume (core ctx sp : Nat) : Statement (.parkResume core ctx sp) := rfl
theorem parkDeliver (core ctx sp : Nat) : Statement (.parkDeliver core ctx sp) := rfl
theorem cecountRead (core : Nat) : Statement (.cecountRead core) := rfl
theorem lostRead (ten : Nat) : Statement (.lostRead ten) := rfl
theorem cctlResume (core ctx : Nat) : Statement (.cctlResume core ctx) := rfl
theorem cctlParkResume (core ctx sp : Nat) : Statement (.cctlParkResume core ctx sp) := rfl
theorem cctlParkDeliver (core ctx sp : Nat) : Statement (.cctlParkDeliver core ctx sp) := rfl
theorem cpartMove (c : Nat) (v : BitVec 64) : Statement (.cpartMove c v) := rfl
theorem cpartMoveComplete (c : Nat) : Statement (.cpartMoveComplete c) := rfl
theorem retrain  : Statement (.retrain) := rfl
theorem portModeOff (p : Nat) : Statement (.portModeOff p) := rfl
theorem portModeNymay (p : Nat) : Statement (.portModeNymay p) := rfl
theorem portModeIngress (p : Nat) : Statement (.portModeIngress p) := rfl
theorem portCounterRead (p ctr : Nat) : Statement (.portCounterRead p ctr) := rfl
theorem registerWrite (fn off n : Nat) (v : BitVec 64) : Statement (.registerWrite fn off n v) := rfl
theorem vfFlr (ten : Nat) : Statement (.vfFlr ten) := rfl
theorem pf0Flr  : Statement (.pf0Flr) := rfl
theorem hostPostedWrite (fn off : Nat) (bs : List Byte) : Statement (.hostPostedWrite fn off bs) := rfl
theorem hostRead (fn : Nat) (bar0 : Bool) (off n : Nat) : Statement (.hostRead fn bar0 off n) := rfl
theorem hostAtomicop (fn off n : Nat) (op : ReqOp) (v : BitVec 64) : Statement (.hostAtomicop fn off n op v) := rfl
theorem spdmRequest (req : List Byte) : Statement (.spdmRequest req) := rfl
theorem deviceReset  : Statement (.deviceReset) := rfl
theorem firmwareImageVerify  : Statement (.firmwareImageVerify) := rfl
theorem thermalWarning (temp : Nat) : Statement (.thermalWarning temp) := rfl
theorem thermalTrip (temp : Nat) : Statement (.thermalTrip temp) := rfl
theorem bridgeRetrainEvent  : Statement (.bridgeRetrainEvent) := rfl
theorem bridgeLinkDown  : Statement (.bridgeLinkDown) := rfl
theorem bridgeTrainingComplete  : Statement (.bridgeTrainingComplete) := rfl
theorem nymayLinkDown (p : Nat) : Statement (.nymayLinkDown p) := rfl
theorem nymayRequestArrival (p off n : Nat) (op : ReqOp) (v : BitVec 64) : Statement (.nymayRequestArrival p off n op v) := rfl
theorem gvspLeader (p : Nat) (g : Gvsp) (width height pix : BitVec 32) : Statement (.gvspLeader p g width height pix) := rfl
theorem gvspPayload (p : Nat) (g : Gvsp) (pkt : Nat) (bs : List Byte) : Statement (.gvspPayload p g pkt bs) := rfl
theorem gvspTrailer (p : Nat) (g : Gvsp) (len : Nat) : Statement (.gvspTrailer p g len) := rfl
theorem gvspPacketRefused (d : PortDatagram) : Statement (.gvspPacketRefused d) := rfl
theorem frameTimeout (p : Nat) : Statement (.frameTimeout p) := rfl
theorem hostIngressFrame (p : Nat) (bs : List Byte) : Statement (.hostIngressFrame p bs) := rfl
theorem timeSyncMessage  : Statement (.timeSyncMessage) := rfl
theorem cxlMemRequest (ten off n : Nat) (wr : Option (List Byte)) : Statement (.cxlMemRequest ten off n wr) := rfl
theorem nymayLinkRetrain (p : Nat) : Statement (.nymayLinkRetrain p) := rfl
theorem ethernetLinkUp (p : Nat) : Statement (.ethernetLinkUp p) := rfl

end Sys2Proof.Laws.Encodable
end

