-- ==== Sys2Proof/Laws/State.lean ====
section
/-! SUPPORT. Reading a field of the state after one update of it: one lemma for each field and update; reading back what a core,
a context, a half or a byte was set to. -/

namespace Sys2Proof.Machine
open Sys2Proof

/-! ## After `setCore` -/

@[simp] theorem State.setCore_agenda (s : State) (k : Nat) (c : Core) : (s.setCore k c).agenda = s.agenda := rfl
@[simp] theorem State.setCore_cur (s : State) (k : Nat) (c : Core) : (s.setCore k c).cur = s.cur := rfl
@[simp] theorem State.setCore_fresh (s : State) (k : Nat) (c : Core) : (s.setCore k c).fresh = s.fresh := rfl
@[simp] theorem State.setCore_nextId (s : State) (k : Nat) (c : Core) : (s.setCore k c).nextId = s.nextId := rfl
@[simp] theorem State.setCore_cc (s : State) (k : Nat) (c : Core) : (s.setCore k c).cc = s.cc := rfl
@[simp] theorem State.setCore_gtc (s : State) (k : Nat) (c : Core) : (s.setCore k c).gtc = s.gtc := rfl
@[simp] theorem State.setCore_mem (s : State) (k : Nat) (c : Core) : (s.setCore k c).mem = s.mem := rfl
@[simp] theorem State.setCore_bad (s : State) (k : Nat) (c : Core) : (s.setCore k c).bad = s.bad := rfl
@[simp] theorem State.setCore_reqs (s : State) (k : Nat) (c : Core) : (s.setCore k c).reqs = s.reqs := rfl
@[simp] theorem State.setCore_delivs (s : State) (k : Nat) (c : Core) : (s.setCore k c).delivs = s.delivs := rfl
@[simp] theorem State.setCore_toks (s : State) (k : Nat) (c : Core) : (s.setCore k c).toks = s.toks := rfl
@[simp] theorem State.setCore_barMsgs (s : State) (k : Nat) (c : Core) : (s.setCore k c).barMsgs = s.barMsgs := rfl
@[simp] theorem State.setCore_elems (s : State) (k : Nat) (c : Core) : (s.setCore k c).elems = s.elems := rfl
@[simp] theorem State.setCore_tlb (s : State) (k : Nat) (c : Core) : (s.setCore k c).tlb = s.tlb := rfl
@[simp] theorem State.setCore_walk (s : State) (k : Nat) (c : Core) : (s.setCore k c).walk = s.walk := rfl
@[simp] theorem State.setCore_dev (s : State) (k : Nat) (c : Core) : (s.setCore k c).dev = s.dev := rfl

/-! ## After `modCore` -/

@[simp] theorem State.modCore_agenda (s : State) (k : Nat) (f : Core → Core) : (s.modCore k f).agenda = s.agenda := rfl
@[simp] theorem State.modCore_cur (s : State) (k : Nat) (f : Core → Core) : (s.modCore k f).cur = s.cur := rfl
@[simp] theorem State.modCore_fresh (s : State) (k : Nat) (f : Core → Core) : (s.modCore k f).fresh = s.fresh := rfl
@[simp] theorem State.modCore_nextId (s : State) (k : Nat) (f : Core → Core) : (s.modCore k f).nextId = s.nextId := rfl
@[simp] theorem State.modCore_cc (s : State) (k : Nat) (f : Core → Core) : (s.modCore k f).cc = s.cc := rfl
@[simp] theorem State.modCore_gtc (s : State) (k : Nat) (f : Core → Core) : (s.modCore k f).gtc = s.gtc := rfl
@[simp] theorem State.modCore_mem (s : State) (k : Nat) (f : Core → Core) : (s.modCore k f).mem = s.mem := rfl
@[simp] theorem State.modCore_bad (s : State) (k : Nat) (f : Core → Core) : (s.modCore k f).bad = s.bad := rfl
@[simp] theorem State.modCore_reqs (s : State) (k : Nat) (f : Core → Core) : (s.modCore k f).reqs = s.reqs := rfl
@[simp] theorem State.modCore_delivs (s : State) (k : Nat) (f : Core → Core) : (s.modCore k f).delivs = s.delivs := rfl
@[simp] theorem State.modCore_toks (s : State) (k : Nat) (f : Core → Core) : (s.modCore k f).toks = s.toks := rfl
@[simp] theorem State.modCore_barMsgs (s : State) (k : Nat) (f : Core → Core) : (s.modCore k f).barMsgs = s.barMsgs := rfl
@[simp] theorem State.modCore_elems (s : State) (k : Nat) (f : Core → Core) : (s.modCore k f).elems = s.elems := rfl
@[simp] theorem State.modCore_tlb (s : State) (k : Nat) (f : Core → Core) : (s.modCore k f).tlb = s.tlb := rfl
@[simp] theorem State.modCore_walk (s : State) (k : Nat) (f : Core → Core) : (s.modCore k f).walk = s.walk := rfl
@[simp] theorem State.modCore_dev (s : State) (k : Nat) (f : Core → Core) : (s.modCore k f).dev = s.dev := rfl

/-! ## After `setCtx` -/

@[simp] theorem State.setCtx_agenda (s : State) (k x : Nat) (c : Ctx) : (s.setCtx k x c).agenda = s.agenda := rfl
@[simp] theorem State.setCtx_cur (s : State) (k x : Nat) (c : Ctx) : (s.setCtx k x c).cur = s.cur := rfl
@[simp] theorem State.setCtx_fresh (s : State) (k x : Nat) (c : Ctx) : (s.setCtx k x c).fresh = s.fresh := rfl
@[simp] theorem State.setCtx_nextId (s : State) (k x : Nat) (c : Ctx) : (s.setCtx k x c).nextId = s.nextId := rfl
@[simp] theorem State.setCtx_cc (s : State) (k x : Nat) (c : Ctx) : (s.setCtx k x c).cc = s.cc := rfl
@[simp] theorem State.setCtx_gtc (s : State) (k x : Nat) (c : Ctx) : (s.setCtx k x c).gtc = s.gtc := rfl
@[simp] theorem State.setCtx_mem (s : State) (k x : Nat) (c : Ctx) : (s.setCtx k x c).mem = s.mem := rfl
@[simp] theorem State.setCtx_bad (s : State) (k x : Nat) (c : Ctx) : (s.setCtx k x c).bad = s.bad := rfl
@[simp] theorem State.setCtx_reqs (s : State) (k x : Nat) (c : Ctx) : (s.setCtx k x c).reqs = s.reqs := rfl
@[simp] theorem State.setCtx_delivs (s : State) (k x : Nat) (c : Ctx) : (s.setCtx k x c).delivs = s.delivs := rfl
@[simp] theorem State.setCtx_toks (s : State) (k x : Nat) (c : Ctx) : (s.setCtx k x c).toks = s.toks := rfl
@[simp] theorem State.setCtx_barMsgs (s : State) (k x : Nat) (c : Ctx) : (s.setCtx k x c).barMsgs = s.barMsgs := rfl
@[simp] theorem State.setCtx_elems (s : State) (k x : Nat) (c : Ctx) : (s.setCtx k x c).elems = s.elems := rfl
@[simp] theorem State.setCtx_tlb (s : State) (k x : Nat) (c : Ctx) : (s.setCtx k x c).tlb = s.tlb := rfl
@[simp] theorem State.setCtx_walk (s : State) (k x : Nat) (c : Ctx) : (s.setCtx k x c).walk = s.walk := rfl
@[simp] theorem State.setCtx_dev (s : State) (k x : Nat) (c : Ctx) : (s.setCtx k x c).dev = s.dev := rfl

/-! ## After `modCtx` -/

@[simp] theorem State.modCtx_agenda (s : State) (k x : Nat) (f : Ctx → Ctx) : (s.modCtx k x f).agenda = s.agenda := rfl
@[simp] theorem State.modCtx_cur (s : State) (k x : Nat) (f : Ctx → Ctx) : (s.modCtx k x f).cur = s.cur := rfl
@[simp] theorem State.modCtx_fresh (s : State) (k x : Nat) (f : Ctx → Ctx) : (s.modCtx k x f).fresh = s.fresh := rfl
@[simp] theorem State.modCtx_nextId (s : State) (k x : Nat) (f : Ctx → Ctx) : (s.modCtx k x f).nextId = s.nextId := rfl
@[simp] theorem State.modCtx_cc (s : State) (k x : Nat) (f : Ctx → Ctx) : (s.modCtx k x f).cc = s.cc := rfl
@[simp] theorem State.modCtx_gtc (s : State) (k x : Nat) (f : Ctx → Ctx) : (s.modCtx k x f).gtc = s.gtc := rfl
@[simp] theorem State.modCtx_mem (s : State) (k x : Nat) (f : Ctx → Ctx) : (s.modCtx k x f).mem = s.mem := rfl
@[simp] theorem State.modCtx_bad (s : State) (k x : Nat) (f : Ctx → Ctx) : (s.modCtx k x f).bad = s.bad := rfl
@[simp] theorem State.modCtx_reqs (s : State) (k x : Nat) (f : Ctx → Ctx) : (s.modCtx k x f).reqs = s.reqs := rfl
@[simp] theorem State.modCtx_delivs (s : State) (k x : Nat) (f : Ctx → Ctx) : (s.modCtx k x f).delivs = s.delivs := rfl
@[simp] theorem State.modCtx_toks (s : State) (k x : Nat) (f : Ctx → Ctx) : (s.modCtx k x f).toks = s.toks := rfl
@[simp] theorem State.modCtx_barMsgs (s : State) (k x : Nat) (f : Ctx → Ctx) : (s.modCtx k x f).barMsgs = s.barMsgs := rfl
@[simp] theorem State.modCtx_elems (s : State) (k x : Nat) (f : Ctx → Ctx) : (s.modCtx k x f).elems = s.elems := rfl
@[simp] theorem State.modCtx_tlb (s : State) (k x : Nat) (f : Ctx → Ctx) : (s.modCtx k x f).tlb = s.tlb := rfl
@[simp] theorem State.modCtx_walk (s : State) (k x : Nat) (f : Ctx → Ctx) : (s.modCtx k x f).walk = s.walk := rfl
@[simp] theorem State.modCtx_dev (s : State) (k x : Nat) (f : Ctx → Ctx) : (s.modCtx k x f).dev = s.dev := rfl

/-! ## After `modHalf` -/

@[simp] theorem State.modHalf_agenda (s : State) (t : Tid) (f : Half → Half) : (s.modHalf t f).agenda = s.agenda := rfl
@[simp] theorem State.modHalf_cur (s : State) (t : Tid) (f : Half → Half) : (s.modHalf t f).cur = s.cur := rfl
@[simp] theorem State.modHalf_fresh (s : State) (t : Tid) (f : Half → Half) : (s.modHalf t f).fresh = s.fresh := rfl
@[simp] theorem State.modHalf_nextId (s : State) (t : Tid) (f : Half → Half) : (s.modHalf t f).nextId = s.nextId := rfl
@[simp] theorem State.modHalf_cc (s : State) (t : Tid) (f : Half → Half) : (s.modHalf t f).cc = s.cc := rfl
@[simp] theorem State.modHalf_gtc (s : State) (t : Tid) (f : Half → Half) : (s.modHalf t f).gtc = s.gtc := rfl
@[simp] theorem State.modHalf_mem (s : State) (t : Tid) (f : Half → Half) : (s.modHalf t f).mem = s.mem := rfl
@[simp] theorem State.modHalf_bad (s : State) (t : Tid) (f : Half → Half) : (s.modHalf t f).bad = s.bad := rfl
@[simp] theorem State.modHalf_reqs (s : State) (t : Tid) (f : Half → Half) : (s.modHalf t f).reqs = s.reqs := rfl
@[simp] theorem State.modHalf_delivs (s : State) (t : Tid) (f : Half → Half) : (s.modHalf t f).delivs = s.delivs := rfl
@[simp] theorem State.modHalf_toks (s : State) (t : Tid) (f : Half → Half) : (s.modHalf t f).toks = s.toks := rfl
@[simp] theorem State.modHalf_barMsgs (s : State) (t : Tid) (f : Half → Half) : (s.modHalf t f).barMsgs = s.barMsgs := rfl
@[simp] theorem State.modHalf_elems (s : State) (t : Tid) (f : Half → Half) : (s.modHalf t f).elems = s.elems := rfl
@[simp] theorem State.modHalf_tlb (s : State) (t : Tid) (f : Half → Half) : (s.modHalf t f).tlb = s.tlb := rfl
@[simp] theorem State.modHalf_walk (s : State) (t : Tid) (f : Half → Half) : (s.modHalf t f).walk = s.walk := rfl
@[simp] theorem State.modHalf_dev (s : State) (t : Tid) (f : Half → Half) : (s.modHalf t f).dev = s.dev := rfl

/-! ## After `modMe` -/

@[simp] theorem State.modMe_agenda (s : State) (f : Ctx → Ctx) : (s.modMe f).agenda = s.agenda := rfl
@[simp] theorem State.modMe_cur (s : State) (f : Ctx → Ctx) : (s.modMe f).cur = s.cur := rfl
@[simp] theorem State.modMe_fresh (s : State) (f : Ctx → Ctx) : (s.modMe f).fresh = s.fresh := rfl
@[simp] theorem State.modMe_nextId (s : State) (f : Ctx → Ctx) : (s.modMe f).nextId = s.nextId := rfl
@[simp] theorem State.modMe_cc (s : State) (f : Ctx → Ctx) : (s.modMe f).cc = s.cc := rfl
@[simp] theorem State.modMe_gtc (s : State) (f : Ctx → Ctx) : (s.modMe f).gtc = s.gtc := rfl
@[simp] theorem State.modMe_mem (s : State) (f : Ctx → Ctx) : (s.modMe f).mem = s.mem := rfl
@[simp] theorem State.modMe_bad (s : State) (f : Ctx → Ctx) : (s.modMe f).bad = s.bad := rfl
@[simp] theorem State.modMe_reqs (s : State) (f : Ctx → Ctx) : (s.modMe f).reqs = s.reqs := rfl
@[simp] theorem State.modMe_delivs (s : State) (f : Ctx → Ctx) : (s.modMe f).delivs = s.delivs := rfl
@[simp] theorem State.modMe_toks (s : State) (f : Ctx → Ctx) : (s.modMe f).toks = s.toks := rfl
@[simp] theorem State.modMe_barMsgs (s : State) (f : Ctx → Ctx) : (s.modMe f).barMsgs = s.barMsgs := rfl
@[simp] theorem State.modMe_elems (s : State) (f : Ctx → Ctx) : (s.modMe f).elems = s.elems := rfl
@[simp] theorem State.modMe_tlb (s : State) (f : Ctx → Ctx) : (s.modMe f).tlb = s.tlb := rfl
@[simp] theorem State.modMe_walk (s : State) (f : Ctx → Ctx) : (s.modMe f).walk = s.walk := rfl
@[simp] theorem State.modMe_dev (s : State) (f : Ctx → Ctx) : (s.modMe f).dev = s.dev := rfl

/-! ## After `setByte` -/

@[simp] theorem State.setByte_agenda (s : State) (pa : Nat) (b : Byte) : (s.setByte pa b).agenda = s.agenda := rfl
@[simp] theorem State.setByte_cur (s : State) (pa : Nat) (b : Byte) : (s.setByte pa b).cur = s.cur := rfl
@[simp] theorem State.setByte_fresh (s : State) (pa : Nat) (b : Byte) : (s.setByte pa b).fresh = s.fresh := rfl
@[simp] theorem State.setByte_nextId (s : State) (pa : Nat) (b : Byte) : (s.setByte pa b).nextId = s.nextId := rfl
@[simp] theorem State.setByte_cc (s : State) (pa : Nat) (b : Byte) : (s.setByte pa b).cc = s.cc := rfl
@[simp] theorem State.setByte_gtc (s : State) (pa : Nat) (b : Byte) : (s.setByte pa b).gtc = s.gtc := rfl
@[simp] theorem State.setByte_bad (s : State) (pa : Nat) (b : Byte) : (s.setByte pa b).bad = s.bad := rfl
@[simp] theorem State.setByte_reqs (s : State) (pa : Nat) (b : Byte) : (s.setByte pa b).reqs = s.reqs := rfl
@[simp] theorem State.setByte_delivs (s : State) (pa : Nat) (b : Byte) : (s.setByte pa b).delivs = s.delivs := rfl
@[simp] theorem State.setByte_toks (s : State) (pa : Nat) (b : Byte) : (s.setByte pa b).toks = s.toks := rfl
@[simp] theorem State.setByte_barMsgs (s : State) (pa : Nat) (b : Byte) : (s.setByte pa b).barMsgs = s.barMsgs := rfl
@[simp] theorem State.setByte_elems (s : State) (pa : Nat) (b : Byte) : (s.setByte pa b).elems = s.elems := rfl
@[simp] theorem State.setByte_tlb (s : State) (pa : Nat) (b : Byte) : (s.setByte pa b).tlb = s.tlb := rfl
@[simp] theorem State.setByte_walk (s : State) (pa : Nat) (b : Byte) : (s.setByte pa b).walk = s.walk := rfl
@[simp] theorem State.setByte_cores (s : State) (pa : Nat) (b : Byte) : (s.setByte pa b).cores = s.cores := rfl
@[simp] theorem State.setByte_dev (s : State) (pa : Nat) (b : Byte) : (s.setByte pa b).dev = s.dev := rfl

/-! ## After `newId` -/

@[simp] theorem State.newId_agenda (s : State) : (s.newId.2).agenda = s.agenda := rfl
@[simp] theorem State.newId_cur (s : State) : (s.newId.2).cur = s.cur := rfl
@[simp] theorem State.newId_fresh (s : State) : (s.newId.2).fresh = s.fresh := rfl
@[simp] theorem State.newId_cc (s : State) : (s.newId.2).cc = s.cc := rfl
@[simp] theorem State.newId_gtc (s : State) : (s.newId.2).gtc = s.gtc := rfl
@[simp] theorem State.newId_mem (s : State) : (s.newId.2).mem = s.mem := rfl
@[simp] theorem State.newId_bad (s : State) : (s.newId.2).bad = s.bad := rfl
@[simp] theorem State.newId_reqs (s : State) : (s.newId.2).reqs = s.reqs := rfl
@[simp] theorem State.newId_delivs (s : State) : (s.newId.2).delivs = s.delivs := rfl
@[simp] theorem State.newId_toks (s : State) : (s.newId.2).toks = s.toks := rfl
@[simp] theorem State.newId_barMsgs (s : State) : (s.newId.2).barMsgs = s.barMsgs := rfl
@[simp] theorem State.newId_elems (s : State) : (s.newId.2).elems = s.elems := rfl
@[simp] theorem State.newId_tlb (s : State) : (s.newId.2).tlb = s.tlb := rfl
@[simp] theorem State.newId_walk (s : State) : (s.newId.2).walk = s.walk := rfl
@[simp] theorem State.newId_cores (s : State) : (s.newId.2).cores = s.cores := rfl
@[simp] theorem State.newId_dev (s : State) : (s.newId.2).dev = s.dev := rfl

/-! ## After `newFree` -/

@[simp] theorem State.newFree_agenda (s : State) : (s.newFree.2).agenda = s.agenda := rfl
@[simp] theorem State.newFree_cur (s : State) : (s.newFree.2).cur = s.cur := rfl
@[simp] theorem State.newFree_nextId (s : State) : (s.newFree.2).nextId = s.nextId := rfl
@[simp] theorem State.newFree_cc (s : State) : (s.newFree.2).cc = s.cc := rfl
@[simp] theorem State.newFree_gtc (s : State) : (s.newFree.2).gtc = s.gtc := rfl
@[simp] theorem State.newFree_mem (s : State) : (s.newFree.2).mem = s.mem := rfl
@[simp] theorem State.newFree_bad (s : State) : (s.newFree.2).bad = s.bad := rfl
@[simp] theorem State.newFree_reqs (s : State) : (s.newFree.2).reqs = s.reqs := rfl
@[simp] theorem State.newFree_delivs (s : State) : (s.newFree.2).delivs = s.delivs := rfl
@[simp] theorem State.newFree_toks (s : State) : (s.newFree.2).toks = s.toks := rfl
@[simp] theorem State.newFree_barMsgs (s : State) : (s.newFree.2).barMsgs = s.barMsgs := rfl
@[simp] theorem State.newFree_elems (s : State) : (s.newFree.2).elems = s.elems := rfl
@[simp] theorem State.newFree_tlb (s : State) : (s.newFree.2).tlb = s.tlb := rfl
@[simp] theorem State.newFree_walk (s : State) : (s.newFree.2).walk = s.walk := rfl
@[simp] theorem State.newFree_cores (s : State) : (s.newFree.2).cores = s.cores := rfl
@[simp] theorem State.newFree_dev (s : State) : (s.newFree.2).dev = s.dev := rfl

@[simp] theorem State.newId_fst (s : State) : s.newId.1 = s.nextId := rfl
@[simp] theorem State.newId_nextId (s : State) : s.newId.2.nextId = s.nextId + 1 := rfl
@[simp] theorem State.newFree_fst (s : State) : s.newFree.1 = s.fresh := rfl
@[simp] theorem State.newFree_fresh (s : State) : s.newFree.2.fresh = s.fresh + 1 := rfl

/-! ## Reading back cores, contexts and halves -/

theorem State.core_setCore (s : State) (k j : Nat) (c : Core) :
    (s.setCore k c).core j = if j = k then c else s.core j := SMap.get_put _ _ _ _ _
@[simp] theorem State.core_setCore_self (s : State) (k : Nat) (c : Core) : (s.setCore k c).core k = c :=
  SMap.get_put_self _ _ _ _
theorem State.core_setCore_ne (s : State) {k j : Nat} (c : Core) (h : j ≠ k) : (s.setCore k c).core j = s.core j :=
  SMap.get_put_ne _ _ _ h

@[simp] theorem State.core_modCore_self (s : State) (k : Nat) (f : Core → Core) : (s.modCore k f).core k = f (s.core k) :=
  SMap.get_put_self _ _ _ _
theorem State.core_modCore_ne (s : State) {k j : Nat} (f : Core → Core) (h : j ≠ k) : (s.modCore k f).core j = s.core j :=
  SMap.get_put_ne _ _ _ h

@[simp] theorem State.ctx_setCtx_self (s : State) (k x : Nat) (c : Ctx) : (s.setCtx k x c).ctx k x = c := by
  unfold State.ctx State.setCtx Core.ctx
  rw [State.core_modCore_self]
  exact SMap.get_put_self _ _ _ _
theorem State.ctx_setCtx_ne (s : State) {k x j y : Nat} (c : Ctx) (h : ¬ (j = k ∧ y = x)) :
    (s.setCtx k x c).ctx j y = s.ctx j y := by
  unfold State.ctx State.setCtx Core.ctx
  by_cases e : j = k
  · subst e
    rw [State.core_modCore_self]
    exact SMap.get_put_ne _ _ _ (by simpa using h)
  · rw [State.core_modCore_ne _ _ e]

@[simp] theorem State.ctx_modCtx_self (s : State) (k x : Nat) (f : Ctx → Ctx) : (s.modCtx k x f).ctx k x = f (s.ctx k x) :=
  State.ctx_setCtx_self _ _ _ _
theorem State.ctx_modCtx_ne (s : State) {k x j y : Nat} (f : Ctx → Ctx) (h : ¬ (j = k ∧ y = x)) :
    (s.modCtx k x f).ctx j y = s.ctx j y := State.ctx_setCtx_ne _ _ h

@[simp] theorem State.me_modMe (s : State) (f : Ctx → Ctx) : (s.modMe f).me = f s.me := State.ctx_modCtx_self _ _ _ _
theorem State.ctx_modMe_ne (s : State) {j y : Nat} (f : Ctx → Ctx) (h : ¬ (j = s.cur.tid.core ∧ y = s.cur.tid.ctx)) :
    (s.modMe f).ctx j y = s.ctx j y := State.ctx_modCtx_ne _ _ h

@[simp] theorem Ctx.half_setHalf_self (c : Ctx) (i : HalfId) (h : Half) : (c.setHalf i h).half i = h := by
  cases i <;> rfl
@[simp] theorem State.half_modHalf_self (s : State) (t : Tid) (f : Half → Half) : (s.modHalf t f).half t = f (s.half t) := by
  simp [State.half, State.modHalf]

/-! ## Bytes -/

theorem State.byte_setByte (s : State) (pa qa : Nat) (b : Byte) :
    (s.setByte pa b).byte qa = if qa = pa then b else s.byte qa := SMap.get_set _ _ _ _ _

@[simp] theorem State.setBytes_bad (s : State) (pa : Nat) (bs : List Byte) : (s.setBytes pa bs).bad = s.bad := by
  induction bs generalizing s pa with
  | nil => rfl
  | cons b bs ih => simp [State.setBytes, ih]

/-- A byte outside a write stays (R3). -/
theorem State.byte_setBytes_out (s : State) (pa qa : Nat) (bs : List Byte) (h : qa < pa ∨ pa + bs.length ≤ qa) :
    (s.setBytes pa bs).byte qa = s.byte qa := by
  induction bs generalizing s pa with
  | nil => rfl
  | cons b bs ih =>
    simp only [State.setBytes, List.length_cons] at h ⊢
    rw [ih _ _ (by omega), State.byte_setByte, if_neg (by omega)]

/-- The bytes of a write read back (R3). -/
theorem State.byte_setBytes_in (s : State) (pa i : Nat) (bs : List Byte) (h : i < bs.length) :
    (s.setBytes pa bs).byte (pa + i) = bs[i] := by
  induction bs generalizing s pa i with
  | nil => simp at h
  | cons b bs ih =>
    simp only [State.setBytes]
    cases i with
    | zero =>
      rw [State.byte_setBytes_out _ _ _ _ (by omega), State.byte_setByte]
      simp
    | succ i =>
      have := ih (s.setByte pa b) (pa + 1) i (by simpa using h)
      rw [show pa + (i + 1) = pa + 1 + i by omega, this]
      rfl

@[simp] theorem State.markBad_mem (s : State) (pa n : Nat) (b : Bool) (k : Nat) : (s.markBad pa n b k).mem = s.mem := by
  induction k generalizing s with
  | zero => rfl
  | succ k ih => simp only [State.markBad]; rw [ih]

/-! ## The canonical form of memory -/

theorem Memory.wf_iff (s : State) : Memory.wf s = true ↔ SMap.wf 0 s.mem = true ∧ SMap.wf false s.bad = true := by
  simp [Memory.wf]

/-- The canonical form is a property of memory and its poison only. -/
theorem Memory.wf_of_eq {s t : State} (hm : t.mem = s.mem) (hb : t.bad = s.bad) (h : Memory.wf s = true) : Memory.wf t = true := by
  rw [Memory.wf_iff, hm, hb]; exact (Memory.wf_iff s).mp h

theorem Memory.wf_setByte (s : State) (pa : Nat) (b : Byte) (h : Memory.wf s = true) : Memory.wf (s.setByte pa b) = true := by
  rw [Memory.wf_iff] at h ⊢
  exact ⟨SMap.wf_set _ _ _ _ h.1, h.2⟩

theorem Memory.wf_setBytes (s : State) (pa : Nat) (bs : List Byte) (h : Memory.wf s = true) :
    Memory.wf (s.setBytes pa bs) = true := by
  induction bs generalizing s pa with
  | nil => exact h
  | cons b bs ih => exact ih _ _ (Memory.wf_setByte s pa b h)

theorem Memory.wf_markBad (s : State) (pa n : Nat) (b : Bool) (k : Nat) (h : Memory.wf s = true) :
    Memory.wf (s.markBad pa n b k) = true := by
  induction k generalizing s with
  | zero => exact h
  | succ k ih =>
    simp only [State.markBad]
    apply ih
    rw [Memory.wf_iff] at h ⊢
    exact ⟨h.1, SMap.wf_set _ _ _ _ h.2⟩

@[simp] theorem State.touch_mem (s : State) (who : Option Tid) (pa n : Nat) (wr : Bool) : (s.touch who pa n wr).mem = s.mem := by
  unfold State.touch; split <;> rfl
@[simp] theorem State.touch_bad (s : State) (who : Option Tid) (pa n : Nat) (wr : Bool) : (s.touch who pa n wr).bad = s.bad := by
  unfold State.touch; split <;> rfl
@[simp] theorem State.look_mem (s : State) (who : Option Tid) (pa n : Nat) : (s.look who pa n).mem = s.mem := State.touch_mem ..
@[simp] theorem State.look_bad (s : State) (who : Option Tid) (pa n : Nat) : (s.look who pa n).bad = s.bad := State.touch_bad ..

/-- Every store keeps the canonical form. -/
theorem Memory.wf_store (s : State) (who : Option Tid) (pa : Nat) (bs : List Byte) (b : Bool) (h : Memory.wf s = true) :
    Memory.wf (s.store who pa bs b) = true := by
  unfold State.store
  exact Memory.wf_markBad _ _ _ _ _ (Memory.wf_setBytes _ _ _ (Memory.wf_of_eq (State.touch_mem ..) (State.touch_bad ..) h))

/-- What a store does to a byte: the bytes stored read back, every other byte stays. -/
theorem State.byte_store_out (s : State) (who : Option Tid) (pa qa : Nat) (bs : List Byte) (b : Bool)
    (h : qa < pa ∨ pa + bs.length ≤ qa) : (s.store who pa bs b).byte qa = s.byte qa := by
  have e : ∀ t : State, t.byte qa = SMap.get 0 t.mem qa := fun _ => rfl
  unfold State.store
  rw [e, State.markBad_mem, ← e, State.byte_setBytes_out _ _ _ _ h, e, State.touch_mem, ← e]
theorem State.byte_store_in (s : State) (who : Option Tid) (pa i : Nat) (bs : List Byte) (b : Bool) (h : i < bs.length) :
    (s.store who pa bs b).byte (pa + i) = bs[i] := by
  have e : ∀ t : State, t.byte (pa + i) = SMap.get 0 t.mem (pa + i) := fun _ => rfl
  unfold State.store
  rw [e, State.markBad_mem, ← e, State.byte_setBytes_in _ _ _ _ h]

end Sys2Proof.Machine
end

