-- ==== Sys2Proof/Laws/Words.lean ====
section
/-! SUPPORT. How a word runs: what its token masks change, what it keeps, and the state it leaves when its body completes. -/

namespace Sys2Proof.Machine
open Sys2Proof

/-! ## Parts that the halves do not hold -/

/-- A change of a half keeps every part of the contexts that no half holds. -/
theorem State.ctx_modHalf_of {α : Type} (P : Ctx → α) (hP : ∀ c i h, P (c.setHalf i h) = P c) (s : State) (t : Tid)
    (f : Half → Half) (k x : Nat) : P ((s.modHalf t f).ctx k x) = P (s.ctx k x) := by
  unfold State.modHalf
  by_cases e : k = t.core ∧ x = t.ctx
  · rw [e.1, e.2, State.ctx_modCtx_self, hP]
  · rw [State.ctx_modCtx_ne _ _ e]

/-- What a mask's pops and pushes leave alone (R176): `P` is a part of the state that no token touches. -/
theorem State.addTokens_of {α : Type} (P : State → α) (hP : ∀ s t f, P (s.modHalf t f) = P s) (s : State) (t : Tid)
    (d : Nat → Nat) (cs : List Nat) : P (s.addTokens t d cs) = P s := by
  unfold State.addTokens
  induction cs generalizing s with
  | nil => rfl
  | cons c cs ih => rw [List.foldl_cons, ih, hP]

theorem State.takeTokens_of {α : Type} (P : State → α) (hP : ∀ s t f, P (s.modHalf t f) = P s)
    (hQ : ∀ s n ts, P { s with nextId := n, toks := ts } = P s) (s : State) (t : Tid) (p q : BitVec 5) :
    P (s.takeTokens t p q) = P s := by
  unfold State.takeTokens
  have hu : P (if p = 0 then s else (s.addTokens t (· - 1) (channels p)).seeSr t) = P s := by
    split
    · rfl
    · exact (hP _ _ _).trans (State.addTokens_of P hP _ _ _ _)
  rw [← hu]
  generalize (if p = 0 then s else (s.addTokens t (· - 1) (channels p)).seeSr t) = u
  simp only
  induction channels q generalizing u with
  | nil => rfl
  | cons c cs ih =>
    rw [List.foldl_cons, ih]
    split
    · exact hQ u _ _
    · rfl

/-- The state in which a word's body runs differs from the state before it in tokens and identifiers only. -/
theorem started_of {α : Type} (P : State → α) (hP : ∀ s t f, P (s.modHalf t f) = P s)
    (hQ : ∀ s n ts, P { s with nextId := n, toks := ts } = P s) (s : State) (p q : BitVec 5) :
    P (started p q s) = P s := by
  unfold started
  split
  · rfl
  · exact State.takeTokens_of P hP hQ s _ p q

@[simp] theorem started_cur (p q : BitVec 5) (s : State) : (started p q s).cur = s.cur :=
  started_of (·.cur) (fun _ _ _ => rfl) (fun _ _ _ => rfl) s p q
@[simp] theorem started_gtc (p q : BitVec 5) (s : State) : (started p q s).gtc = s.gtc :=
  started_of (·.gtc) (fun _ _ _ => rfl) (fun _ _ _ => rfl) s p q
@[simp] theorem started_mem (p q : BitVec 5) (s : State) : (started p q s).mem = s.mem :=
  started_of (·.mem) (fun _ _ _ => rfl) (fun _ _ _ => rfl) s p q
@[simp] theorem started_bad (p q : BitVec 5) (s : State) : (started p q s).bad = s.bad :=
  started_of (·.bad) (fun _ _ _ => rfl) (fun _ _ _ => rfl) s p q
@[simp] theorem started_reqs (p q : BitVec 5) (s : State) : (started p q s).reqs = s.reqs :=
  started_of (·.reqs) (fun _ _ _ => rfl) (fun _ _ _ => rfl) s p q
@[simp] theorem started_dev (p q : BitVec 5) (s : State) : (started p q s).dev = s.dev :=
  started_of (·.dev) (fun _ _ _ => rfl) (fun _ _ _ => rfl) s p q
@[simp] theorem started_delivs (p q : BitVec 5) (s : State) : (started p q s).delivs = s.delivs :=
  started_of (·.delivs) (fun _ _ _ => rfl) (fun _ _ _ => rfl) s p q
@[simp] theorem started_elems (p q : BitVec 5) (s : State) : (started p q s).elems = s.elems :=
  started_of (·.elems) (fun _ _ _ => rfl) (fun _ _ _ => rfl) s p q
@[simp] theorem started_barMsgs (p q : BitVec 5) (s : State) : (started p q s).barMsgs = s.barMsgs :=
  started_of (·.barMsgs) (fun _ _ _ => rfl) (fun _ _ _ => rfl) s p q
@[simp] theorem started_tlb (p q : BitVec 5) (s : State) : (started p q s).tlb = s.tlb :=
  started_of (·.tlb) (fun _ _ _ => rfl) (fun _ _ _ => rfl) s p q
@[simp] theorem started_walk (p q : BitVec 5) (s : State) : (started p q s).walk = s.walk :=
  started_of (·.walk) (fun _ _ _ => rfl) (fun _ _ _ => rfl) s p q
@[simp] theorem started_agenda (p q : BitVec 5) (s : State) : (started p q s).agenda = s.agenda :=
  started_of (·.agenda) (fun _ _ _ => rfl) (fun _ _ _ => rfl) s p q
@[simp] theorem started_fresh (p q : BitVec 5) (s : State) : (started p q s).fresh = s.fresh :=
  started_of (·.fresh) (fun _ _ _ => rfl) (fun _ _ _ => rfl) s p q

/-- The parts of the contexts that no half holds stay. -/
theorem started_ctx_of {α : Type} (P : Ctx → α) (hP : ∀ c i h, P (c.setHalf i h) = P c) (p q : BitVec 5) (s : State)
    (k x : Nat) : P ((started p q s).ctx k x) = P (s.ctx k x) :=
  started_of (fun s => P (s.ctx k x)) (fun s t f => State.ctx_modHalf_of P hP s t f k x) (fun _ _ _ => rfl) s p q
theorem started_me_of {α : Type} (P : Ctx → α) (hP : ∀ c i h, P (c.setHalf i h) = P c) (p q : BitVec 5) (s : State) :
    P (started p q s).me = P s.me := by
  unfold State.me; rw [started_cur]; exact started_ctx_of P hP p q s _ _

@[simp] theorem started_areg (p q : BitVec 5) (s : State) (r : BitVec 5) : (started p q s).me.areg r = s.me.areg r :=
  started_me_of (·.areg r) (fun c i h => by cases i <;> rfl) p q s
@[simp] theorem started_pred (p q : BitVec 5) (s : State) (r : BitVec 3) : (started p q s).me.pred r = s.me.pred r :=
  started_me_of (·.pred r) (fun c i h => by cases i <;> rfl) p q s
@[simp] theorem started_elide (p q : BitVec 5) (s : State) : (started p q s).me.elide = s.me.elide :=
  started_me_of (·.elide) (fun c i h => by cases i <;> rfl) p q s
@[simp] theorem started_apLoops (p q : BitVec 5) (s : State) : (started p q s).me.apLoops = s.me.apLoops :=
  started_me_of (·.apLoops) (fun c i h => by cases i <;> rfl) p q s
@[simp] theorem started_xpLoops (p q : BitVec 5) (s : State) : (started p q s).me.xpLoops = s.me.xpLoops :=
  started_me_of (·.xpLoops) (fun c i h => by cases i <;> rfl) p q s
@[simp] theorem started_xreg (p q : BitVec 5) (s : State) (x : BitVec 4) : (started p q s).me.xreg x = s.me.xreg x :=
  started_me_of (·.xreg x) (fun c i h => by cases i <;> rfl) p q s
@[simp] theorem started_mreg (p q : BitVec 5) (s : State) (x : BitVec 3) : (started p q s).me.mreg x = s.me.mreg x :=
  started_me_of (·.mreg x) (fun c i h => by cases i <;> rfl) p q s
@[simp] theorem started_greg (p q : BitVec 5) (s : State) (x : BitVec 3) : (started p q s).me.greg x = s.me.greg x :=
  started_me_of (·.greg x) (fun c i h => by cases i <;> rfl) p q s
@[simp] theorem started_g (p q : BitVec 5) (s : State) : (started p q s).me.g = s.me.g :=
  started_me_of (·.g) (fun c i h => by cases i <;> rfl) p q s
@[simp] theorem started_tags (p q : BitVec 5) (s : State) : (started p q s).me.tags = s.me.tags :=
  started_me_of (·.tags) (fun c i h => by cases i <;> rfl) p q s
@[simp] theorem started_chans (p q : BitVec 5) (s : State) : (started p q s).me.chans = s.me.chans :=
  started_me_of (·.chans) (fun c i h => by cases i <;> rfl) p q s
@[simp] theorem started_wl (p q : BitVec 5) (s : State) : (started p q s).me.wl = s.me.wl :=
  started_me_of (·.wl) (fun c i h => by cases i <;> rfl) p q s
@[simp] theorem started_bind (p q : BitVec 5) (s : State) : (started p q s).me.bind = s.me.bind :=
  started_me_of (·.bind) (fun c i h => by cases i <;> rfl) p q s
@[simp] theorem started_mx (p q : BitVec 5) (s : State) : (started p q s).me.mx = s.me.mx :=
  started_me_of (·.mx) (fun c i h => by cases i <;> rfl) p q s

theorem State.busyA_eq {s t : State} (hr : t.reqs = s.reqs) (hc : t.cur = s.cur) (r : BitVec 5) : t.busyA r = s.busyA r := by
  unfold State.busyA; rw [hr, hc]
theorem State.busyP_eq {s t : State} (hr : t.reqs = s.reqs) (hc : t.cur = s.cur) (r : BitVec 3) : t.busyP r = s.busyP r := by
  unfold State.busyP; rw [hr, hc]
@[simp] theorem started_busyA (p q : BitVec 5) (s : State) (r : BitVec 5) : (started p q s).busyA r = s.busyA r :=
  State.busyA_eq (by simp) (by simp) r
@[simp] theorem started_busyP (p q : BitVec 5) (s : State) (r : BitVec 3) : (started p q s).busyP r = s.busyP r :=
  State.busyP_eq (by simp) (by simp) r
@[simp] theorem State.modMe_busyA (s : State) (f : Ctx → Ctx) (r : BitVec 5) : (s.modMe f).busyA r = s.busyA r := rfl
@[simp] theorem State.modMe_busyP (s : State) (f : Ctx → Ctx) (r : BitVec 3) : (s.modMe f).busyP r = s.busyP r := rfl

/-! ## A word runs -/

theorem firstSome_none {α β : Type} (f : α → Option β) (as : List α) (h : as.all (fun a => (f a).isNone) = true) :
    firstSome f as = none := by
  induction as with
  | nil => rfl
  | cons a as ih =>
    simp only [List.all_cons, Bool.and_eq_true, Option.isNone_iff_eq_none] at h
    simp [firstSome, h.1, ih h.2]

/-- A word that starts runs its body once its masks have acted. -/
theorem runWordWith_starts (before : Except Stop (Next × State) → Bool) (popm pushm : BitVec 5) (body : Exec Next) (s : State)
    (h : starts popm pushm s = true) :
    runWordWith before popm pushm body s =
      s.finish popm (started popm pushm s).nextId (body (started popm pushm s)) := by
  unfold runWordWith started
  unfold starts tokensReady at h
  split
  · rfl
  · rename_i e
    simp only [e, Bool.false_or, Bool.and_eq_true] at h
    rw [firstSome_none _ _ h.1.1]
    simp [h.1.2, h.2]

theorem runWord_starts (popm pushm : BitVec 5) (body : Exec Next) (s : State) (h : starts popm pushm s = true) :
    runWord popm pushm body s =
      s.finish popm (started popm pushm s).nextId (body (started popm pushm s)) :=
  runWordWith_starts _ popm pushm body s h

/-- An AP word that executes: what its body does is what the word does. -/
theorem apWord_go {h : ApHdr} {forbid : Bool} {body : Exec Next} {s : State} (g : apGo h s = true)
    (hf : forbid = true → s.me.elide = none) :
    apWord h forbid body s = .next (s.finish h.popm (apIn h s).nextId (body (apIn h s))) := by
  simp only [apGo, Bool.and_eq_true, Bool.not_eq_true', bne_iff_ne, ne_eq, Bool.or_eq_true, Option.isNone_iff_eq_none,
    beq_iff_eq] at g
  obtain ⟨⟨⟨⟨g1, g2⟩, g3⟩, g4⟩, g5⟩ := g
  have e1 : (s.me.elide.isSome && h.popm ||| h.pushm != 0) = false := by
    rcases g4 with g4 | g4 <;> simp [g4]
  have e2 : (s.me.elide.isSome && forbid) = false := by
    cases forbid
    · simp
    · simp [hf rfl]
  unfold apWord
  simp only [g1, g2, e1, e2, g3, Bool.false_eq_true, if_false]
  rw [runWord_starts _ _ _ _ g5]
  rfl

/-- An AP word whose body completes. -/
theorem apWord_done {h : ApHdr} {forbid : Bool} {body : Exec Next} {s t : State} {n : Next} (g : apGo h s = true)
    (hf : forbid = true → s.me.elide = none) (hb : body (apIn h s) = .ok (n, t)) :
    apWord h forbid body s = .next (apOut h s t n) := by
  rw [apWord_go g hf, hb]; rfl

/-- An AP word that traps before it issues, and one that must wait. -/
theorem apWord_trap {h : ApHdr} {forbid : Bool} {body : Exec Next} {s : State} {i : TrapInfo} (g : apGo h s = true)
    (hf : forbid = true → s.me.elide = none) (hb : body (apIn h s) = .error (.trap i)) :
    apWord h forbid body s = .next (s.trapWord h.popm s.cur.pc i) := by
  rw [apWord_go g hf, hb]; rfl

theorem apWord_plain {h : ApHdr} {forbid : Bool} {body : Exec Next} {s t : State} {n : Next} (g : apGoPlain h s = true)
    (hb : body (apIn h s) = .ok (n, t)) : apWord h forbid body s = .next (apOut h s t n) := by
  simp only [apGoPlain, Bool.and_eq_true, Option.isNone_iff_eq_none] at g
  exact apWord_done g.1 (fun _ => g.2) hb

/-- An XP word that executes. -/
theorem xpWord_go {h : XpHdr} {body : Exec Next} {s : State} (g : xpGo h s = true) :
    xpWord h body s = .next (s.finish h.popm (xpIn h s).nextId (body (xpIn h s))) := by
  unfold xpWord
  rw [runWordWith_starts _ _ _ _ _ g]; rfl

/-- An XP word whose stops come after its tokens. -/
theorem xpWordLate_go {h : XpHdr} {body : Exec Next} {s : State} (g : xpGo h s = true) :
    xpWordLate h body s = .next (s.finish h.popm (xpIn h s).nextId (body (xpIn h s))) := by
  unfold xpWordLate
  rw [runWord_starts _ _ _ _ g]; rfl

theorem xpWord_done {h : XpHdr} {body : Exec Next} {s t : State} {n : Next} (g : xpGo h s = true)
    (hb : body (xpIn h s) = .ok (n, t)) : xpWord h body s = .next (xpOut h s t n) := by
  rw [xpWord_go g, hb]; rfl

/-! ## Running a body step by step -/

theorem Exec.bind_ok {α β : Type} {x : Exec α} {f : α → Exec β} {s t : State} {a : α} (h : x s = .ok (a, t)) :
    (x >>= f) s = f a t := by
  change Except.bind (x s) _ = _; rw [h]; rfl
theorem Exec.bind_error {α β : Type} {x : Exec α} {f : α → Exec β} {s : State} {e : Stop} (h : x s = .error e) :
    (x >>= f) s = .error e := by
  change Except.bind (x s) _ = _; rw [h]; rfl
theorem Exec.get_bind {β : Type} (f : State → Exec β) (s : State) : (get >>= f) s = f s s := rfl
theorem Exec.set_bind {β : Type} (f : Unit → Exec β) (s t : State) : ((set t : Exec Unit) >>= f) s = f () t := rfl
theorem Exec.modify_bind {β : Type} (g : State → State) (f : Unit → Exec β) (s : State) :
    ((modify g : Exec Unit) >>= f) s = f () (g s) := rfl
theorem Exec.pure_bind {α β : Type} (a : α) (f : α → Exec β) (s : State) : ((pure a : Exec α) >>= f) s = f a s := rfl
theorem Exec.pure_run {α : Type} (a : α) (s : State) : (pure a : Exec α) s = .ok (a, s) := rfl
theorem Exec.stop_run {α : Type} (e : Stop) (s : State) : (stop e : Exec α) s = .error e := rfl

/-! ## Reading and writing AP registers in a body -/

theorem readA_ok {s : State} {r : BitVec 5} (h : s.busyA r = false) : readA r s = .ok (s.me.areg r, s) := by
  simp [readA, bind, StateT.bind, get, getThe, MonadStateOf.get, StateT.get, pure, StateT.pure, Except.pure, Except.bind, h]

theorem needA_ok {s : State} {r : BitVec 5} {n : Nat} (h : canUse s r = true) : needA r n s = .ok (s.me.areg r, s) := by
  simp only [canUse, Bool.and_eq_true, Bool.not_eq_true'] at h
  simp [needA, bind, StateT.bind, readA_ok h.1, Except.bind, h.2, pure, StateT.pure, Except.pure]

theorem needOp2_ok {s : State} {o : Op2} (h : canUse2 s o = true) :
    needOp2 o s = .ok ({ v := op2Val s o, bad := false, taint := op2Taint s o }, s) := by
  cases o with
  | reg r =>
    have h' := h
    simp only [canUse2, canUse, Bool.and_eq_true, Bool.not_eq_true'] at h'
    simp only [needOp2, needA_ok h, op2Val, op2Taint, aVal, aTaint, ← h'.2]
  | imm v => rfl

theorem writeA_ok {s : State} {r : BitVec 5} {v : AReg} (h : s.busyA r = false) :
    writeA r v s = .ok ((), s.modMe (·.setA r v)) := by
  simp [writeA, bind, StateT.bind, get, getThe, MonadStateOf.get, StateT.get, pure, StateT.pure, Except.pure, Except.bind, h,
    set, StateT.set]

theorem readP_ok {s : State} {p : BitVec 3} (h : s.busyP p = false) : readP p s = .ok (s.me.pred p, s) := by
  simp [readP, bind, StateT.bind, get, getThe, MonadStateOf.get, StateT.get, pure, StateT.pure, Except.pure, Except.bind, h]

theorem needP_ok {s : State} {p : BitVec 3} {n : Nat} (h : canTest s p = true) : needP p n s = .ok ((s.me.pred p).v, s) := by
  simp only [canTest, Bool.and_eq_true, Bool.not_eq_true'] at h
  simp [needP, bind, StateT.bind, readP_ok h.1, Except.bind, h.2, pure, StateT.pure, Except.pure]

theorem writeP_ok {s : State} {p : BitVec 3} {v : PReg} (h : s.busyP p = false) :
    writeP p v s = .ok ((), s.modMe (·.setP p v)) := by
  simp [writeP, bind, StateT.bind, get, getThe, MonadStateOf.get, StateT.get, pure, StateT.pure, Except.pure, Except.bind, h,
    set, StateT.set]

@[simp] theorem started_canUse (p q : BitVec 5) (s : State) (r : BitVec 5) : canUse (started p q s) r = canUse s r := by
  simp [canUse]
@[simp] theorem started_canUse2 (p q : BitVec 5) (s : State) (o : Op2) : canUse2 (started p q s) o = canUse2 s o := by
  cases o <;> simp [canUse2]
@[simp] theorem started_canTest (p q : BitVec 5) (s : State) (r : BitVec 3) : canTest (started p q s) r = canTest s r := by
  simp [canTest]
@[simp] theorem started_aVal (p q : BitVec 5) (s : State) (r : BitVec 5) : aVal (started p q s) r = aVal s r := by
  simp [aVal]
@[simp] theorem started_aTaint (p q : BitVec 5) (s : State) (r : BitVec 5) : aTaint (started p q s) r = aTaint s r := by
  simp [aTaint]
@[simp] theorem started_op2Val (p q : BitVec 5) (s : State) (o : Op2) : op2Val (started p q s) o = op2Val s o := by
  cases o <;> simp [op2Val]
@[simp] theorem started_op2Taint (p q : BitVec 5) (s : State) (o : Op2) : op2Taint (started p q s) o = op2Taint s o := by
  cases o <;> simp [op2Taint]

end Sys2Proof.Machine
end

