-- ==== Sys2Proof/Tests/Slice0.lean ====
section
/-! SUPPORT. The model's own tests: ill-formed terms refused, the decoding of every word form, the spec's worked examples, and for each
statement states and operands that meet its hypotheses. -/

set_option Elab.async false

namespace Sys2Proof.Tests
open Sys2Proof Sys2Proof.Machine

/-! ## Small states -/

/-- A context's bind: tenant 3, 32 main vectors, four streams, XP entry 80h. -/
def user : Bind := { tenant := 3, released := true, nmain := 32, scount := 4, xentry := 0x80 }
/-- Core 0 of tenant 3; page 1 of its addresses is an RC page of write-back DRAM at 4000h, page 2 one of die 1. -/
def oneCore (c : Core) : State :=
  { cores := [(0, c)], dev := { cparts := [(0, { valid := true, ten := 3 })] },
    tlb := [⟨0, 3, 0, 1, 0x407F⟩, ⟨0, 3, 0, 2, 0x400000407F⟩, ⟨0, 3, 0, 3, 0x4043⟩] }
/-- The AP of context 0 at 40h, the XP idle. -/
def apState (c : Ctx := {}) : State :=
  { oneCore { ctxs := [(0, { c with bind := some user, ap := { c.ap with active := true, pc := 0x40 } })] } with
    cur := { tid := ⟨0, 0, .ap⟩, pc := 0x40, pcn := 0x44 } }
/-- The XP of context 0 at 80h. -/
def xpState (c : Ctx := {}) (k : Core := {}) : State :=
  { oneCore { k with ctxs := [(0, { c with bind := some user, xp := { c.xp with active := true, pc := 0x80 } })] } with
    cur := { tid := ⟨0, 0, .xp⟩, pc := 0x80, pcn := 0x84 } }
/-- Context 4 of core 0, the system context. -/
def sysState (c : Ctx := {}) (k : Core := {}) : State :=
  { oneCore { k with ctxs := k.ctxs ++ [(4, { c with ap := { c.ap with active := true, pc := 0x40 } })] } with
    cur := { tid := ⟨0, 4, .ap⟩, pc := 0x40, pcn := 0x44 } }
/-- a3 = 2000h, in page 1; a4 = 17; a5 = 2004h; a6 = 1FFFF8h; a7 = 4000h, in page 2; a8 = 6000h, in page 3. -/
def regs : Ctx :=
  { a := [(3, { v := 0x2000 }), (4, { v := 17 }), (5, { v := 0x2004 }), (6, { v := 0x1FFFF8 }), (7, { v := 0x4000 }), (8, { v := 0x6000 })] }
def s0 : State := apState regs

/-- The part that an access of the current word translates to, and the state that its translation leaves. -/
def lands (s : State) (va n : Nat) (acc : AccessKind) : Part × State :=
  match s.xlat (s.rq s.cur.tid.core s.cur.tid.ctx 0) va n n acc with
  | (.ok p, t) => (p, t)
  | (.error _, t) => ({ pa := 0, ord := .so, mt := 0 }, t)
theorem reaches_lands (s : State) (va n : Nat) (acc : AccessKind) (ha : va % n = 0)
    (h : (match s.xlat (s.rq s.cur.tid.core s.cur.tid.ctx 0) va n n acc with | (.ok _, _) => true | _ => false) = true)
    (hl : (lands s va n acc).2.linkCut s.cur.tid.core (lands s va n acc).1.pa = none) :
    reaches s va n acc (lands s va n acc).1 (lands s va n acc).2 := by
  refine ⟨ha, ?_, hl⟩
  unfold lands
  split at h <;> simp_all

/-- Main vector n. -/
def v (n : Nat) : Opnd := { idx := BitVec.ofNat 8 n }

/-! ## Well-formedness: one ill-formed term for each check -/

/-- R191: AP fields: a field past bit 63, access types that an atomic does not take, an offset of CPYI, a scope of JPOST, a template. -/
theorem test_wf_ap :
    (Instr.exts {} 1 2 33 31).wf = false ∧ (Instr.extn {} 1 2 63 1).wf = false ∧ (Instr.ins {} 1 (.reg 2) 1 63).wf = false ∧
    (Instr.aswap {} 1 2 3 0 .n16).wf = false ∧ (Instr.acas {} 1 2 3 0 .i8 1).wf = false ∧ (Instr.aadd {} 1 2 3 0 .n8).wf = false ∧
    (Instr.aand {} 1 2 3 0 .i16).wf = false ∧ (Instr.aor {} 1 2 3 0 .i16).wf = false ∧ (Instr.axor {} 1 2 3 0 .i16).wf = false ∧
    (Instr.amin {} 1 2 3 0 .n32).wf = false ∧ (Instr.amax {} 1 2 3 0 .n32).wf = false ∧ (Instr.aminn {} 1 2 3 0 .i32).wf = false ∧
    (Instr.amaxn {} 1 2 3 0 .i32).wf = false ∧ (Instr.cpyi {} 1 2 3 0x200000).wf = false ∧ (Instr.jpost {} 1 2 3 0 .die).wf = false ∧
    (Instr.templateStoreLiteral 62 0).wf = false := by decide

/-- R167: an index past its level, a rotate bit beside the main file, a trap bit of a destination that is no port. -/
theorem test_wf_operand :
    (Instr.vmov {} (v 1) { lvl := .file, idx := 8 }).wf = false ∧ (Instr.vmov {} (v 1) { lvl := .latch, idx := 2 }).wf = false ∧
    (Instr.vmov {} (v 1) { lvl := .port, idx := 16 }).wf = false ∧ (Instr.vmov {} (v 1) { rot := true, lvl := .port, idx := 1 }).wf = false ∧
    (Instr.vmov {} { trap := true, idx := 1 } (v 1)).wf = false ∧ (Instr.vmov {} { trap := true, lvl := .port, idx := 1 } (v 1)).wf = true := by
  decide

/-- Table 10-3, R254 to R256, R259 to R260: the types and parts of the vector forms. -/
theorem test_wf_type :
    (Instr.vadd {} (v 1) (v 2) (v 3) .i4).wf = false ∧ (Instr.vmulh {} (v 1) (v 2) (v 3) .n8).wf = false ∧
    (Instr.vmulhn {} (v 1) (v 2) (v 3) .i8).wf = false ∧ (Instr.vadds {} (v 1) (v 2) (v 3) .n8).wf = false ∧
    (Instr.vminn {} (v 1) (v 2) (v 3) .i8).wf = false ∧ (Instr.vred {} 1 (v 2) .f32).wf = false ∧ (Instr.vscan {} (v 1) (v 2) 3 .i16 false).wf = false ∧
    (Instr.vcvt {} (v 1) (v 2) .f32 .f32 0).wf = false ∧ (Instr.vcvt {} (v 1) (v 2) .i8 .i16 0).wf = false ∧
    (Instr.vcvtzr {} (v 1) (v 2) .i32 .i16 0).wf = false ∧ (Instr.vcvt {} (v 1) (v 2) .f16 .f32 2).wf = false ∧
    (Instr.vnars {} (v 1) (v 2) .i16 .i16 0).wf = false ∧ (Instr.vnarw {} (v 1) (v 2) .f16 .i32 0).wf = false ∧
    (Instr.vldIndexed {} { idx := 1 } 2 (v 3) .f16 0).wf = false ∧ (Instr.vstIndexed {} 2 (v 3) (v 4) .bf16 0).wf = false := by decide

/-- LMASK where it shall be zero, XLOOP's ranges, and the fields of the matrix forms (R267, R293, R297, R298, R302, R303). -/
theorem test_wf_matrix :
    (Instr.mand { lmask := 1 } 1 2 3).wf = false ∧ (Instr.xadd { lmask := 1 } 1 2 (.reg 3)).wf = false ∧ (Instr.xloop {} 1 9 8).wf = false ∧
    (Instr.xloopImmediate {} 9 1 8).wf = false ∧ (Instr.mwid {} .f32).wf = false ∧ (Instr.mwones {} .i16).wf = false ∧
    (Instr.mwperm {} (v 1) .i32).wf = false ∧ (Instr.mwsel {} 1 .n16).wf = false ∧ (Instr.mmul {} (v 1) .f32 0).wf = false ∧
    (Instr.mmulz {} { lvl := .port, idx := 1 } .e4m3 0).wf = false ∧ (Instr.mmulm {} (v 1) .n32 0 0 0 0 false).wf = false ∧
    (Instr.macclr {} 63 1).wf = false ∧ (Instr.mscoutScore {} { lvl := .port, idx := 1 } (v 1) 15 0 0 0 false).wf = false ∧
    (Instr.mscoutScore {} (v 1) (v 2) 16 0 0 0 false).wf = false ∧ (Instr.mscoutQuery { lmask := 1 } (v 1) 0).wf = false := by decide

/-! ## Decoding: every word form, its word written out from the encoding tables -/

/-- Each word decodes, on this half, to the instruction beside it. -/
def reads (d : HalfId) : List (Nat × Instr) → Prop
  | [] => True
  | p :: l => decodeOp d p.1 = .ok p.2 ∧ reads d l

/-- What R191 refuses: an unassigned opcode, a reserved field, a field that the form does not use, a value that it does not assign, a
scope of 7, an operand out of its class. -/
theorem test_decode_refuses :
    decodeOp .ap 0 = .error .illegalOperation ∧ decodeOp .ap (0x0F * 2 ^ 120) = .error .illegalOperation ∧
    decodeOp .ap (0x01 * 2 ^ 120 + 2 ^ 112) = .error .illegalOperation ∧ decodeOp .ap (0x01 * 2 ^ 120 + 2 ^ 107) = .error .illegalOperation ∧
    decodeOp .ap (0x02 * 2 ^ 120 + 2 ^ 97 + 2 ^ 96) = .error .illegalOperation ∧ decodeOp .ap (0x40 * 2 ^ 120 + 1 * 2 ^ 50) = .error .illegalOperation ∧
    decodeOp .ap (0xC0 * 2 ^ 120 + 7 * 2 ^ 43) = .error .illegalOperation ∧ decodeOp .xp (0xF9 * 2 ^ 120 + 2 ^ 64) = .error .illegalOperation ∧
    decodeOp .xp (0xBB * 2 ^ 120 + 8 * 2 ^ 92) = .error .illegalOperation := ⟨rfl, rfl, rfl, rfl, rfl, rfl, rfl, rfl, rfl⟩

theorem test_decode_ap_0 :
    let h : ApHdr := { psense := true, pred := 5, popm := 0x12, pushm := 0x09 }
    reads .ap [
    (0x01D00000000000009240000000000000, .nop h),
    (0x02D028E2000000009240000000000000, .add h 5 3 (.reg 17)),
    (0x03D028C1FEDCBA989240000000000000, .sub h 5 3 (.imm 0xFEDCBA98)),
    (0x04D028E2000000009240000000000000, .mul h 5 3 (.reg 17)),
    (0x05D028C1FEDCBA989240000000000000, .mulh h 5 3 (.imm 0xFEDCBA98)),
    (0x06D028E2000000009240000000000000, .mulhn h 5 3 (.reg 17)),
    (0x07D028C1FEDCBA989240000000000000, .div h 5 3 (.imm 0xFEDCBA98)),
    (0x08D028E2000000009240000000000000, .divn h 5 3 (.reg 17)),
    (0x09D028C1FEDCBA989240000000000000, .rem h 5 3 (.imm 0xFEDCBA98)),
    (0x0AD028E2000000009240000000000000, .remn h 5 3 (.reg 17)),
    (0x0BD028C1FEDCBA989240000000000000, .adds h 5 3 (.imm 0xFEDCBA98)),
    (0x0CD028E2000000009240000000000000, .subs h 5 3 (.reg 17)),
    (0x0DD028C1FEDCBA989240000000000000, .addsn h 5 3 (.imm 0xFEDCBA98)),
    (0x0ED028E2000000009240000000000000, .subsn h 5 3 (.reg 17)),
    (0x10D028C1FEDCBA989240000000000000, .and h 5 3 (.imm 0xFEDCBA98)),
    (0x11D028E2000000009240000000000000, .or h 5 3 (.reg 17)),
    (0x12D028C1FEDCBA989240000000000000, .xor h 5 3 (.imm 0xFEDCBA98)),
    (0x13D028E2000000009240000000000000, .andn h 5 3 (.reg 17)),
    (0x14D028C1FEDCBA989240000000000000, .orn h 5 3 (.imm 0xFEDCBA98)),
    (0x18D028E2000000009240000000000000, .shl h 5 3 (.reg 17))] :=
  ⟨rfl, rfl, rfl, rfl, rfl, rfl, rfl, rfl, rfl, rfl, rfl, rfl, rfl, rfl, rfl, rfl, rfl, rfl, rfl, rfl, trivial⟩

theorem test_decode_ap_1 :
    let h : ApHdr := { psense := true, pred := 5, popm := 0x12, pushm := 0x09 }
    reads .ap [
    (0x19D028C1FEDCBA989240000000000000, .shr h 5 3 (.imm 0xFEDCBA98)),
    (0x1AD028E2000000009240000000000000, .sar h 5 3 (.reg 17)),
    (0x1BD028C1FEDCBA989240000000000000, .rol h 5 3 (.imm 0xFEDCBA98)),
    (0x1CD028E2000000009240000000000000, .ror h 5 3 (.reg 17)),
    (0x20D028C1FEDCBA989240000000000000, .min h 5 3 (.imm 0xFEDCBA98)),
    (0x21D028E2000000009240000000000000, .max h 5 3 (.reg 17)),
    (0x22D028C1FEDCBA989240000000000000, .minn h 5 3 (.imm 0xFEDCBA98)),
    (0x23D028E2000000009240000000000000, .maxn h 5 3 (.reg 17)),
    (0x24D028C0000000009240000000000000, .abs h 5 3),
    (0x28D028C0000000009240000000000000, .clz h 5 3),
    (0x29D028C0000000009240000000000000, .ctz h 5 3),
    (0x2AD028C0000000009240000000000000, .popc h 5 3),
    (0x2BD028C0000000009240000000000000, .bswap h 5 3),
    (0x30D028C000000000924000035E000000, .exts h 5 3 13 30),
    (0x31D028C000000000924000035E000000, .extn h 5 3 13 30),
    (0x32D0282200000000924000035E000000, .ins h 5 (.reg 17) 13 30),
    (0x34D0280189ABCDEF9240000000000000, .movi h 5 0x89ABCDEF),
    (0x35D0280189ABCDEF9240000000000000, .movhi h 5 0x89ABCDEF),
    (0x38D028C1FEDCBA98924000A000000000, .sel h 5 3 (.imm 0xFEDCBA98) 5),
    (0x70D000E2000000009240040100000000, .pcmp h 3 (.reg 17) 4 .lt)] :=
  ⟨rfl, rfl, rfl, rfl, rfl, rfl, rfl, rfl, rfl, rfl, rfl, rfl, rfl, rfl, rfl, rfl, rfl, rfl, rfl, rfl, trivial⟩

theorem test_decode_ap_2 :
    let h : ApHdr := { psense := true, pred := 5, popm := 0x12, pushm := 0x09 }
    reads .ap [
    (0x71D000C1FEDCBA989240040280000000, .pcmpn h 3 (.imm 0xFEDCBA98) 4 .ge),
    (0x72D0000000000000924004B800000000, .pand h 4 5 6),
    (0x73D0000000000000924004B800000000, .por h 4 5 6),
    (0x74D0000000000000924004B800000000, .pxor h 4 5 6),
    (0x75D0000000000000924004A000000000, .pnot h 4 5),
    (0x76D000C0000000009240040000000000, .pset h 3 4),
    (0x77D000C1FEDCBA989240040000000000, .ptst h 3 (.imm 0xFEDCBA98) 4),
    (0x60D00000FFFFFFF89240000000000000, .br h 0xFFFFFFF8),
    (0x61D000C0FFFFFFF89240000000000000, .jmpr h 3 0xFFFFFFF8),
    (0x62D02800FFFFFFF89240000000000000, .call h 5 0xFFFFFFF8),
    (0x63D000C0000000009240000000000000, .ret h 3),
    (0x64D000C0FFFFFFF89240000000000000, .loop h 3 0xFFFFFFF8),
    (0x64D00000FFFFFFF8924000000001BEEF, .loopImmediate h 0xFFFFFFF8 0xBEEF),
    (0x65D00000000000009240000000000000, .lbrk h),
    (0x40D028C0FFFFFFF89268000000000000, .ld h 5 3 0xFFFFFFF8 .i16),
    (0x41D000E2FFFFFFF89258000000000000, .st h 3 17 0xFFFFFFF8 .i8),
    (0x42D028C0FFFFFFF8926C000000000000, .ldc h 5 3 0xFFFFFFF8 .n16),
    (0x43D028C0FFFFFFF89270100000000000, .ldacq h 5 3 0xFFFFFFF8 .i32 .cluster),
    (0x44D000E2FFFFFFF8925C180000000000, .strel h 3 17 0xFFFFFFF8 .n8 .stack),
    (0x45D028C0FFFFFFF89268000000000000, .lds h 5 3 0xFFFFFFF8 .i16)] :=
  ⟨rfl, rfl, rfl, rfl, rfl, rfl, rfl, rfl, rfl, rfl, rfl, rfl, rfl, rfl, rfl, rfl, rfl, rfl, rfl, rfl, trivial⟩

theorem test_decode_ap_3 :
    let h : ApHdr := { psense := true, pred := 5, popm := 0x12, pushm := 0x09 }
    reads .ap [
    (0x46D000E2FFFFFFF89258000000000000, .sts h 3 17 0xFFFFFFF8 .i8),
    (0x48D028E2FFFFFFF89240000000000000, .aswap h 5 3 17 0xFFFFFFF8 .q8),
    (0x49D028E2FFFFFFF89270040000000000, .acas h 5 3 17 0xFFFFFFF8 .i32 4),
    (0x4AD028E2FFFFFFF89240000000000000, .aadd h 5 3 17 0xFFFFFFF8 .q8),
    (0x4BD028E2FFFFFFF89240000000000000, .aand h 5 3 17 0xFFFFFFF8 .q8),
    (0x4CD028E2FFFFFFF89240000000000000, .aor h 5 3 17 0xFFFFFFF8 .q8),
    (0x4DD028E2FFFFFFF89240000000000000, .axor h 5 3 17 0xFFFFFFF8 .q8),
    (0x4ED028E2FFFFFFF89270000000000000, .amin h 5 3 17 0xFFFFFFF8 .i32),
    (0x4FD028E2FFFFFFF89270000000000000, .amax h 5 3 17 0xFFFFFFF8 .i32),
    (0x50D028E2FFFFFFF89274000000000000, .aminn h 5 3 17 0xFFFFFFF8 .n32),
    (0x51D028E2FFFFFFF89274000000000000, .amaxn h 5 3 17 0xFFFFFFF8 .n32),
    (0x52D028E2FFFFFFF89240040000000000, .aminp h 5 3 17 0xFFFFFFF8 4),
    (0xC0D00000000000009240100000000000, .fenceAcq h .cluster),
    (0xC1D00000000000009240180000000000, .fenceRel h .stack),
    (0xC2D00000000000009240280000000000, .fenceSc h .device),
    (0xC4D028C0FFFFFFF892400000FFFFFF40, .slb h 5 3 0xFFFFFFF8 0xFFFFFF40),
    (0xC5D00000000000009240000000000000, .slc h),
    (0xC6D000000000000092400000000000A5, .slx h 0xA5),
    (0xC8D00000000000009240000000000000, .ifence h),
    (0x80D0002200000000924005E000000000, .scfg h (.reg 17) 11 6)] :=
  ⟨rfl, rfl, rfl, rfl, rfl, rfl, rfl, rfl, rfl, rfl, rfl, rfl, rfl, rfl, rfl, rfl, rfl, rfl, rfl, rfl, trivial⟩

theorem test_decode_ap_4 :
    let h : ApHdr := { psense := true, pred := 5, popm := 0x12, pushm := 0x09 }
    reads .ap [
    (0x81D00000000000009240058000000000, .sgo h 11),
    (0x82D00000000000009240058000000000, .srewStart h 11),
    (0x82D00000000000009240058800000000, .srewMark h 11),
    (0x83D00000000000009240058000000000, .smark h 11),
    (0x84D000C0000000009240058480000000, .sfork h 3 11 9),
    (0x85D00000000000009240058000000000, .send h 11),
    (0x86D000C0FFFFFFF89240058000000000, .ssave h 3 0xFFFFFFF8 11),
    (0x87D000C0FFFFFFF89240058000000000, .ssaveb h 3 0xFFFFFFF8 11),
    (0x88D000C0FFFFFFF89240058000000000, .srstr h 3 0xFFFFFFF8 11),
    (0x89D02800000000009240058000000000, .sqry h 5 11),
    (0x8AD0000000000000924005DA40000000, .smask h 11 5 41),
    (0x8BD02800000000009240005000000000, .grd h 5 5),
    (0xA0D028C0FFFFFFF89240000000000000, .cpy h 5 3 0xFFFFFFF8),
    (0xA1D028E2001ABCDE9240000000000000, .cpyi h 5 3 17 0x1ABCDE),
    (0xA2D02800000000009240070000000000, .wmrd h 5 true 3),
    (0xA3D02800000000009240030000000000, .cpq h 5 3),
    (0xA4D02801FEDCBA989240040000000000, .twait h 5 (.imm 0xFEDCBA98) true),
    (0xA5D02822000000009240040000000000, .tffr h 5 (.reg 17) true),
    (0xA8D028E2FFFFFFF89240060000000000, .wait h 5 3 17 0xFFFFFFF8 true 2),
    (0xAAD000E2000000009240000000000000, .binit h 3 (.reg 17))] :=
  ⟨rfl, rfl, rfl, rfl, rfl, rfl, rfl, rfl, rfl, rfl, rfl, rfl, rfl, rfl, rfl, rfl, rfl, rfl, rfl, rfl, trivial⟩

theorem test_decode_ap_5 :
    let h : ApHdr := { psense := true, pred := 5, popm := 0x12, pushm := 0x09 }
    reads .ap [
    (0xABD028C0000000009240180000000000, .barr h 5 3 .stack),
    (0xACD000E2000000009240280000000000, .barrx h 3 17 .device),
    (0xADD000C1FEDCBA989240100000000000, .bwait h 3 (.imm 0xFEDCBA98) .cluster),
    (0xB0D000E2000000009240000000000000, .wlcfg h 3 17),
    (0xB1D00001FEDCBA989240000000000000, .wlpush h (.imm 0xFEDCBA98)),
    (0xB2D00022000000009240040000000000, .wlins h (.reg 17) 4),
    (0xB3D00000000000009240000000000000, .wlclr h),
    (0xB4D02800000000009240000000000000, .wlcnt h 5),
    (0xB8D000C0000000009240030000000000, .chlink h 3 3),
    (0xB9D000000000000092401B0000000000, .chkick h .stack 3),
    (0xBAD02800000000009240030000000000, .chq h 5 3),
    (0xBBD028E2FFFFFFF89240300000000000, .jpost h 5 3 17 0xFFFFFFF8 .system),
    (0xE0D000C0FFFFFFF89240000000000000, .fork h 3 0xFFFFFFF8),
    (0xE0D00000000000009240040000000000, .forkEntry h),
    (0xE1D00000000000009240000000000000, .rdv h),
    (0xE2D00000000000009240000000000000, .yield h),
    (0xE3D0000000000000924000000000C0DE, .trap h 0xC0DE),
    (0xE4D00000000000009240020000000000, .eret h 2),
    (0xE5D02800000000009240003200000000, .rdsr h 5 50),
    (0xE6D000C0000000009240003200000000, .wrsr h 3 50)] :=
  ⟨rfl, rfl, rfl, rfl, rfl, rfl, rfl, rfl, rfl, rfl, rfl, rfl, rfl, rfl, rfl, rfl, rfl, rfl, rfl, rfl, trivial⟩

theorem test_decode_ap_6 :
    let h : ApHdr := { psense := true, pred := 5, popm := 0x12, pushm := 0x09 }
    reads .ap [
    (0xE7D02800000000009240000000000000, .gtcrd h 5),
    (0xE8D00000000000009240000000000000, .apDone h)] :=
  ⟨rfl, rfl, trivial⟩

theorem test_decode_xp_0 :
    let y : XpHdr := { lmask := 6, popm := 0x12, pushm := 0x09 }
    reads .xp [
    (0x0161077038040000926C000000000000, .vadd y { lvl := .file, idx := 7 } { trap := true, lvl := .port, idx := 3 } { rot := true, idx := 4 } .n16),
    (0x02610770380400009268000000000000, .vsub y { lvl := .file, idx := 7 } { trap := true, lvl := .port, idx := 3 } { rot := true, idx := 4 } .i16),
    (0x0361077038040000925C000000000000, .vmul y { lvl := .file, idx := 7 } { trap := true, lvl := .port, idx := 3 } { rot := true, idx := 4 } .n8),
    (0x04610770380400009268000000000000, .vmulh y { lvl := .file, idx := 7 } { trap := true, lvl := .port, idx := 3 } { rot := true, idx := 4 } .i16),
    (0x0561077038040000925C000000000000, .vmulhn y { lvl := .file, idx := 7 } { trap := true, lvl := .port, idx := 3 } { rot := true, idx := 4 } .n8),
    (0x06610770380400009268000000000000, .vadds y { lvl := .file, idx := 7 } { trap := true, lvl := .port, idx := 3 } { rot := true, idx := 4 } .i16),
    (0x07610770380400009268000000000000, .vsubs y { lvl := .file, idx := 7 } { trap := true, lvl := .port, idx := 3 } { rot := true, idx := 4 } .i16),
    (0x0861077038040000925C000000000000, .vaddsn y { lvl := .file, idx := 7 } { trap := true, lvl := .port, idx := 3 } { rot := true, idx := 4 } .n8),
    (0x0961077038040000925C000000000000, .vsubsn y { lvl := .file, idx := 7 } { trap := true, lvl := .port, idx := 3 } { rot := true, idx := 4 } .n8),
    (0x0A610770380420109268000000000000, .vmad y { lvl := .file, idx := 7 } { trap := true, lvl := .port, idx := 3 } { rot := true, idx := 4 } { lvl := .latch, idx := 1 } .i16),
    (0x0C610770300000009268000000000000, .vabs y { lvl := .file, idx := 7 } { trap := true, lvl := .port, idx := 3 } .i16),
    (0x10610770380400009270000000000000, .vand y { lvl := .file, idx := 7 } { trap := true, lvl := .port, idx := 3 } { rot := true, idx := 4 } .i32),
    (0x1161077038040000926C000000000000, .vor y { lvl := .file, idx := 7 } { trap := true, lvl := .port, idx := 3 } { rot := true, idx := 4 } .n16),
    (0x12610770380400009268000000000000, .vxor y { lvl := .file, idx := 7 } { trap := true, lvl := .port, idx := 3 } { rot := true, idx := 4 } .i16),
    (0x1361077038040000925C000000000000, .vandn y { lvl := .file, idx := 7 } { trap := true, lvl := .port, idx := 3 } { rot := true, idx := 4 } .n8),
    (0x14610770380400009270000000000000, .vshl y { lvl := .file, idx := 7 } { trap := true, lvl := .port, idx := 3 } { rot := true, idx := 4 } .i32),
    (0x1561077038040000926C000000000000, .vshr y { lvl := .file, idx := 7 } { trap := true, lvl := .port, idx := 3 } { rot := true, idx := 4 } .n16),
    (0x16610770380400009268000000000000, .vsar y { lvl := .file, idx := 7 } { trap := true, lvl := .port, idx := 3 } { rot := true, idx := 4 } .i16),
    (0x1861077030000000925C000000000000, .vclz y { lvl := .file, idx := 7 } { trap := true, lvl := .port, idx := 3 } .n8),
    (0x19610770300000009270000000000000, .vpopc y { lvl := .file, idx := 7 } { trap := true, lvl := .port, idx := 3 } .i32)] :=
  ⟨rfl, rfl, rfl, rfl, rfl, rfl, rfl, rfl, rfl, rfl, rfl, rfl, rfl, rfl, rfl, rfl, rfl, rfl, rfl, rfl, trivial⟩

theorem test_decode_xp_1 :
    let y : XpHdr := { lmask := 6, popm := 0x12, pushm := 0x09 }
    reads .xp [
    (0x20610770380400009268000000000000, .vmin y { lvl := .file, idx := 7 } { trap := true, lvl := .port, idx := 3 } { rot := true, idx := 4 } .i16),
    (0x21610770380400009268000000000000, .vmax y { lvl := .file, idx := 7 } { trap := true, lvl := .port, idx := 3 } { rot := true, idx := 4 } .i16),
    (0x2261077038040000925C000000000000, .vminn y { lvl := .file, idx := 7 } { trap := true, lvl := .port, idx := 3 } { rot := true, idx := 4 } .n8),
    (0x2361077038040000925C000000000000, .vmaxn y { lvl := .file, idx := 7 } { trap := true, lvl := .port, idx := 3 } { rot := true, idx := 4 } .n8),
    (0x24600670380400009270020000000000, .vcmp y 6 { trap := true, lvl := .port, idx := 3 } { rot := true, idx := 4 } .lt),
    (0x25600670380400009274050000000000, .vcmpn y 6 { trap := true, lvl := .port, idx := 3 } { rot := true, idx := 4 } .ge),
    (0x26610770380400709240000000000000, .vsel y { lvl := .file, idx := 7 } { trap := true, lvl := .port, idx := 3 } { rot := true, idx := 4 } 7),
    (0x28610770380420109240000000000000, .vdot4 y { lvl := .file, idx := 7 } { trap := true, lvl := .port, idx := 3 } { rot := true, idx := 4 } { lvl := .latch, idx := 1 }),
    (0x29610770380420109240000000000000, .vdot4n y { lvl := .file, idx := 7 } { trap := true, lvl := .port, idx := 3 } { rot := true, idx := 4 } { lvl := .latch, idx := 1 }),
    (0x2A610770380420109240000000000000, .vdot4s y { lvl := .file, idx := 7 } { trap := true, lvl := .port, idx := 3 } { rot := true, idx := 4 } { lvl := .latch, idx := 1 }),
    (0x2B610770380420109240000000000000, .vdot4sn y { lvl := .file, idx := 7 } { trap := true, lvl := .port, idx := 3 } { rot := true, idx := 4 } { lvl := .latch, idx := 1 }),
    (0x40610770380400009240000000000000, .vfadd y { lvl := .file, idx := 7 } { trap := true, lvl := .port, idx := 3 } { rot := true, idx := 4 }),
    (0x41610770380400009240000000000000, .vfaddzr y { lvl := .file, idx := 7 } { trap := true, lvl := .port, idx := 3 } { rot := true, idx := 4 }),
    (0x42610770380400009240000000000000, .vfaddfl y { lvl := .file, idx := 7 } { trap := true, lvl := .port, idx := 3 } { rot := true, idx := 4 }),
    (0x43610770380400009240000000000000, .vfaddcl y { lvl := .file, idx := 7 } { trap := true, lvl := .port, idx := 3 } { rot := true, idx := 4 }),
    (0x44610770380400009240000000000000, .vfsub y { lvl := .file, idx := 7 } { trap := true, lvl := .port, idx := 3 } { rot := true, idx := 4 }),
    (0x45610770380400009240000000000000, .vfsubzr y { lvl := .file, idx := 7 } { trap := true, lvl := .port, idx := 3 } { rot := true, idx := 4 }),
    (0x46610770380400009240000000000000, .vfsubfl y { lvl := .file, idx := 7 } { trap := true, lvl := .port, idx := 3 } { rot := true, idx := 4 }),
    (0x47610770380400009240000000000000, .vfsubcl y { lvl := .file, idx := 7 } { trap := true, lvl := .port, idx := 3 } { rot := true, idx := 4 }),
    (0x48610770380400009240000000000000, .vfmul y { lvl := .file, idx := 7 } { trap := true, lvl := .port, idx := 3 } { rot := true, idx := 4 })] :=
  ⟨rfl, rfl, rfl, rfl, rfl, rfl, rfl, rfl, rfl, rfl, rfl, rfl, rfl, rfl, rfl, rfl, rfl, rfl, rfl, rfl, trivial⟩

theorem test_decode_xp_2 :
    let y : XpHdr := { lmask := 6, popm := 0x12, pushm := 0x09 }
    reads .xp [
    (0x49610770380400009240000000000000, .vfmulzr y { lvl := .file, idx := 7 } { trap := true, lvl := .port, idx := 3 } { rot := true, idx := 4 }),
    (0x4A610770380400009240000000000000, .vfmulfl y { lvl := .file, idx := 7 } { trap := true, lvl := .port, idx := 3 } { rot := true, idx := 4 }),
    (0x4B610770380400009240000000000000, .vfmulcl y { lvl := .file, idx := 7 } { trap := true, lvl := .port, idx := 3 } { rot := true, idx := 4 }),
    (0x4C610770380420109240000000000000, .vfma y { lvl := .file, idx := 7 } { trap := true, lvl := .port, idx := 3 } { rot := true, idx := 4 } { lvl := .latch, idx := 1 }),
    (0x4D610770380420109240000000000000, .vfmazr y { lvl := .file, idx := 7 } { trap := true, lvl := .port, idx := 3 } { rot := true, idx := 4 } { lvl := .latch, idx := 1 }),
    (0x4E610770380420109240000000000000, .vfmafl y { lvl := .file, idx := 7 } { trap := true, lvl := .port, idx := 3 } { rot := true, idx := 4 } { lvl := .latch, idx := 1 }),
    (0x4F610770380420109240000000000000, .vfmacl y { lvl := .file, idx := 7 } { trap := true, lvl := .port, idx := 3 } { rot := true, idx := 4 } { lvl := .latch, idx := 1 }),
    (0x50610770380400009240000000000000, .vfdiv y { lvl := .file, idx := 7 } { trap := true, lvl := .port, idx := 3 } { rot := true, idx := 4 }),
    (0x51610770380400009240000000000000, .vfdivzr y { lvl := .file, idx := 7 } { trap := true, lvl := .port, idx := 3 } { rot := true, idx := 4 }),
    (0x52610770300000009240000000000000, .vfsqrt y { lvl := .file, idx := 7 } { trap := true, lvl := .port, idx := 3 }),
    (0x54610770380400009240000000000000, .vfmin y { lvl := .file, idx := 7 } { trap := true, lvl := .port, idx := 3 } { rot := true, idx := 4 }),
    (0x55610770380400009240000000000000, .vfmax y { lvl := .file, idx := 7 } { trap := true, lvl := .port, idx := 3 } { rot := true, idx := 4 }),
    (0x56610770300000009240000000000000, .vfabs y { lvl := .file, idx := 7 } { trap := true, lvl := .port, idx := 3 }),
    (0x57610770300000009240000000000000, .vfneg y { lvl := .file, idx := 7 } { trap := true, lvl := .port, idx := 3 }),
    (0x58600670380400009240020000000000, .vfcmp y 6 { trap := true, lvl := .port, idx := 3 } { rot := true, idx := 4 } .lt),
    (0x5C610770300000009240000000000000, .vfexp y { lvl := .file, idx := 7 } { trap := true, lvl := .port, idx := 3 }),
    (0x5D610770380400009240000000000000, .vfscale y { lvl := .file, idx := 7 } { trap := true, lvl := .port, idx := 3 } { rot := true, idx := 4 }),
    (0x5E610770300000009240000000000000, .vfrint y { lvl := .file, idx := 7 } { trap := true, lvl := .port, idx := 3 }),
    (0x5F610770300000009240000000000000, .vfrintfl y { lvl := .file, idx := 7 } { trap := true, lvl := .port, idx := 3 }),
    (0x80610770300000009244010000000000, .vcvt y { lvl := .file, idx := 7 } { trap := true, lvl := .port, idx := 3 } .f16 .f32 1)] :=
  ⟨rfl, rfl, rfl, rfl, rfl, rfl, rfl, rfl, rfl, rfl, rfl, rfl, rfl, rfl, rfl, rfl, rfl, rfl, rfl, rfl, trivial⟩

theorem test_decode_xp_3 :
    let y : XpHdr := { lmask := 6, popm := 0x12, pushm := 0x09 }
    reads .xp [
    (0x81610770300000009244010000000000, .vcvtzr y { lvl := .file, idx := 7 } { trap := true, lvl := .port, idx := 3 } .f16 .f32 1),
    (0x82610770300000009244010000000000, .vcvtfl y { lvl := .file, idx := 7 } { trap := true, lvl := .port, idx := 3 } .f16 .f32 1),
    (0x83610770300000009244010000000000, .vcvtcl y { lvl := .file, idx := 7 } { trap := true, lvl := .port, idx := 3 } .f16 .f32 1),
    (0x8461077030000000925F410000000000, .vnars y { lvl := .file, idx := 7 } { trap := true, lvl := .port, idx := 3 } .n8 .n32 1),
    (0x8561077030000000925F410000000000, .vnarw y { lvl := .file, idx := 7 } { trap := true, lvl := .port, idx := 3 } .n8 .n32 1),
    (0x86610770300000009254000000000000, .vqblk y { lvl := .file, idx := 7 } { trap := true, lvl := .port, idx := 3 }),
    (0x87610770300000009241400000000000, .vdqblk y { lvl := .file, idx := 7 } { trap := true, lvl := .port, idx := 3 }),
    (0xA0600670300000009240000000000000, .vredf y 6 { trap := true, lvl := .port, idx := 3 }),
    (0xA1600670300000009240000000000000, .vredfmax y 6 { trap := true, lvl := .port, idx := 3 }),
    (0xA2600670300000009240000000000000, .vredfmin y 6 { trap := true, lvl := .port, idx := 3 }),
    (0xA360067030000000925C000000000000, .vred y 6 { trap := true, lvl := .port, idx := 3 } .n8),
    (0xA4600670300000009270000000000000, .vreds y 6 { trap := true, lvl := .port, idx := 3 } .i32),
    (0xA560067030000000926C000000000000, .vredmax y 6 { trap := true, lvl := .port, idx := 3 } .n16),
    (0xA6600670300000009268000000000000, .vredmin y 6 { trap := true, lvl := .port, idx := 3 } .i16),
    (0xA8610770300E00009274040000000000, .vscan y { lvl := .file, idx := 7 } { trap := true, lvl := .port, idx := 3 } 14 .n32 true),
    (0xA9610770300E00009240000000000000, .vbpfx y { lvl := .file, idx := 7 } { trap := true, lvl := .port, idx := 3 } 14),
    (0xAA610770380420109240046000000000, .visect y { lvl := .file, idx := 7 } { trap := true, lvl := .port, idx := 3 } { rot := true, idx := 4 } { lvl := .latch, idx := 1 } true 6),
    (0xAB610770300000009240000000000000, .vcmprs y { lvl := .file, idx := 7 } { trap := true, lvl := .port, idx := 3 }),
    (0xAC610770300000009240000000000000, .vexpnd y { lvl := .file, idx := 7 } { trap := true, lvl := .port, idx := 3 }),
    (0xB0610770380400009240000000000000, .vperm y { lvl := .file, idx := 7 } { trap := true, lvl := .port, idx := 3 } { rot := true, idx := 4 })] :=
  ⟨rfl, rfl, rfl, rfl, rfl, rfl, rfl, rfl, rfl, rfl, rfl, rfl, rfl, rfl, rfl, rfl, rfl, rfl, rfl, rfl, trivial⟩

theorem test_decode_xp_4 :
    let x : XpHdr := { popm := 0x12, pushm := 0x09 }
    let y : XpHdr := { lmask := 6, popm := 0x12, pushm := 0x09 }
    reads .xp [
    (0xB161077030000000924002D000000000, .vbcast y { lvl := .file, idx := 7 } { trap := true, lvl := .port, idx := 3 } 45),
    (0xB261077030000000924002D000000000, .vrotl y { lvl := .file, idx := 7 } { trap := true, lvl := .port, idx := 3 } 45),
    (0xB361077038040000924002D000000000, .vslide y { lvl := .file, idx := 7 } { trap := true, lvl := .port, idx := 3 } { rot := true, idx := 4 } 45),
    (0xB4610770380400009240040000000000, .vzip y { lvl := .file, idx := 7 } { trap := true, lvl := .port, idx := 3 } { rot := true, idx := 4 } true),
    (0xB5610770380400009240040000000000, .vunzip y { lvl := .file, idx := 7 } { trap := true, lvl := .port, idx := 3 } { rot := true, idx := 4 } true),
    (0xB6610770300000009240000000000000, .vmov y { lvl := .file, idx := 7 } { trap := true, lvl := .port, idx := 3 }),
    (0xB7610700D00000009240000000000000, .vsplat y { lvl := .file, idx := 7 } 13),
    (0xB8000600300500009240000000000000, .mand x 6 3 5),
    (0xB9000600300500009240000000000000, .mor x 6 3 5),
    (0xBA000600300500009240000000000000, .mxor x 6 3 5),
    (0xBB000600300000009240000000000000, .mnot x 6 3),
    (0xBC000600300000009240000000000000, .mpopc x 6 3),
    (0xBD000600D00E00009240000000000000, .msetx x 6 13 14),
    (0xBE000600300000009240040000000000, .mgetx x 6 3 true),
    (0xE0000600D00E00009240000000000000, .xadd x 6 13 (.reg 14)),
    (0xE1000600D000000092400001FEDCBA98, .xsub x 6 13 (.imm 0xFEDCBA98)),
    (0xE2000600D00E00009240000000000000, .xmul x 6 13 (.reg 14)),
    (0xE3000600D000000092400001FEDCBA98, .xand x 6 13 (.imm 0xFEDCBA98)),
    (0xE4000600D00E00009240000000000000, .xior x 6 13 (.reg 14)),
    (0xE5000600D000000092400001FEDCBA98, .xxor x 6 13 (.imm 0xFEDCBA98))] :=
  ⟨rfl, rfl, rfl, rfl, rfl, rfl, rfl, rfl, rfl, rfl, rfl, rfl, rfl, rfl, rfl, rfl, rfl, rfl, rfl, rfl, trivial⟩

theorem test_decode_xp_5 :
    let x : XpHdr := { popm := 0x12, pushm := 0x09 }
    let y : XpHdr := { lmask := 6, popm := 0x12, pushm := 0x09 }
    reads .xp [
    (0xE6000600D00E00009240000000000000, .xshl x 6 13 (.reg 14)),
    (0xE7000600D000000092400001FEDCBA98, .xshr x 6 13 (.imm 0xFEDCBA98)),
    (0xE80006000000000092400000FFFF0123, .xmovi x 6 0xFFFF0123),
    (0xE900067030000000924002D000000000, .xlane x 6 { trap := true, lvl := .port, idx := 3 } 45),
    (0xEA000000000000009240029C0002ABCC, .xloop x 10 7 0x2ABCC),
    (0xEA000000000000009240041EFBBEABCC, .xloopImmediate x 7 0xBEEF 0x2ABCC),
    (0xEB0000000000000092400000FFFF0123, .xbr x 0xFFFF0123),
    (0xEC000000D000000092400200FFFF0123, .xbrc x (.neg 13) 0xFFFF0123),
    (0xED00000000000000924004B000000000, .xbend x (.ended 11)),
    (0xEE680900D000000092400000FFFF0123, .vld y { rot := true, idx := 9 } 13 0xFFFF0123),
    (0xEE680900D8040000925C0200FFFF0123, .vldIndexed y { rot := true, idx := 9 } 13 { rot := true, idx := 4 } .n8 0xFFFF0123),
    (0xEF600000D804000092400000FFFF0123, .vst y 13 { rot := true, idx := 4 } 0xFFFF0123),
    (0xEF600000D8042010926C0200FFFF0123, .vstIndexed y 13 { rot := true, idx := 4 } { lvl := .latch, idx := 1 } .n16 0xFFFF0123),
    (0xC0000070300000009240011692000000, .mwldF4 x { trap := true, lvl := .port, idx := 3 } { mask := some { g := 5, gte := true, mbase := 41 } }),
    (0xC1000070300E00009240060000000000, .mwldE4m3 x { trap := true, lvl := .port, idx := 3 } { rowMajor := true, band := some 14 }),
    (0xC2000070300E00009240060000000000, .mwldE5m2 x { trap := true, lvl := .port, idx := 3 } { rowMajor := true, band := some 14 }),
    (0xC3000070300E00009240060000000000, .mwldBf16 x { trap := true, lvl := .port, idx := 3 } { rowMajor := true, band := some 14 }),
    (0xC4000070300E00009240060000000000, .mwldF16 x { trap := true, lvl := .port, idx := 3 } { rowMajor := true, band := some 14 }),
    (0xC5000070300000009240040000000000, .mwldI8 x { trap := true, lvl := .port, idx := 3 } { rowMajor := true }),
    (0xC6000070300000009240040000000000, .mwldN8 x { trap := true, lvl := .port, idx := 3 } { rowMajor := true })] :=
  ⟨rfl, rfl, rfl, rfl, rfl, rfl, rfl, rfl, rfl, rfl, rfl, rfl, rfl, rfl, rfl, rfl, rfl, rfl, rfl, rfl, trivial⟩

theorem test_decode_xp_6 :
    let x : XpHdr := { popm := 0x12, pushm := 0x09 }
    let y : XpHdr := { lmask := 6, popm := 0x12, pushm := 0x09 }
    reads .xp [
    (0xC7000070300000009240040000000000, .mwldI4 x { trap := true, lvl := .port, idx := 3 } { rowMajor := true }),
    (0xC8000070300000009240040000000000, .mwldN4 x { trap := true, lvl := .port, idx := 3 } { rowMajor := true }),
    (0xCA000000000000009248000000000000, .mwid x .bf16),
    (0xCB000070300000009248000000000000, .mwperm x { trap := true, lvl := .port, idx := 3 } .bf16),
    (0xCC000000000000009248000000000000, .mwones x .bf16),
    (0xCD000000300000009248000000000000, .mwsel x 3 .bf16),
    (0xCE000000000000009240000000000000, .mwswp x),
    (0xD000008130000000925004A000000000, .mmul x { rot := true, idx := 19 } .e5m2 37),
    (0xD100007030000000924004A000000000, .mmulz x { trap := true, lvl := .port, idx := 3 } .f32 37),
    (0xD200008130000000925004B69A000000, .mmulm x { rot := true, idx := 19 } .e5m2 37 5 41 2 true),
    (0xD300007030000000924004B69A000000, .mmulmz x { trap := true, lvl := .port, idx := 3 } .f32 37 5 41 2 true),
    (0xD408090000000000924004A009000000, .macrd x { rot := true, idx := 9 } 37 2 true),
    (0xD4000000D0000000924004A00B000000, .macrdScratchpad x 13 37 2 true),
    (0xD500000000000000924003A000580000, .macclr x 29 22),
    (0xD800007030000000925400D000000000, .mscoutQuery x { trap := true, lvl := .port, idx := 3 } 13),
    (0xD800007030000000925402D000000000, .mscoutKey x { trap := true, lvl := .port, idx := 3 } 13),
    (0xD801077030000000925404DC95AA0000, .mscoutScore x { lvl := .file, idx := 7 } { trap := true, lvl := .port, idx := 3 } 13 50 21 42 true),
    (0xD9600670300E00709240000000000000, .mcairn y 6 { trap := true, lvl := .port, idx := 3 } 14 7),
    (0xDA000640340500009240000000000000, .gand x 6 { trap := true, g := 3 } { trap := true, g := 5 }),
    (0xDB000640340500009240000000000000, .gor x 6 { trap := true, g := 3 } { trap := true, g := 5 })] :=
  ⟨rfl, rfl, rfl, rfl, rfl, rfl, rfl, rfl, rfl, rfl, rfl, rfl, rfl, rfl, rfl, rfl, rfl, rfl, rfl, rfl, trivial⟩

theorem test_decode_xp_7 :
    let x : XpHdr := { popm := 0x12, pushm := 0x09 }
    let y : XpHdr := { lmask := 6, popm := 0x12, pushm := 0x09 }
    reads .xp [
    (0xDC000640340500009240000000000000, .gandn x 6 { trap := true, g := 3 } { trap := true, g := 5 }),
    (0xDD000600300000009240000000000000, .gset x 6 3),
    (0xDE000640300000009240000000000000, .gget x 6 { trap := true, g := 3 }),
    (0xF0000000000000009240000000000000, .xpRdv x),
    (0xF1000600D00E000092400600FFFF0123, .xpWait x 6 13 14 true 2 0xFFFF0123),
    (0xF268090000000000924000D000000000, .wlpopv y { rot := true, idx := 9 } 13),
    (0xF3000000000000009240000000000000, .xpIfence x),
    (0xF4000600000000009240043200000000, .xpRdsr x 6 true 50),
    (0xF5000000D00000009240003200000000, .xpWrsr x 13 50),
    (0xF6000000000000009240000000000000, .xpYield x),
    (0xF700000000000000924000000000C0DE, .xpTrap x 0xC0DE),
    (0xF8000000000000009240000000000000, .xpDone x),
    (0xF9000000000000009240000000000000, .xpNop x),
    (0xFA000000000000009240100000000000, .xpFenceAcq x .cluster),
    (0xFB000000000000009240180000000000, .xpFenceRel x .stack),
    (0xFC000000000000009240280000000000, .xpFenceSc x .device)] :=
  ⟨rfl, rfl, rfl, rfl, rfl, rfl, rfl, rfl, rfl, rfl, rfl, rfl, rfl, rfl, rfl, rfl, trivial⟩

/-! ## States that meet the hypotheses of the statements -/

/-! ### The machine as a whole -/

/-- The state in which an operation word stands at offset 0 of core 0 as a literal. -/
def placed (w : Nat) : State := State.reset.withFetchWord 128 w

/-- Of `StepRunsTheDecodedInstruction`: a word, a data literal, a group that is none, a half that may not run; a Poison trap pending at a
boundary; the context of the slot, the system context before it, one that issues again in its cycle, and a third word; a literal and a
patch. -/
theorem witness_stepRunsTheDecodedInstruction :
    let s := placed (0x01 * 2 ^ 120)
    s.agenda = [⟨0, .issue ⟨0, 0, .ap⟩, 0, otherCtxs 0⟩] ∧ s.mayIssue ⟨0, 0, .ap⟩ (otherCtxs 0) = true ∧ s.boundaryTrap ⟨0, 0, .ap⟩ = none ∧
    s.fetch ⟨0, 0, .ap⟩ = .word { pcn := 20, op := 0x01000000000000000000000000000000 } (.nop {}) ∧
    ((placed 0).modCore 0 fun c => { c with imem := placeBytes [] 0 (leBytes 4 (63 * 2 ^ 26)) }).fetch ⟨0, 0, .ap⟩ = .data { pcn := 20 } ∧
    ((placed 0).modCore 0 fun c => { c with imem := [] }).fetch ⟨0, 0, .ap⟩ = .fault { pcn := 4 } { code := 1 } ∧
    State.reset.agenda = [] ∧ State.reset.mayIssue State.reset.cur.tid [] = false ∧ s0.runnable ⟨0, 0, .ap⟩ = true ∧
    (xpState { mx := { pend := some ⟨0, 0x80, false, 0, 0⟩ } }).boundaryTrap ⟨0, 0, .xp⟩ = some ⟨0, 0x80, false, 0, 0⟩ ∧
    (xpState { mx := { pend := some ⟨0, 0x80, false, 0, 0⟩ } }).mayIssue ⟨0, 0, .xp⟩ [] = true ∧
    bits ((s0.core 0).slots (s0.coreCc 0) .ap).toNat (2 * (s0.cc % 16) + 1) (2 * (s0.cc % 16)) = 0 ∧ (sysState {}).runnable ⟨0, 4, .ap⟩ = true ∧
    (let t := s0.countIssue ⟨0, 0, .ap⟩ none false
     t.runnable ⟨0, 0, .ap⟩ = true ∧ (t.core 0).issuedAt.get (0, 0, 0) (unitNo .ap) = (t.cc, 0, 1)) ∧
    (let t := (s0.countIssue ⟨0, 0, .ap⟩ none false).countIssue ⟨0, 0, .ap⟩ none true
     (t.core 0).issuedAt.get (0, 0, 0) (unitNo .ap) = (t.cc, 0, 2)) ∧
    s0.inOrder ⟨0, 0, .ap⟩ 0 none = true ∧ (s0.countIssue ⟨0, 0, .xp⟩ none false).inOrder ⟨0, 0, .ap⟩ 0 none = false ∧
    (s0.countIssue ⟨0, 0, .ap⟩ (some 3) false).inOrder ⟨0, 0, .xp⟩ (0x303 * 2 ^ 104) none = false ∧ streamPort (.send {} 3) = some 3 :=
  ⟨rfl, rfl, rfl, rfl, rfl, rfl, rfl, rfl, rfl, rfl, rfl, rfl, rfl, ⟨rfl, rfl⟩, rfl, rfl, rfl, by decide +kernel, rfl⟩

/-- Of the same: the turns of an event and of held port work; a literal and a patched group that decode. -/
theorem witness_turnsAndGroups :
    State.reset.dev.tripped = false ∧ (Act.event .deviceReset).whileTripped = true ∧ (Act.issue ⟨0, 0, .ap⟩).whileTripped = false ∧
    (Instr.tokenArrival 1).side = .event ∧ ({ agenda := [⟨0, .event (.tokenArrival 1), 0, []⟩] } : State).agenda ≠ [] ∧
    ({ agenda := [⟨0, .beat 0 1 64, 0, []⟩] } : State).agenda ≠ [] ∧ samples (.tffr {} 0 (.imm 0) false) = true ∧
    (let p : Port := { cfg := [], act := true, usedAt := some 0 }
     ((s0.countIssue ⟨0, 0, .xp⟩ none false).modPort 0 0 3 fun _ => p).inOrder ⟨0, 0, .ap⟩ 0 (some 3) = true) ∧
    ((s0.half ⟨0, 0, .ap⟩).stall.bind (·.conds)) = none ∧ s0.dev.steps = [] ∧
    (let s := placed (0x01 * 2 ^ 120)
     (s.half ⟨0, 0, .ap⟩).word = none ∧
      decodeGroup 0 [] ((s.core 0).imemWords 0 5) = .ok ⟨.literal none true 0x01000000000000000000000000000000, 5⟩ ∧
      (s.core 0).imemPoison 0 5 = false ∧ decodeLiteral .ap none true 0x01000000000000000000000000000000 = .ok (some (.nop {}))) ∧
    (let s := (placed 0).modCore 0 fun c => { c with imem := placeBytes [] 0 (leBytes 4 0x17003901) }
     decodeGroup 0 [] ((s.core 0).imemWords 0 5) = .ok ⟨.patched 5 [⟨96, 0, 0x3901⟩], 1⟩ ∧
      (s.half ⟨0, 0, .ap⟩).tmplBad.get false 5 = false) :=
  ⟨rfl, rfl, rfl, rfl, nofun, nofun, rfl, rfl, rfl, rfl, ⟨rfl, rfl, rfl, rfl⟩, rfl, rfl⟩

/-- Of `PatchesReplaceOneField`: the form that replaces nothing, the last field of a template, one that runs past it, a value too wide; a
word that stores no template. -/
theorem witness_patchesReplaceOneField :
    (let p : Patch := ⟨120, 6, 255⟩
     p.off + patchWidth p.wc = 128 ∧ ¬ (p.off = 127 ∧ p.wc = 0) ∧ p.val < 2 ^ patchWidth p.wc) ∧
    (let p : Patch := ⟨121, 6, 0⟩
     128 < p.off + patchWidth p.wc) ∧
    (let p : Patch := ⟨120, 6, 256⟩
     2 ^ patchWidth p.wc ≤ p.val) := by decide +kernel
theorem witness_aWordThatStoresNoTemplate :
    (placed (0x01 * 2 ^ 120)).fetch ⟨0, 0, .ap⟩ = .word { pcn := 20, op := 0x01000000000000000000000000000000 } (.nop {}) ∧
    ({ pcn := 20, op := 0x01000000000000000000000000000000 } : Cur).store = none ∧ ∃ t, step (placed (0x01 * 2 ^ 120)) = .next t :=
  ⟨rfl, rfl, _, rfl⟩

/-- Of `DecodeReadsWhatEncodeWrites`: an AP word, an XP word, a store-only literal. -/
theorem witness_decodeReadsWhatEncodeWrites :
    (Instr.nop {}).wf = true ∧ encodeWord (.nop {}) = some (.ap, 0x01 * 2 ^ 120) ∧ (Instr.xpNop {}).wf = true ∧
      encodeWord (.xpNop {}) = some (.xp, 0xF9 * 2 ^ 120) ∧ (Instr.templateStoreLiteral 61 5).wf = true ∧
      decodeOp .ap (0x01 * 2 ^ 120) = .ok (.nop {}) := ⟨rfl, rfl, rfl, rfl, rfl, rfl⟩

/-- Of `StepsKeepMemoryCanonical`, and of a step with a word. -/
theorem witness_stepsKeepMemoryCanonical :
    (Memory.wf (placed (0x01 * 2 ^ 120)) = true ∧ ∃ t, step (placed (0x01 * 2 ^ 120)) = .next t) := ⟨by decide +kernel, _, rfl⟩

/-! ### The AP -/

/-- Of `ApFormsChangeOnlyWhatTheyName`: a register form, a predicate form, a branch. -/
theorem witness_apFormsChangeOnlyWhatTheyName :
    (∃ t, exec (.add {} 5 3 (.reg 4)) s0 = .next t ∧ t.me.trapped = false) ∧
    (∃ t, exec (.pcmp {} 3 (.reg 4) 2 .lt) s0 = .next t ∧ t.me.trapped = false) ∧
    (∃ t, exec (.br {} 8) s0 = .next t ∧ t.me.trapped = false) ∧ s0.cur.tid.half = .ap ∧ s0.me.elide = none :=
  ⟨⟨_, rfl, rfl⟩, ⟨_, rfl, rfl⟩, ⟨_, rfl, rfl⟩, rfl, rfl⟩

theorem witness_apAccessesChangeNothingAtOnce :
    (∃ t, exec (.ld {} 5 3 0 .q8) s0 = .next t ∧ t.me.trapped = false) ∧
    (∃ t, exec (.st {} 3 4 0 .q8) s0 = .next t ∧ t.me.trapped = false) ∧
    (∃ t, exec (.fenceSc {} .system) s0 = .next t ∧ t.me.trapped = false) :=
  ⟨⟨_, rfl, by decide +kernel⟩, ⟨_, rfl, by decide +kernel⟩, ⟨_, rfl, by decide +kernel⟩⟩

/-- Of the two-operand, saturating, one-operand, field, move, select and predicate forms. -/
theorem witness_apForms :
    apGo {} s0 = true ∧ canUse s0 3 = true ∧ canUse2 s0 (.reg 4) = true ∧ canUse2 s0 (.imm 5) = true ∧ s0.busyA 5 = false ∧
      canUse s0 5 = true ∧ (0 : BitVec 6).toNat + ((63 : BitVec 6).toNat + 1) ≤ 64 ∧ canTest s0 1 = true ∧ canTest s0 2 = true ∧
      s0.busyP 2 = false ∧ s0.busyA 3 = false ∧ s0.busyA 4 = false := by decide +kernel

/-- Of `ApBranchesAndLoops`: each branch aligned and not, each loop bound, an empty and a filled stack. -/
theorem witness_apBranchesAndLoops :
    apGo {} s0 = true ∧ canUse s0 3 = true ∧ s0.busyA 5 = false ∧
      (BitVec.ofNat 64 s0.cur.pc + (8 : BitVec 32).signExtend 64).toNat % 4 = 0 ∧
      (BitVec.ofNat 64 s0.cur.pc + (6 : BitVec 32).signExtend 64).toNat % 4 ≠ 0 ∧
      (aVal s0 3 + (8 : BitVec 32).signExtend 64).toNat % 4 = 0 ∧ (aVal s0 3 + (6 : BitVec 32).signExtend 64).toNat % 4 ≠ 0 ∧
      ((s0.cur.pc : Int) + (4 : BitVec 32).toInt ≤ s0.cur.pcn) ∧ ¬ ((s0.cur.pc : Int) + (8 : BitVec 32).toInt ≤ s0.cur.pcn) ∧
      ((s0.cur.pc : Int) + (8 : BitVec 32).toInt) % 4 = 0 ∧ s0.me.apLoops = [] ∧
      (apState { regs with apLoops := [⟨0x44, 0x50, 1⟩, ⟨0, 0, 1⟩, ⟨0, 0, 1⟩, ⟨0, 0, 1⟩] }).me.apLoops.length = 4 ∧
      (aVal s0 3).toNat ≠ 0 ∧ (aVal s0 0).toNat = 0 := by decide +kernel

/-- Of `ApAccessesPutOneRequestInFlight`: a load, a store and an atomic that reach DRAM; the last word of the scratchpad. -/
theorem witness_apAccessesPutOneRequestInFlight :
    (∃ p t, reaches (apIn {} s0) (effVal s0 3 0) 8 .read p t) ∧ (∃ p t, reaches (apIn {} s0) (effVal s0 3 0) 8 .write p t) ∧
    (∃ p t, reaches (apIn {} s0) (effVal s0 3 0) 8 .atomic p t) ∧ apGoPlain {} s0 = true ∧ canUse s0 3 = true ∧ canUse s0 6 = true ∧
    s0.busyA 5 = false ∧ s0.busyA 4 = false ∧ s0.busyP 2 = false ∧ (s0.me.areg 4).bad = false ∧ canUse s0 5 = true ∧
    effVal s0 6 0 % 8 = 0 ∧ effVal s0 6 0 + 8 ≤ 0x200000 ∧ s0.before s0.cur.tid .system false = [] :=
  ⟨⟨_, _, by decide +kernel, rfl, by decide +kernel⟩, ⟨_, _, by decide +kernel, rfl, by decide +kernel⟩,
    ⟨_, _, by decide +kernel, rfl, by decide +kernel⟩, by decide +kernel⟩

/-- Of `ApAccessTrapsAndFences`: a misaligned address, one past the scratchpad, a page without rights, an address with no page, a walk that
the walker's windows refuse and one that they allow, a page across a bridge that is down; operands of the atomics; a release that is free. -/
theorem witness_apAccessTrapsAndFences :
    effVal s0 5 0 % AccTy.q8.bytes ≠ 0 ∧ 0x200000 < effVal s0 6 8 + 8 ∧ effVal s0 3 0 % 8 = 0 ∧
    (∃ f t, (apIn {} s0).xlat ((apIn {} s0).rq 0 0 0) (effVal s0 8 0) 8 8 .atomic = (.error f, t) ∧
      ((apIn {} s0).walkFault ((apIn {} s0).rq 0 0 0) (effVal s0 8 0) .atomic).isNone = true) ∧
    (∃ f t, (apIn {} s0).xlat ((apIn {} s0).rq 0 0 0) (effVal s0 8 0x2000) 8 8 .write = (.error f, t) ∧
      ((apIn {} s0).walkFault ((apIn {} s0).rq 0 0 0) (effVal s0 8 0x2000) .write).isSome = true) ∧
    (let s := { s0 with dev := { s0.dev with bridge := { up := false } } }
     ∃ p t d, (apIn {} s).xlat ((apIn {} s).rq 0 0 0) (effVal s 7 0) 8 8 .read = (.ok p, t) ∧ t.linkCut 0 p.pa = some d) ∧
    (apGoPlain {} s0 = true ∧ canUse s0 3 = true ∧ canUse s0 4 = true ∧ canUse s0 5 = true ∧ s0.busyA 5 = false ∧ s0.busyA 4 = false ∧
      s0.busyP 2 = false ∧ s0.before s0.cur.tid .system false = []) :=
  ⟨by decide +kernel, by decide +kernel, by decide +kernel, ⟨_, _, rfl, rfl⟩, ⟨_, _, rfl, rfl⟩, ⟨_, _, _, rfl, rfl⟩, by decide +kernel⟩

/-- A region on the line of a3's word. -/
def region (n : Nat) : Elide :=
  { rd := 5, fallback := 0x60, a := [], p := [], loops := [], lines := List.range n, writes := [], wbad := [] }

/-- Of `ElidedRegionsOpenActCommitAndAbort`: a lock that is free and one that is held; inside and outside a region. -/
theorem witness_elidedRegionsOpenCommitAndAbort :
    (∀ s ∈ [s0, s0.store none 0x4000 (leBytes 8 1) false],
      let x := lands (apIn {} s) (effVal s 3 0) 8 .read
      let y := lands x.2 (effVal s 3 0) 8 .atomic
      reaches (apIn {} s) (effVal s 3 0) 8 .read x.1 x.2 ∧ x.1.ord = .rc ∧ (inDram x.1.pa || inSpad x.1.pa) = true ∧
      reaches x.2 (effVal s 3 0) 8 .atomic y.1 y.2 ∧ y.2.badIn x.1.pa 8 = false ∧ y.2.mustWait s.cur.tid x.1.pa 8 = false) ∧
    (s0.reqs.any fun q => decide (q.tid = s0.cur.tid) && decide (q.dst ≠ .none)) = false ∧
    s0.nat 0x4000 8 = 0 ∧ (s0.store none 0x4000 (leBytes 8 1) false).nat 0x4000 8 = 1 ∧
    (let s := apState { regs with elide := some (region 1) }
     s.me.elide = some (region 1) ∧ apGo {} s = true ∧ (apIn {} s).before s0.cur.tid .device false = []) := by
  refine ⟨?_, by decide +kernel, by decide +kernel, by decide +kernel, by decide +kernel⟩
  intro s hs
  have hs : s = s0 ∨ s = s0.store none 0x4000 (leBytes 8 1) false := by simpa using hs
  rcases hs with rfl | rfl <;>
    exact ⟨reaches_lands _ _ _ _ (by decide +kernel) (by decide +kernel) (by decide +kernel), by decide +kernel, by decide +kernel,
      reaches_lands _ _ _ _ (by decide +kernel) (by decide +kernel) (by decide +kernel), by decide +kernel, by decide +kernel⟩

/-- Of the same, inside a region: the 32nd line, and the 33rd. -/
theorem witness_elidedAccessesActOnTheRegion :
    let s := apState { regs with elide := some (region 31) }
    let x := lands (apIn {} s) (effVal s 3 0) 8 .write
    let y := lands x.2 (effVal s 3 0) 8 .atomic
    reaches (apIn {} s) (effVal s 3 0) 8 .write x.1 x.2 ∧ reaches x.2 (effVal s 3 0) 8 .atomic y.1 y.2 ∧
      (x.1.ord = .rc ∧ (inDram x.1.pa || inSpad x.1.pa) = true ∧ (track (region 31) (x.1.pa / 64)).lines.length = 32 ∧
      (track (region 32) (x.1.pa / 64)).lines.length = 33 ∧ y.2.mustWait s.cur.tid x.1.pa 8 = false ∧ apGo {} s = true ∧ s.me.elide = some (region 31) ∧ canUse s 3 = true) :=
  ⟨reaches_lands _ _ _ _ (by decide +kernel) (by decide +kernel) (by decide +kernel),
    reaches_lands _ _ _ _ (by decide +kernel) (by decide +kernel) (by decide +kernel), by decide +kernel⟩

/-! ### Streams -/

/-- The configuration of Example 09-5 (a masked source), the same as a sink without a mask, and without a mask. -/
def source : Conf :=
  [(0, 0x00680003), (1, 0x2000), (2, 0x0001000400200100), (3, 0x3F80000000010001), (4, 0x0000200000000100), (7, 0x6800)]
def plain : Conf := SMap.put source 0 0x3
def sink : Conf := SMap.put source 0 0x43
def portState (p : Port) : State := apState { regs with ports := [(2, p)] }

/-- Of `StreamsAreShadowedAndStarted`: a port that the context has, and the first that it has not; Example 09-5 passes the checks, and
with a COUNT of zero it fails with reason 4; a core that holds fewer than 16 tables. -/
theorem witness_streamsAreShadowedAndStarted :
    let s := portState { shadow := source }
    apGoPlain {} s0 = true ∧ (2 : BitVec 4).toNat < s0.me.streamCount 0 ∧ s0.me.streamCount 0 ≤ (4 : BitVec 4).toNat ∧
      canUse2 s0 (.reg 4) = true ∧ canUse s0 3 = true ∧
      apGoPlain {} s = true ∧ (apIn {} s).checkConf 0 0 2 source ((apIn {} s).portBusy 0 0 2) = .ok none ∧
      (apIn {} s).checkConf 0 0 2 (SMap.put source 2 0) ((apIn {} s).portBusy 0 0 2) = .error (4, 0) ∧
      s.before s.cur.tid ((Scope.ofCode? (Conf.scope source)).getD .system) false = [] ∧ ((apIn {} s).core 0).tablesHeld < 16 :=
  ⟨rfl, by decide +kernel, by decide +kernel, rfl, rfl, by decide +kernel, rfl, rfl, by decide +kernel, by decide +kernel⟩

/-- Of `StreamMarksRewindsAndSend`: a source that is active, a sink that is, and an inactive port. -/
theorem witness_streamMarksRewindsAndSend :
    let s := portState { cfg := plain, act := true, lines := [{ pos := {}, full := true }] }
    apGoPlain {} s = true ∧ (2 : BitVec 4).toNat < s.me.streamCount 0 ∧ (s.port 0 0 2).act = true ∧ Conf.sink (s.port 0 0 2).cfg = false ∧
      Conf.isPeer (s.port 0 0 2).cfg = false ∧ ((portState { cfg := sink, act := true }).port 0 0 2).act = true ∧
      Conf.sink sink = true ∧ (s0.port 0 0 2).act = false := by decide +kernel

/-- Of `StreamRecordsQueriesAndMasks`: a record that SSAVE writes passes the checks of SRSTR; masked, unmasked and inactive ports; the
states of a tile-mask register. -/
theorem witness_streamRecordsQueriesAndMasks :
    let s := portState { cfg := plain, act := true }
    let rec_ := (s.port 0 0 2).record ((apIn {} s).drained 0 0 2) false 0 (s.port 0 0 2).cpos
    let t := s0.store none (spad 0 0x2000) rec_ false
    let bs := (apIn {} t).bytes (spad 0 0x2000) 128
    apGoPlain {} s = true ∧ apGoPlain {} t = true ∧ canUse s 3 = true ∧ effVal s 3 0 % 128 = 0 ∧ effVal s 3 0 + 128 ≤ 0x200000 ∧
      (2 : BitVec 4).toNat < s.me.streamCount 0 ∧ (s.port 0 0 2).act = true ∧ Conf.sink plain = false ∧ (s.port 0 0 2).fullRun = [] ∧
      (apIn {} s).mustWait s.cur.tid (spad 0 0x2000) 128 = false ∧ (apIn {} t).mustWait t.cur.tid (spad 0 0x2000) 128 = false ∧
      ((apIn {} t).core 0).tablesHeld < 16 ∧
      (let e := portState { cfg := sink, act := true }
       (e.port 0 0 2).flt = false ∧ (e.port 0 0 2).lines = [] ∧ Conf.isPeer sink = false) ∧
      (let e := portState { cfg := sink, act := true, flt := true, ended := true }
       (e.port 0 0 2).flt = true ∧ (apIn {} e).drained 0 0 2 = true) ∧
      effVal s 3 0 + 128 + 256 * Conf.lines plain ≤ 0x200000 ∧
      (apIn {} t).badIn (spad 0 0x2000) 128 = false ∧ bit (leNat ((bs.drop 8).take 8)) 57 = false ∧
      (match (apIn {} t).checkConf 0 0 2 (recordConf bs) ((apIn {} t).portBusy 0 0 2) with | .ok none => true | _ => false) = true ∧
      recordOk (recordConf bs) bs false = true ∧
      t.before t.cur.tid ((Scope.ofCode? (Conf.scope (recordConf bs))).getD .system) false = [] ∧
      Conf.men plain = false ∧ Conf.men source = true ∧ (s0.port 0 0 2).act = false ∧ s.busyA 5 = false ∧
      (s.me.greg 1).full = true ∧ (s.me.greg 1).bad = false ∧
      ((apState { g := [(1, { bad := true })] }).me.greg 1).bad = true ∧ ((apState { g := [(1, { full := false })] }).me.greg 1).full = false := by
  decide +kernel

/-! ### Copies, waits, barriers, work lists, chains, traps -/

/-- The block of Example 05-1. -/
def tile : Nat :=
  0x0000000122051101 + 0x0020100602923400 * 2 ^ 64 + 0x10000 * 2 ^ 128 + 0x0001000100100020 * 2 ^ 192 + 4096 * 2 ^ 256
    + 64 * 2 ^ 352 + 0x000A00183F800000 * 2 ^ 448
/-- A block at local offset 2000h, which a3 holds. -/
def withBlock (v : Nat) (s : State) : State := s.store none (spad 0 0x2000) (leBytes 72 v) false

/-- Of `CopyIssueAndCompletionForms`: Example 05-1, as it stands and timed; tags that all are set, some, none. -/
theorem witness_copyIssueAndCompletionForms :
    (∀ v ∈ [tile, tile + 2 ^ 27],
      let s := withBlock v s0
      let t := apIn {} s
      let b : Blk := BitVec.ofNat 512 (s.nat (spad 0 0x2000) 64)
      apGoPlain {} s = true ∧ canUse s 3 = true ∧ canUse s 4 = true ∧ s.busyA 5 = false ∧ effVal s 3 0 = 0x2000 ∧ 0x2000 % 64 = 0 ∧
        0x2000 + 72 ≤ 0x200000 ∧ t.mustWait s.cur.tid (spad 0 0x2000) 72 = false ∧ s.badIn (spad 0 0x2000) 72 = false ∧
        (match t.checkBlk 0 0 b with | .ok none => true | _ => false) = true ∧ t.cmdRoom 0 0 b = true ∧
        t.before s.cur.tid ((Scope.ofCode? (Blk.scope b)).getD .system) false = []) ∧
    (let s := apState { regs with tags := 17 }
     canUse2 s (.reg 4) = true ∧ s.me.tags &&& op2Val s (.reg 4) = op2Val s (.reg 4) ∧ s.me.tags &&& op2Val s (.imm 3) = 1 ∧
      s.me.tags &&& op2Val s (.imm 2) = 0 ∧ (17 : BitVec 64).getLsbD 0 = true ∧
      ((s.core 0).cmds.all fun q => !(q.ctx == 0 && q.chan == 1)) = true) := by decide +kernel

/-- Of `WaitsAndBarriersEndOrGoOn`: the block of Example 13-1 with tag 5 set, clear with a limit of 17, clear with none. -/
theorem witness_waitsEndOnTheirConditionsOrTheirLimit :
    let blk := 0x0000000500000001 + 0x0000000C00004002 * 2 ^ 128
    let es := (List.range 2).map (condEntry (BitVec.ofNat 512 blk))
    let ok := fun (s : State) (t : State) => (s.half s.cur.tid).inWord = false ∧ s.badIn (spad 0 0x2000) 32 = false ∧ t.mustWait s.cur.tid (spad 0 0x2000) 64 = false ∧
      (match firstSome ((t.look (some s.cur.tid) (spad 0 0x2000) 32).condTrap s.cur.tid) es with | none => true | _ => false) = true ∧
      s.nat (spad 0 0x2000) 64 = blk ∧ (∀ e ∈ es, condKind e ≠ 4)
    let s := withBlock blk { apState { regs with tags := 32 } with gtc := 5 }
    let s := s.setBar 0 12 { e := 2, a := 0, p := false }
    let x := withBlock blk (xpState { x := [(1, { v := 0x2000 }), (2, { v := 17 })] })
    let x := x.setBar 0 12 { e := 2, a := 0, p := false }
    ok s (apIn {} s) ∧ apGoPlain {} s = true ∧ canUse s 3 = true ∧ canUse s 4 = true ∧ s.busyA 5 = false ∧ effVal s 3 0 = 0x2000 ∧
      (((apIn {} s).look (some s.cur.tid) (spad 0 0x2000) 32).lookConds s.cur.tid es).satBits s.cur.tid es = some 1 ∧ ok x (xpIn {} x) ∧ xpGo {} x = true ∧
      ((x.me.xreg 1).v.toNat : Int) + (0 : BitVec 32).toInt = 0x2000 ∧ (x.me.xreg 2).v = 17 ∧ (x.me.xreg 0).v = 0 ∧
      (((xpIn {} x).look (some x.cur.tid) (spad 0 0x2000) 32).lookConds x.cur.tid es).satBits x.cur.tid es = some 0 := by decide +kernel

/-- Of `WaitsAndBarriersEndOrGoOn`: barrier 17 initialised and waiting for one and for two, uninitialised; barrier 2048; a target in the tenant. -/
theorem witness_barrierForms :
    let s := s0.setBar 0 17 { e := 2, a := 1, p := true }
    apGoPlain {} s = true ∧ canUse s 4 = true ∧ (aVal s 4).toNat = 17 ∧ canUse2 s (.imm 1) = true ∧ (s0.bar 0 17).a = 0 ∧ (s0.bar 0 17).e = 0 ∧
      (op2Val s (.imm 1)).toNat % 65536 ≠ 0 ∧ (op2Val s (.imm 0x10000)).toNat % 65536 = 0 ∧ (s.bar 0 17).e ≠ 0 ∧
      (s.bar 0 17).a + 1 = (s.bar 0 17).e ∧ s.busyA 5 = false ∧ s.before s.cur.tid .device false = [] ∧
      (s.bar 0 17).p ≠ (op2Val s (.imm 0)).getLsbD 0 ∧ (s.bar 0 17).p = (op2Val s (.imm 1)).getLsbD 0 ∧
      (let t := apState { a := [(3, { v := 2047 }), (4, { v := 2048 })] }
       canUse t 3 = true ∧ (aVal t 3).toNat < 2048 ∧ 2048 ≤ (aVal t 4).toNat) ∧
      s.coreTenant (1 % 256) = s.coreTenant 0 ∧ (s.coreTenant 0).isSome = true ∧ scopeOver 0 1 ≤ Scope.cluster.code ∧
      s.dev.bridge.up = true := by decide +kernel

/-- Of `WorkListChainAndJobForms`: lists empty, full and with a bitmap; chains absent, linked and idle; a job word in DRAM. -/
theorem witness_workListChainAndJobForms :
    let w : WorkList := {}
    let one : WorkList := { cfg := 0x10000000, front := [(7, false)] }
    let s := apState { regs with a := regs.a ++ [(9, { v := 0x10000000 })] }
    apGoPlain {} s = true ∧ s.busyA 5 = false ∧ w.flt = false ∧ canUse s 0 = true ∧ canUse s 9 = true ∧ w.count = 0 ∧
      (let n : WorkList := { base := aVal s 0, cfg := aVal s 0 }
       bits (aVal s 0).toNat 31 21 = 0 ∧ (aVal s 0).toNat % 2048 = 0 ∧ n.nch = 0 ∧ n.bmoff % 8 = 0 ∧ n.bmoff + 8 * n.nbm ≤ 0x200000) ∧
      w.count < w.capacity ∧ w.onChip < 4096 ∧ one.count = 1 ∧
      (let full : WorkList := { front := List.replicate 4096 (0, false) }
       full.capacity ≤ full.count) ∧
      (let m : WorkList := { cfg := 0x0000000100000000 }
       (BitVec.truncate 32 (op2Val s (.reg 4)) : BitVec 32).toNat < 64 * m.nbm ∧ m.nbm = 1 ∧ s.badIn (spad 0 2) 1 = false ∧ (apIn {} s).mustWait s.cur.tid (spad 0 2) 1 = false ∧ (s.byte (spad 0 2)).getLsbD (17 % 8) = false ∧
        ((s.store none (spad 0 2) [2] false).byte (spad 0 2)).getLsbD (17 % 8) = true) ∧
      (s.me.chan 1).chain = none ∧
      (let c := apState { regs with chans := [(1, { chain := some { next := some 0x2000 } })] }
       (c.me.chan 1).chain = some { next := some 0x2000 } ∧ c.before c.cur.tid .device false = [] ∧
        ((c.core 0).cmds.all fun q => !(q.ctx == 0 && q.chan == 1)) = true) ∧
      (aVal s 3).toNat % 64 = 0 ∧
      (let x := lands (apIn {} s) (effVal s 3 0) 8 .atomic
       x.1.mt = 0 ∧ inDram x.1.pa = true) := by decide +kernel

theorem witness_jobWord :
    let x := lands (apIn {} s0) (effVal s0 3 0) 8 .atomic
    reaches (apIn {} s0) (effVal s0 3 0) 8 .atomic x.1 x.2 ∧
      reaches x.2 (effVal s0 3 0) 8 .atomic (lands x.2 (effVal s0 3 0) 8 .atomic).1 (lands x.2 (effVal s0 3 0) 8 .atomic).2 :=
  ⟨reaches_lands _ _ _ _ (by decide +kernel) (by decide +kernel) (by decide +kernel),
    reaches_lands _ _ _ _ (by decide +kernel) (by decide +kernel) (by decide +kernel)⟩

/-- Of `ForkRendezvousYieldAndTrapForms`: an XP that runs and one that is idle, entries aligned and not, each state of a rendezvous, a
context that is asked to yield and one that is not. -/
theorem witness_forkRendezvousYieldAndTrapForms :
    let busy := apState { regs with xp := { active := true } }
    let half := fun r => apState { regs with ap := { rdv := r } }
    apGoPlain {} s0 = true ∧ xpGo {} (xpState {}) = true ∧ canUse s0 3 = true ∧ s0.me.xp.active = false ∧ busy.me.xp.active = true ∧
      (aVal s0 3 + (0 : BitVec 32).signExtend 64).toNat % 4 = 0 ∧ (aVal s0 3 + (2 : BitVec 32).signExtend 64).toNat % 4 ≠ 0 ∧
      s0.before s0.cur.tid .context false = [] ∧ s0.me.bind = some user ∧ s0.cur.tid.ctx ≠ 4 ∧ (sysState {}).cur.tid.ctx = 4 ∧
      apGoPlain {} (sysState {}) = true ∧ ((half .met).half s0.cur.tid).rdv = .met ∧ ((half .arrived).half s0.cur.tid).rdv = .arrived ∧
      apGoPlain {} (half .arrived) = true ∧ (s0.half s0.cur.tid).rdv = .none ∧ (s0.half ⟨0, 0, .xp⟩).rdv ≠ .arrived ∧
      ((apState { regs with xp := { rdv := .arrived } }).half ⟨0, 0, .xp⟩).rdv = .arrived ∧ s0.yieldAsked 0 0 = false ∧
      (apState { regs with yielding := true }).yieldAsked 0 0 = true := by decide +kernel

theorem witness_takingATrapSavesTheContext :
    let i : TrapInfo := { code := 14, swcode := 5 }
    (⟨0, 0, .ap⟩ : Tid).ctx < 4 ∧ 0x44 < 2 ^ 32 ∧ i.noOp = false ∧ i.code < 256 ∧ i.opnd < 16 ∧ s0.gtc < 2 ^ 64 ∧ i.addr < 2 ^ 64 ∧
      s0.hostServes (s0.ctxTenant 0 0) i.code = false := by decide +kernel

/-- Of `ReturnsFromATrapResumeTheContext`: a record that abandons, one with a bad offset, one that resumes both halves, one that resumes
the AP alone; ERET of a user context, of an idle handler, for a context trapped and for one that is not. -/
theorem witness_returnsFromATrapResumeTheContext :
    let r := fun (ra rx : Nat) => sysState {} { ctxs := [(0, { trapped := true, pend := true, bind := some user })] }
      |>.store none (spad 0 8) (leBytes 8 (ra + rx * 2 ^ 32)) false
    let at_ := fun (s : State) (o : Nat) => s.nat (spad 0 (bits (s.ctx 0 0).trapCause.toNat 44 32 * 256) + o) 4
    at_ (r 0xFFFFFFFF 0) 8 = 0xFFFFFFFF ∧ at_ (r 2 0) 8 % 4 ≠ 0 ∧ at_ (r 4 6) 12 % 4 ≠ 0 ∧ at_ (r 4 8) 8 = 4 ∧ at_ (r 4 8) 12 % 4 = 0 ∧
      at_ (r 4 0xFFFFFFFF) 12 = 0xFFFFFFFF ∧ apGoPlain {} (r 4 8) = true ∧ (r 4 8).cur.tid.ctx = 4 ∧ ((r 4 8).core 0).trapPend ≠ 0 ∧
      ((r 4 8).ctx 0 0).trapped = true ∧ ((r 4 8).ctx 0 1).trapped = false ∧ ((r 4 8).ctx 0 1).resumed ≠ some (r 4 8).cc ∧
      ((sysState {} { ctxs := [(0, { pend := true }), (1, { resumed := some 0 })] }).ctx 0 1).resumed = some 0 ∧
      (r 4 8).before (r 4 8).cur.tid .core true = [] ∧ ((sysState {}).core 0).trapPend = 0 ∧ s0.cur.tid.ctx ≠ 4 ∧
      (match (apIn {} (r 4 8)).returnFromTrap 0 0 (fun s c => s.abandon 0 0 c) with
        | some t => decide (t.cur = (r 4 8).cur)
        | none => false) = true := by decide +kernel

/-- Of `SpecialRegisterFormsAndValues`: a register for all, one for the system, a number of none, one that cannot be written. -/
theorem witness_specialRegisterFormsAndValues :
    apGo {} s0 = true ∧ apGoPlain {} s0 = true ∧ xpGo {} (xpState {}) = true ∧ s0.busyA 5 = false ∧ canUse s0 3 = true ∧
      (srAssigned 0x18 && (!srSystem 0x18 || (0 : Nat) == 4) && srWritable 0x18) = true ∧ (srAssigned 0x22 && (!srSystem 0x22 || (0 : Nat) == 4)) = false ∧
      srAssigned 0x7F = false ∧ (srAssigned 0x28 && srWritable 0x28) = false ∧ ((xpState {}).me.xreg 1).bad = false := by decide +kernel

/-- Of `DoneAndStoreOnlyLiteral`: units quiet and busy; an AP that can end, one whose XP runs, the system context. -/
theorem witness_doneAndStoreOnlyLiteral :
    let q := fun (s : State) => s.unitsQuiet 0 0 && !(s.reqs.any fun q => decide (q.tid = s.cur.tid) && q.lacks .core)
    let busy := xpState {} { arrayQ := [.clear 0 0 1] }
    xpGo {} (xpState {}) = true ∧ q (xpState {}) = true ∧ q busy = false ∧ apGoPlain {} s0 = true ∧ s0.cur.tid.ctx ≠ 4 ∧ s0.me.bind ≠ none ∧
      s0.me.xp.active = false ∧ s0.me.mx.pend = none ∧ (∀ n < 16, (s0.port 0 0 n).act = false) ∧ (∀ n < 4, (s0.me.chan n).chain = none) ∧
      ((s0.core 0).cmds.all fun q => q.ctx != 0) = true ∧ s0.before ⟨0, 0, .ap⟩ .system true = [] ∧ s0.before ⟨0, 0, .xp⟩ .system true = [] ∧
      (apState { xp := { active := true } }).me.xp.active = true ∧ (sysState {}).cur.tid.ctx = 4 := by decide +kernel

/-! ### The XP -/

/-- v1 is clean, lane 0 of v2 is poisoned, m1 is poisoned and m2 is not, x1 = 2000h, x3 is poisoned. -/
def vregs : Ctx :=
  { v := [(1, { v := 7 }), (2, { v := 9, bad := 1 })], m := [(1, { bad := true }), (2, { v := 5 })], x := [(1, { v := 0x2000 }), (3, { bad := true })] }
def x0 : State := xpState vregs

/-- Of `VectorFormsChangeOnlyTheirDestination` and `ScalarFormsChangeOnlyWhatTheyName`: a register and a port for destination; a mask,
a scalar and a loop form. -/
theorem witness_xpFormsChangeOnlyWhatTheyName :
    (∃ t, exec (.vadd {} (v 3) (v 1) (v 1) .i32) x0 = .next t ∧ t.me.trapped = false) ∧
    (∃ t, exec (.vmov {} { lvl := .port, idx := 2 } (v 1)) (xpState { vregs with ports := [(2, { cfg := sink, act := true })] }) = .next t ∧
      t.me.trapped = false) ∧
    (∃ t, exec (.mnot {} 3 2) x0 = .next t ∧ t.me.trapped = false) ∧ (∃ t, exec (.xadd {} 4 1 (.imm 1)) x0 = .next t ∧ t.me.trapped = false) ∧
    (∃ t, exec (.xloopImmediate {} 0 3 12) x0 = .next t ∧ t.me.trapped = false) ∧ (∃ t, exec (.xlane {} 4 (v 1) 3) x0 = .next t ∧ t.me.trapped = false) ∧
    (∃ t, exec (.vbpfx {} (v 3) (v 1) 1) x0 = .next t ∧ t.me.trapped = false) ∧ x0.cur.tid.half = .xp :=
  ⟨⟨_, rfl, rfl⟩, ⟨_, rfl, by decide +kernel⟩, ⟨_, rfl, rfl⟩, ⟨_, rfl, rfl⟩, ⟨_, rfl, rfl⟩, ⟨_, rfl, by decide +kernel⟩,
    ⟨_, rfl, by decide +kernel⟩, rfl⟩

/-- Of `RegisterOperandsAreRead`: registers of each level, the last vector that the context has and the first that it has not. -/
theorem witness_registerOperandsAreRead :
    (∀ o ∈ [v 31, { lvl := .file, idx := 7 }, { lvl := .latch, idx := 1 }], regReady (xpIn {} x0) o = true) ∧
      (x0.me.mreg 0).bad = false ∧ (x0.me.mreg 1).bad = true ∧ x0.me.mains 0 ≤ x0.me.index (v 32) := by decide +kernel

/-- Of `PortsArePoppedAndPushed`: a source with a full line, one past its end, one that is empty; a sink with room, one that is full, one
past its end. -/
theorem witness_portsArePoppedAndPushed :
    let p := fun (q : Port) => (xpState { vregs with ports := [(2, q)] })
    let l : Line := { pos := {}, full := true }
    (∀ q ∈ [({ cfg := plain, act := true, lines := [l] } : Port), { cfg := plain, act := true, ended := true }, { cfg := plain, act := true }],
      (2 < (p q).me.streamCount 0) ∧ ((p q).port 0 0 2).act = true ∧ Conf.sink ((p q).port 0 0 2).cfg = false ∧ q.flt = false ∧ q.restored = 0) ∧
    (∀ q ∈ [({ cfg := sink, act := true, lines := [l, l, l] } : Port), { cfg := sink, act := true, lines := [l, l, l, l] },
        { cfg := sink, act := true, ended := true }],
      ((p q).port 0 0 2).act = true ∧ Conf.sink ((p q).port 0 0 2).cfg = true ∧ q.flt = false ∧ q.needsLatch = false) ∧
    Conf.ring sink = 4 := by decide +kernel

/-- Of the element-wise, float, conversion, move, mask, reduction and scan forms: operands that are clean, and that are not. -/
theorem witness_vectorForms :
    xpGo {} x0 = true ∧ takes (v 3) x0 ∧ takes { lvl := .file, idx := 7 } x0 ∧ takes { lvl := .latch, idx := 1 } x0 ∧
    (∃ act va vb t, hasOperands {} (some (v 3)) [v 1, v 1] x0 act [va, vb] t ∧ clean act [va, vb] = true) ∧
    (∃ act va vb t, hasOperands {} (some (v 3)) [v 1, v 2] x0 act [va, vb] t ∧ clean act [va, vb] = false) ∧
    (∃ act va vb vc t, hasOperands {} (some (v 3)) [v 1, v 1, v 1] x0 act [va, vb, vc] t ∧ clean act [va, vb, vc] = true) ∧
    (∃ act va t, hasOperands {} (some (v 3)) [v 1] x0 act [va] t ∧ clean act [va] = true) ∧
    (∃ act va t, hasOperands {} (some (v 3)) [v 2] x0 act [va] t ∧ clean act [va] = false) ∧
    (∃ act va vb vc t, hasOperands {} (some (v 3)) [v 1, v 1, v 2] x0 act [va, vb, vc] t ∧ clean act [va, vb, vc] = false) ∧
    (∃ act t, hasOperands {} (some (v 3)) [] x0 act [] t) ∧
    (∃ act va t, hasOperands {} none [v 1] x0 act [va] t) ∧
    (∃ act va vb t, hasOperands {} none [v 1, v 1] x0 act [va, vb] t ∧ clean act [va, vb] = true) ∧
    (x0.me.mreg 1).bad = true ∧ (x0.me.mreg 2).bad = false ∧ (x0.me.xreg 1).bad = false ∧ (x0.me.xreg 3).bad = true ∧ canUseX x0 (.reg 1) = true :=
  ⟨rfl, fun _ => ⟨_, rfl⟩, fun _ => ⟨_, rfl⟩, fun _ => ⟨_, rfl⟩, ⟨_, _, _, _, rfl, by decide +kernel⟩, ⟨_, _, _, _, rfl, by decide +kernel⟩,
    ⟨_, _, _, _, _, rfl, by decide +kernel⟩, ⟨_, _, _, rfl, by decide +kernel⟩, ⟨_, _, _, rfl, by decide +kernel⟩,
    ⟨_, _, _, _, _, rfl, by decide +kernel⟩, ⟨_, _, rfl⟩, ⟨_, _, _, rfl⟩, ⟨_, _, _, _, rfl, by decide +kernel⟩,
    by decide +kernel⟩

/-- Of `TheFractionExponentialIsRoundedOnce` and the fraction exponential of `VectorFloatForms`: a half, the least code above it, a NaN. -/
theorem witness_theFractionExponential :
    floatVal f32F 0x3F000000 = .fin false 0x800000 (-24) ∧ floatVal f32F 0xBF000001 = .fin true 0x800001 (-24) ∧
      (∀ g m e, floatVal f32F 0x7FC00000 ≠ .fin g m e) := by
  refine ⟨by decide +kernel, by decide +kernel, fun g m e h => ?_⟩
  exact absurd h (by rw [show floatVal f32F 0x7FC00000 = .nan from by decide +kernel]; exact nofun)

/-- The half lies in the domain of the exponential, and the code above it does not. -/
theorem witness_theExponentialsDomain :
    2 * ((0x800000 : ℕ) : ℝ) * (2 : ℝ) ^ (-24 : ℤ) ≤ 1 ∧ 1 < 2 * ((0x800001 : ℕ) : ℚ) * (2 : ℚ) ^ (-24 : ℤ) := by norm_num

/-- Of `VectorConversionForms`: the last part of a widening and of a narrowing, whose chunks are clean. -/
theorem witness_vectorConversionForms :
    let va : VV := { v := 7 }
    (3 : BitVec 3).toNat < max Fmt.f32.bits Fmt.e4m3.bits / min Fmt.f32.bits Fmt.e4m3.bits ∧ 0 < Fmt.f32.bits ∧ 4 ≤ Fmt.e4m3.bits ∧
      (∀ k < 64, va.bad.getLsbD ((8 * (3 * 64 + k)) / 64) = false) ∧ (∀ k < 64, va.bad.getLsbD (32 * k / 64) = false) := by decide +kernel

/-- Of `XpScalarLoopAndBranchForms`: counts, ends, headers and stacks on each side of their limits; branch tests that can be made. -/
theorem witness_xpScalarLoopAndBranchForms :
    let e := fun (f : BitVec 18) => x0.cur.pc + f.toNat
    let hdr := leBytes 4 (63 * 2 ^ 26) ++ leBytes 16 0x0308
    let s := xpState vregs { imem := placeBytes [] 0x84 hdr }
    (e 4 ≤ x0.cur.pc + 4) ∧ ¬ (e 8 ≤ x0.cur.pc + 4) ∧ e 8 % 4 = 0 ∧ e 6 % 4 ≠ 0 ∧ ¬ (e 28 ≤ x0.cur.pc + 24) ∧ x0.me.xpLoops.length < 4 ∧
      (s.core 0).dataLiteral s.cur.pcn = some 0x0308 ∧ headerOk 0x0308 1 = true ∧
      (BitVec.ofNat 64 x0.cur.pc + (8 : BitVec 32).signExtend 64).toNat % 4 = 0 ∧
      (BitVec.ofNat 64 x0.cur.pc + (6 : BitVec 32).signExtend 64).toNat % 4 ≠ 0 ∧ x0.me.xpLoops = [] ∧ 3 < x0.me.streamCount 0 := by decide +kernel

/-- Of `VectorAccessForms`: the last lanes of the scratchpad, and the first offset past them; indices that fit, and that do not. -/
theorem witness_vectorAccessForms :
    let fits := fun (x : Int) (m : Nat) => 0 ≤ x ∧ x % m = 0 ∧ x + m ≤ 0x200000
    (∀ j < 64, fits (0x1FFF00 + 4 * (j : Nat)) 4) ∧ ¬ fits (0x1FFF04 + 4 * (63 : Nat)) 4 ∧ ¬ fits 2 4 ∧
      (∀ j < 64, fits ((0x2000 : Int) + ((({ v := 7 } : VV).lane j * 4 : Nat) : Int)) 4) ∧
      ((x0.me.xreg 1).v.toNat : Int) + (0x1FDF00 : BitVec 32).toInt = 0x1FFF00 := by decide +kernel

theorem witness_vectorAccessOperands :
    (∃ act t, hasOperands {} (some (vmOpnd { idx := 3 })) [] x0 act [] t) ∧
    (∃ act va t, hasOperands {} (some (vmOpnd { idx := 3 })) [v 1] x0 act [va] t ∧ clean act [va] = true) ∧
    (∃ act va vb t, hasOperands {} none [v 2, v 1] x0 act [va, vb] t ∧ clean act [vb] = true) :=
  ⟨⟨_, _, rfl⟩, ⟨_, _, _, rfl, by decide +kernel⟩, ⟨_, _, _, _, rfl, by decide +kernel⟩⟩

/-- Of `WeightForms`: a bank that is full and one that is not, options that are allowed and that are not, a mask register, a queue with
one place and one that is full. -/
theorem witness_weightForms :
    let full := xpState { vregs with mx := { bankB := { fmt := .e4m3, fp := 32 } } }
    let q := fun n => xpState vregs { arrayQ := List.replicate n (.swap 0) }
    (full.me.mx.bank (!full.me.mx.actB)).fp = 128 / vecsOf .e4m3 ∧ (x0.me.mx.bank (!x0.me.mx.actB)).fp = 0 ∧ (x0.me.greg 5).full = true ∧
      (x0.me.greg 5).bad = false ∧ arrayRoom (q 7) = true ∧ arrayRoom (q 8) = false ∧ xpGo {} (q 7) = true ∧ xpGo {} full = true ∧
      skipGroups (x0.me.greg 5).v 41 (64 / vecsOf .e4m3) (128 / vecsOf .e4m3) 5 0 ≤ 128 / vecsOf .e4m3 ∧ x0.cur.tid.ctx ≠ 4 := by decide +kernel

/-- Of `MultiplicationAndReadoutForms`: an element on the last rows and one past them, groups that the bank has and one more, an element
that is poisoned, readouts at the end of the scratchpad and past it. -/
theorem witness_multiplicationAndReadoutForms :
    let va : VV := { v := 7 }
    xpGo {} x0 = true ∧ arrayRoom x0 = true ∧ 64 - vecsOf .e5m2 + vecsOf .e5m2 ≤ 64 ∧ ¬ (63 + vecsOf .e5m2 ≤ 64) ∧
      (match elemBad .e5m2 va.bad with | none => true | _ => false) = true ∧
      (match elemBad .e5m2 1 with | some _ => true | _ => false) = true ∧ x0.me.mx.bankA.rowMajor = false ∧ (1 : BitVec 2).toNat + 1 ≤ 128 / 64 ∧
      ¬ ((2 : BitVec 2).toNat + 1 ≤ 128 / 64) ∧ 0x1FFF00 + 256 ≤ 0x200000 ∧ 0x200000 < 0x1FFF04 + 256 ∧ (∀ q ∈ x0.reqs, q.id < (xpIn {} x0).nextId) := by
  decide +kernel

/-- Of `ScoutFenceAndWorkListPopForms`: a score whose keys are there and one whose are not; tile-mask registers full and empty. -/
theorem witness_scoutAndTileMaskForms :
    let s := xpState { vregs with mx := { recv := 0x7FFF }, g := [(2, { full := false })] }
    xpGo {} s = true ∧ s.cur.tid.ctx ≠ 4 ∧ (s.core 0).scoutQ = [] ∧ (∀ j < 16, (s.me.mx.recv ||| ((1 : BitVec 32) <<< 15)).getLsbD j = true) ∧
      (s.me.mx.recv ||| ((1 : BitVec 32) <<< 14)).getLsbD 15 = false ∧ 16 * 1 ≤ 16 ∧ (s.me.greg 1).full = true ∧ (s.me.greg 2).full = false := by
  decide +kernel

/-- Of the same: a list of two entries on the chip. -/
theorem witness_xpFencesAndWorkListPops :
    let s := xpState { vregs with wl := { front := [(7, false), (8, false)] } }
    xpGo {} s = true ∧ s.me.wl.flt = false ∧ s.me.wl.spN = 0 ∧ min s.me.wl.count 64 = 2 := by decide +kernel

/-! ### Engines and events -/

/-- A read, a write and an atomic in flight to DRAM that may perform, a write to a word of core 1, a read for a vector. -/
def rq (id : Nat) (op : ReqOp) : Req :=
  { id := id, tid := ⟨0, 0, .ap⟩, op := op, pa := 0x4000, n := 8, ord := .rc, mt := 0, ten := 3, sys := false }
/-- Tenant 3 owns the first 2^40 bytes. -/
def windowed (s : State) : State :=
  { s with dev := { s.dev with trans := [(3, { twbase := [(0, 0x3F)], twlimit := [(0, 0xFFFFFFF000)] })] } }
def withReqs (l : List Req) : State := { windowed s0 with reqs := l, nextId := 9 }

/-- Of `RequestsPerformWaitOrAreRefused`: requests that may perform, two writes of one chunk, one that waits behind another, one at a frozen
scratchpad, one outside its windows. -/
theorem witness_requestsPerformWaitOrAreRefused :
    (∀ q ∈ [{ rq 1 .read with dst := .areg 5 .q8 false 0 }, rq 1 .write, { rq 1 .add with dst := .areg 5 .q8 false 0 },
        { rq 1 .read with dst := .vec 3 0 2 .n32 }],
      let s := withReqs [q]
      (match s.req 1 with | some x => decide (x = q) | none => false) = true ∧ s.mayPerform q = true ∧ decide (s.chunk q = [q]) = true ∧
        (inSpad q.pa && s.frozen (spadCore q.pa)) = false ∧ s.reqAllowed q = true ∧ inRegs q.pa = false ∧ s.badIn q.pa 8 = false) ∧
    (let q := { rq 1 .write with n := 4, grp := some (7, 0) }
     let r := { rq 2 .write with n := 4, pa := 0x4004, grp := some (7, 0) }
     let s := withReqs [q, r]
     decide (s.chunk q = [q, r]) = true ∧ ([q, r].all s.mayPerform) = true ∧ s.reqAllowed q = true) ∧
    (let s := withReqs [rq 1 .write, rq 2 .write]
     (rq 2 .write).plain = true ∧ s.mayPerform (rq 2 .write) = false) ∧
    (let q := { rq 1 .write with pa := spad 1 0, mt := 3 }
     let s := { withReqs [q] with cores := SMap.put s0.cores 1 { freezes := 1 } }
     (s.chunk q).all s.mayPerform = true ∧ (inSpad q.pa && s.frozen (spadCore q.pa)) = true) ∧
    (let q := { rq 1 .write with tid := ⟨0, 4, .ap⟩, ten := 16 }
     let s := { withReqs [q] with dev := {} }
     (s.chunk q).all s.mayPerform = true ∧ s.reqAllowed q = false ∧ q.dst = .none ∧ (s.src 0 4).log = none ∧ s.dev.log.room = false) := by decide +kernel

/-- Of `DataUnitsAndWorkListsArrive`: data, a delivery, a token and a walk that can arrive; queues with an operation; a trap pending; work
lists that spill and take back. -/
theorem witness_dataUnitsAndWorkListsArrive :
    (let q := { rq 1 .read with dst := .areg 5 .q8 false 0, done := true }
     (match (withReqs [q]).req 1 with | some x => decide (x = q) | none => false) = true ∧ (withReqs [q]).frozen 0 = false) ∧
    (let d : Deliv := .mask 0 0 1 5 false
     ({ s0 with delivs := [(1, d)] } : State).canDeliver d = true ∧ s0.frozen (delivAt d).1 = false) ∧
    (let k : Tok := { id := 1, src := ⟨0, 0, .ap⟩, dst := ⟨1, 0, .ap⟩, chan := 4, after := [], held := false }
     ({ s0 with toks := [k] } : State).tokenFree k = true ∧ s0.farCut 0 1 = false ∧ s0.frozen 1 = false) ∧
    (let pte := 0x407F
     let s := { (windowed s0).store none (8 * vaIndex 0x8000 0) (leBytes 8 pte) false with
       tlb := [], walk := [⟨0, 3, 1, 0, 1⟩] }
     let s := { s with dev := { s.dev with trans := [(3, { s.trans 3 with ptroot := 1 })] } }
     0x8000 < 2 ^ 57 ∧ (s.tlbHit 0 (s.ctxTenant 0 0) 0x8000).isNone = true ∧
      (match s.walkVa 0 (s.ctxTenant 0 0) 0x8000 .read with | .ok l => l.pte == pte | .error _ => false) = true) ∧
    ((xpState {} { arrayQ := [.read 0 0 0 true 3, .clear 0 1 2] }).core 0).arrayQ ≠ [] ∧
    ((xpState {} { scoutQ := [.key 0 1 2 3] }).core 0).scoutQ ≠ [] ∧
    (let s := xpState { mx := { pend := some ⟨0, 0x80, false, 0, 0⟩ } }
     s.me.mx.pend = some ⟨0, 0x80, false, 0, 0⟩ ∧ s.me.trapped = false ∧ s.me.halted = false ∧ s.me.ending = false ∧ s.me.bind.isSome = true ∧ s.me.xp.inWord = false) ∧
    (let w : WorkList := { base := 0x2000, cfg := 0x0001000000000000, back := List.replicate 512 (7, false) }
     let s := apState { wl := w }
     512 ≤ w.back.length ∧ w.spN < w.nch ∧ w.flt = false ∧
      (match s.xlat (s.rq 0 0 10) 0x2000 2048 2048 .write with | (.ok p, t) => !t.notNow 0 p.pa 2048 | _ => false) = true ∧
      (match s.xlat (s.rq 0 0 10) 0x2000 2048 2048 .read with | (.ok p, t) => !t.notNow 0 p.pa 2048 | _ => false) = true) := by decide +kernel

/-- Of `WaitsBarriersHandlersAndFreezes`: waits before and at their deadline and limit, arrivals at a barrier, pending contexts, a parked
port, one freeze and two, errors of one cycle, a vector raised and one masked. -/
theorem witness_waitsBarriersHandlersAndFreezes :
    (let w : Stall := { issued := true, since := 0, acc := 0, deadline := some 5 }
     let s := { apState { ap := { stall := some w } } with gtc := 5 }
     (s.half s.cur.tid).stall = some w ∧ s.runnable s.cur.tid = true ∧ s.cur.tid.ctx ≠ 4 ∧ (s.core 0).watchdog.toNat ≠ 0 ∧
      (5 : Nat) < (s.core 0).watchdog.toNat ∧ s.me.elide = none) ∧
    (let w : Stall := { issued := true, since := 0, acc := 0x989680, deadline := none }
     let s := apState { ap := { stall := some w } }
     (s.core 0).watchdog.toNat ≤ w.acc + (s.gtc - w.since)) ∧
    (let m : BarMsg := { id := 1, src := ⟨0, 0, .ap⟩, core := 1, bar := 7 }
     let s := ({ s0 with barMsgs := [m] } : State).setBar 1 7 { e := 1, a := 0, p := false }
     (s.barMsgs.find? fun m => m.id == 1) = some m ∧ s.farCut 0 1 = false ∧ s.frozen 1 = false ∧ (s.bar 1 7).e ≠ 0 ∧ (s0.bar 1 7).e = 0) ∧
    (let s := oneCore { ctxs := [(1, { pend := true })] }
     (s.ctx 0 4).ap.active = false ∧ (s.core 0).doubleTrap = false ∧ s.frozen 0 = false ∧ (s.ctx 0 1).pend = true ∧ (s.ctx 0 0).pend = false) ∧
    ((oneCore { parkQ := [(0, 2)] }).core 0).parkQ ≠ [] ∧ ((oneCore { freezes := 1 }).core 0).freezes = 1 ∧
      1 < ((oneCore { freezes := 2 }).core 0).freezes ∧
    (let s : State := { dev := { msix := [(3, 7)], msixPend := [(3, 9)] } }
     s.dev.msix[0]? = some (3, 7) ∧ s.dev.msixPend[0]? = some (3, 9) ∧ s.dev.tripped = false) ∧
    (let s := oneCore { freezes := 1, ceAt := some 0 }
     (s.core 0).freezes ≠ 0 ∧ (s.core 0).ceAt = some s.cc) := by decide +kernel

/-- A COPY of 16 bytes from local offset 100h to 200h, tag 2, within the scratchpad. -/
def small : Blk :=
  BitVec.ofNat 512 (0x0000000030027701 + 0x100 * 2 ^ 64 + 0x200 * 2 ^ 128 + 0x0001000100010010 * 2 ^ 192 + 0x0001001000000000 * 2 ^ 448)
def cmd (b : Blk) (ph : CmdPhase) : Cmd := { id := 1, ctx := 0, ten := 3, chan := 0, tag := 2, xid := 1, blk := b, phase := ph }
def running (q : Cmd) : State := { apState { regs with counts := [(2, 1)] } with cores := [(0, { ctxs := s0.core 0 |>.ctxs, cmds := [q] })] }

/-- Of `CopyCommandsRunAndMoveTheirBytes`. -/
theorem witness_copyCommandsRunAndMoveTheirBytes :
    let q := cmd small .waiting
    let s := running q
    (s.core 0).cmd 1 = some q ∧ s.canStart 0 q = true ∧ Blk.kind small = 1 ∧ Blk.dspace small = 0 ∧ Blk.srcl small = true ∧ Blk.dstl small = true ∧
      Blk.xpose small = false ∧ Blk.sfmt small = .n8 ∧ Blk.sfmtCode small = Blk.dfmtCode small ∧ Blk.count small 0 = 16 ∧ Blk.count small 1 = 1 ∧
      Blk.count small 2 = 1 ∧ Blk.count small 3 = 1 ∧ Blk.bound small 0 = 16 ∧ Blk.bound small 1 = 1 ∧ Blk.src small + 16 ≤ 0x200000 ∧
      Blk.dst small + 16 ≤ 0x200000 ∧ q.res.codec = 0 ∧
      (match outcome (runEngine (copyAll small) (s.eng 0 q)) with
        | some (none, e) => ((e.s.core 0).cmd 1).isSome
        | _ => false) = true := by decide +kernel

/-- A block of a kind and format from local offset 100h to 200h, tag 2, with these counts and more bits. -/
def kindOf (k f : Nat) (counts more : Nat := 0) : Blk :=
  BitVec.ofNat 512 (0x30020000 + f * 0x1100 + k + 0x100 * 2 ^ 64 + 0x200 * 2 ^ 128 + counts * 2 ^ 192 + more)
def table8 : CodecTable := { tid := 0, fmt := .f4, lens := List.replicate 16 4 }
def coded (k more : Nat) : Cmd := { cmd (kindOf k 5 1 more) .running with table := some table8 }
/-- Of `RowCommandsRunAndComplete`: a command that has ended, its tag's last, and one that has not; one timed that may go; a reply that may
arrive, and one at a frozen core; codec commands at their turn and before it. -/
theorem witness_rowCommandsRunAndComplete :
    (let q := cmd small .ended
     let s := running q
     (s.core 0).cmd 1 = some q ∧ s.frozen 0 = false ∧ q.tag < 64 ∧ (s.ctx 0 0).counts.get 0 2 - 1 = 0 ∧ (s.ctx 0 0).copyStat.getLsbD 0 = false ∧
      ((s.ctx 0 0).chan 0).ahead = [] ∧ q.xid = (((s.ctx 0 0).chan 0).mark + 1) % 2 ^ 32) ∧
    (let q := { cmd small .waiting with time := some 0 }
     let s := running q
     (s.core 0).cmd 1 = some q ∧ 0 ≤ s.gtc ∧ (cmd small .waiting).phase ≠ .ended) ∧
    (let q := { cmd (kindOf 3 7 0x0001000100010010) .running with rows := [(4, 5)] }
     let s := running q
     let w := { q with phase := .waiting, rows := [] }
     Blk.kind q.blk = 3 ∧ q.rows.has 4 = true ∧ s.frozen 0 = false ∧ (running w).canStart 0 w = true ∧
      (match runEngine (rreadRows q.blk 0 (Blk.count q.blk 1)) (((running w).passTurn 0 w).eng 0 w) with | (.ok _, e) => ((e.s.core 0).cmd 1).isSome | _ => false) = true ∧
      (match outcome (runEngine (replyRow q.blk (spad 0 5) 4) (s.eng 0 q)) with | some (_, e) => ((e.s.core 0).cmd 1).isSome | _ => false) = true ∧
      s.farCut 0 (bits (q.rows.get 0 4) 28 21) = false ∧ s.pathHolds 0 (spad 0 5) (Blk.rowIn q.blk) = false) := by decide +kernel

theorem witness_codecCommandsRun :
    (Blk.kind (kindOf 7 5 1) = 7 ∧ Blk.kind (kindOf 8 5 1) = 8 ∧ Blk.count (kindOf 7 5 1) 0 ≠ 0 ∧
      (running (cmd (kindOf 7 5 1) .waiting)).canStart 0 (cmd (kindOf 7 5 1) .waiting) = true) ∧
    (let q := coded 7 0
     let s := running q
     inTurn decodePlaces (s.core 0).decTurn (s.decodeReady 0) (80 + q.place) = true ∧
      inTurn decodePlaces (s.core 0).decTurn (s.decodeReady 0) (80 + q.place + 1) = false ∧
      (match outcome (runEngine (decodeOne q.blk table8 0) (s.eng 0 q)) with | some (_, e) => ((e.s.core 0).cmd 1).isSome | _ => false) = true) ∧
    (let q := coded 8 0
     let s := running q
     inTurn 20 (s.core 0).encTurn ((s.core 0).blocksReady 8) q.place = true ∧ inTurn 20 (s.core 0).encTurn ((s.core 0).blocksReady 8) 7 = false) := by
  decide +kernel

/-- Of `RowCommandsPlaceTheirBytes`: a GATHER of two rows of which the second is null, and a POOL of a bag of two; a CSR whose two values
fit, and one whose values do not. -/
theorem witness_rowCommandsPlaceTheirBytes :
    (let q := cmd (kindOf 2 7 0x0001000100020010 (16 * 2 ^ 256 + 16 * 2 ^ 352 + 0x300 * 2 ^ 448)) .waiting
     let s := (running q).store none (spad 0 0x304) (leBytes 4 0xFFFFFFFF) false
     (s.core 0).cmd 1 = some q ∧ s.canStart 0 q = true ∧ Blk.kind q.blk = 2 ∧ Blk.dspace q.blk = 0 ∧ Blk.srcl q.blk = true ∧ Blk.dstl q.blk = true ∧
      Blk.sfmt q.blk = .n8 ∧ Blk.sfmtCode q.blk = Blk.dfmtCode q.blk ∧ Blk.count q.blk 0 = 16 ∧ Blk.count q.blk 1 = 2 ∧ Blk.src q.blk = 0x100 ∧
      Blk.dst q.blk = 0x200 ∧ Blk.sstr q.blk 1 = 16 ∧ Blk.dstr q.blk 1 = 16 ∧ Blk.idxAt q.blk = 0x300 ∧ s.badIn (spad 0 0x300) 8 = false ∧
      s.nat (spad 0 0x300) 4 = 0 ∧ s.nat (spad 0 0x304) 4 = 0xFFFFFFFF ∧ s.badIn (spad 0 0x100) 16 = false) ∧
    (let q := cmd (kindOf 4 7 0x0001000100020010 (16 * 2 ^ 256 + 16 * 2 ^ 352 + 0x300 * 2 ^ 448 + 0x400 * 2 ^ 480)) .waiting
     let s := running q
     s.canStart 0 q = true ∧ Blk.kind q.blk = 4 ∧ Blk.count q.blk 0 = 16 ∧ Blk.count q.blk 1 = 2 ∧ Blk.count q.blk 2 = 1 ∧ Blk.idxAt q.blk = 0x300 ∧
      Blk.wgtAt q.blk = 0x400 ∧ s.badIn (spad 0 0x300) 8 = false ∧ s.badIn (spad 0 0x400) 8 = false ∧ s.nat (spad 0 0x304) 4 = 0 ∧
      8 ≤ (Blk.sfmt q.blk).bits ∧ 8 ≤ (Blk.dfmt q.blk).bits) ∧
    (∀ cap ∈ [1, 2],
     let q := cmd (kindOf 6 7 0x0001000100020010 (16 * 2 ^ 256 + 0x600 * 2 ^ 352 + cap * 2 ^ 416 + 0x500 * 2 ^ 448)) .waiting
     let s := (running q).store none (spad 0 0x101) (leBytes 8 0x0500000000000007) false
     s.canStart 0 q = true ∧ Blk.kind q.blk = 6 ∧ Blk.count q.blk 0 = 16 ∧ Blk.count q.blk 1 = 2 ∧ Blk.cap q.blk = cap ∧ Blk.aux q.blk 63 0 = 0x500 ∧
      Blk.rowPtr q.blk = 0x600 ∧ s.nat (spad 0 0x101) 1 = 7 ∧ s.nat (spad 0 0x108) 1 = 5 ∧ s.badIn (spad 0 0x100) 32 = false) := by decide +kernel

set_option maxRecDepth 100000 in
/-- Of `HistogramsTablesAndBlocksHoldTheirBytes`: a HIST of 16 bytes, a BUILD, a DECODE of a block that decodes, an ENCODE. -/
theorem witness_histogramsTablesAndBlocks :
    (let q := cmd (kindOf 9 3 1 (15 * 2 ^ 480)) .waiting
     (running q).canStart 0 q = true ∧ Blk.kind q.blk = 9 ∧ Blk.dspace q.blk = 0 ∧ codecFmt (Blk.sfmt q.blk) = true ∧ Blk.count q.blk 0 = 1 ∧
      Blk.valid q.blk 0 = 16) ∧
    (let q := cmd (kindOf 10 3) .waiting
     (running q).canStart 0 q = true ∧ Blk.kind q.blk = 10 ∧ codecFmt (Blk.dfmt q.blk) = true) ∧
    (let q := coded 7 (17 * 2 ^ 37)
     let s := (running q).store none (spad 0 0x100) (leBytes 8 0x351) false
     Blk.dsz q.blk = 17 ∧ Blk.srcl q.blk = true ∧ s.badIn (spad 0 0x100) 4352 = false ∧
      (decodeBlock table8 (s.bytes (spad 0 0x100) 4352)).isSome = true ∧
      inTurn decodePlaces (s.core 0).decTurn (s.decodeReady 0) (80 + q.place) = true) ∧
    (let q := coded 8 0
     Blk.dstl q.blk = true ∧ Blk.dst q.blk + 4352 * 0 + 4352 ≤ 0x200000) := by decide +kernel

set_option maxRecDepth 100000 in
/-- Of `EncodedBlocksDecodeToTheirBytes`: a table that the codec takes. -/
theorem witness_aTableThatTheCodecTakes : tableOf (tableBlock 0 .f4 (List.replicate 16 4)) = some table8 := by decide +kernel

/-- A local nest of two elements of four E4M3 items, for a source or a sink. -/
def localConf (sink : Bool) : Conf :=
  [(0, if sink then 0x53 else 0x13), (1, 0x2000), (2, 0x0001000100020004), (3, 0x3F80000000010001), (4, 0x100), (7, 0x6800)]
def items4 : List Item := (List.range 4).map fun j => { pa := some (spad 0 (0x2000 + j)), ord := 2, nib := false }

/-- Of `StreamElementsMoveAndArrive`: a local source with a free line, one with a line whose items have come, a sink with an element; a
source that sends, with its target; a masked source. -/
theorem witness_streamElementsMove :
    (let s := portState { cfg := localConf false, act := true }
     s.engineOn 0 0 2 false = true ∧ Conf.isPeer (localConf false) = false ∧ Conf.pval (localConf false) = false ∧ Conf.unfolds (localConf false) = [] ∧
      (s.port 0 0 2).ended = false ∧ Conf.atEnd (localConf false) (s.port 0 0 2).fpos = false ∧ Conf.kind (localConf false) = 1 ∧
      Conf.fmtCode (localConf false) ≠ 5 ∧ 8 ≤ (Conf.fmt (localConf false)).bits ∧ Conf.count (localConf false) 0 = 4 ∧
      Conf.keeps (localConf false) (s.port 0 0 2).mask (s.port 0 0 2).fpos = true ∧
      (match s.placeItems 0 0 2 (localConf false) .source {} 4 with
        | (.ok l, _) => l.length == 4 && (Conf.scaleMiss (localConf false) {} l).isNone
        | _ => false) = true) ∧
    (let l : Line := { pos := {}, full := false, items := items4 }
     let s := portState { cfg := localConf false, act := true, lines := [l] }
     s.frozen 0 = false ∧ (l.items.any (·.ord == 0)) = false ∧ (s.itemsCut 0 (Conf.itemBytes (localConf false)) l.items).isNone = true ∧
      l.items.length * 1 ≤ 256 ∧ (s.readElem (s.src 0 0) (localConf false) l.items).1.v = 0) ∧
    (let l : Line := { pos := {}, full := true }
     let s := portState { cfg := localConf true, act := true, lines := [l] }
     s.engineOn 0 0 2 true = true ∧ Conf.isPeer (localConf true) = false ∧
      (match s.placeItems 0 0 2 (localConf true) .sink {} 4 with
        | (.ok l, t) => (t.itemsCut 0 (Conf.itemBytes (localConf true)) l).isNone
        | _ => false) = true) ∧
    (let c : Conf := SMap.put (SMap.put (localConf false) 0 (0x13 + 2 ^ 40)) 7 0x300000006800
     let s := apState { regs with ports := [(2, { cfg := c, act := true }), (3, { cfg := SMap.put plain 0 0x23, act := true })] }
     Conf.pval c = true ∧ s.engineOn 0 0 2 false = true ∧ (s.port 0 0 2).fpos.atOrAfter (s.port 0 0 2).sendFrom = true ∧
      (match s.sending 0 0 2 with | .to y => y == (0, 0, 3) | _ => false) = true) ∧
    (let s := portState { cfg := source, act := true }
     (s.port 0 0 2).wantsMask = true ∧ s.frozen 0 = false ∧ (s.me.g.get {} (Conf.mreg source)).full = true ∧
      (s.me.g.get {} (Conf.mreg source)).bad = false) := by decide +kernel

set_option maxRecDepth 100000 in
/-- Of the same: an element at a peer source, at one that has ended, at a frozen core, at one that has gone; the end marker; a codec source
at its turn that wants its first block, before its turn, and the block that it reads. -/
theorem witness_streamElementsArrive :
    let e : Elem := { id := 1, core := 1, ctx := 0, sp := 0, toCore := 0, toCtx := 0, toSp := 2, data := 7, bad := 0, isEnd := false }
    let m : Elem := { e with isEnd := true, ready := true }
    let at_ := fun (p : Port) (e : Elem) => { portState { p with cfg := SMap.put plain 0 0x23, act := true } with elems := [e] }
    (∀ p ∈ ([{}, { ended := true }] : List Port), ∀ x ∈ [e, m], (at_ p x).behind x = false ∧ (at_ p x).farCut 1 0 = false ∧
      (at_ p x).lostTarget x = false ∧ ((at_ p x).port 0 0 2).peerSource = true ∧ (at_ p x).frozen 0 = false ∧
      ((at_ p x).port 0 0 2).lines.length < Conf.ring ((at_ p x).port 0 0 2).cfg) ∧
    (({} : State).lostTarget e = true ∧ ({} : State).lostTarget m = true) ∧
    ((at_ {} e).modCore 0 fun c => { c with freezes := 1 }).frozen 0 = true ∧
    (let c : Conf := SMap.put (SMap.put (localConf false) 0 0x35) 7 0x886800
     let p : Port := { cfg := c, act := true, table := some table8, lines := [{ pos := {}, full := false, items := (List.range 4).map fun j => { pa := some j } }] }
     let s := (windowed (portState p)).store none 0x4000 (leBytes 8 0x351) false
     (p.wants.map fun w => (w.1, w.2.2)) = some (0, 0) ∧ Conf.isCodec c = true ∧
      inTurn decodePlaces (s.core 0).decTurn (s.decodeReady 0) (16 * 0 + 2) = true ∧
      inTurn decodePlaces (s.core 0).decTurn (s.decodeReady 0) (16 * 0 + 3) = false ∧ (s.port 0 0 2).cst = 0 ∧
      (match runEngine (engRead false (engAddr (Conf.base c + (0 * (256 * Conf.dsz c) : Nat))) (256 * Conf.dsz c) .source)
          { s := s, rq := s.rq 0 0 7, src := s.src 0 0 } with
        | (.ok bs, _) => !(bs.any (·.2)) && (decodeBlock table8 (bs.map (·.1))).isSome
        | _ => false) = true) := by decide +kernel
/-! ### Chains, cards, Summit, partitions, the host, links, frames -/

/-- Counter 5 of tenant 3: four slots, enabled, and as asked. -/
def ctr5 (r : Ctr) (s : State) : State := { s with dev := { s.dev with launch := [(3, { lcfg := 0x101, ctrs := [(5, r)] })] } }
def chained (h : Chain) : State := apState { regs with chans := [(1, { chain := some h })] }
def open5 : Ctr := { count := 4, ccfg := 0x0A000002, short := some 0 }

/-- Of `ChainsAndCountersMove`: a chain whose next entry can be fetched, one whose next entry is malformed, one whose entry finds its slots
and one whose entry does not, a post that can be made and one of a command that failed, an audit that holds and one that does not. -/
theorem witness_chainsAndCountersMove :
    (let h : Chain := { next := some 0x2000, running := true }
     ∀ v ∈ [2 + 2 ^ 11, 7],
     let s := (windowed (chained h)).store none 0x4000 (leBytes 128 v) false
     s.chainOf 0 0 1 = some h ∧ s.frozen 0 = false ∧
      (match s.translate ⟨0, 0, 3, 8, 1⟩ 0x2000 128 .read with
        | (.ok ps, t) => !(ps.any fun p => (t.linkCut 0 p.1.pa).isSome) && !(ps.any fun p => t.notNow 0 p.1.pa p.2) &&
          (let r := t.readParts { ten := 3, log := some 3, core := 0, ctx := 0 } .read ps
           let e : ChainEntry := { va := 0x2000, raw := BitVec.ofNat 1024 (leNat r.1) }
           if v = 7 then e.malformed else !e.malformed && !e.wen && e.kind == 2 && e.last)
        | _ => false) = true) ∧
    (let e : ChainEntry := { va := 0x2000, raw := BitVec.ofNat 1024 (2 + 2 ^ 9 + 5 * 2 ^ 16 + 4 * 2 ^ 32) }
     let h : Chain := { next := some 0x2000, running := true, entry := some e }
     let s := ctr5 { open5 with waiters := [(0, 0, 1)] } (chained h)
     s.chainOf 0 0 1 = some h ∧ e.kind = 2 ∧ e.wen = true ∧ s.chainTenant 0 0 h = 3 ∧ (s.ctr 3 e.wctr).refusesWait = false ∧
      e.waits = true ∧ (s.ctr 3 e.wctr).waiters.head? = some (0, 0, 1) ∧ e.wcnt ≤ (s.ctr 3 e.wctr).count ∧
      ((ctr5 { open5 with count := 3 } s).ctr 3 e.wctr).count < e.wcnt) ∧
    (∀ st ∈ [0, 2],
     let p : ChainPost := { post := some (5, 2), cmd := none, last := true, status := some st }
     let h : Chain := { next := none, running := true, posts := [p] }
     let s := ctr5 open5 (chained h)
     s.chainOf 0 0 1 = some h ∧ p.status.getD 0 = st ∧ (s.ctr 3 5).en = true ∧ (s.ctr 3 5).parBad = false) ∧
    (let s := { ctr5 { open5 with count := 0 } s0 with gtc := 0x989680 }
     (s.ctr 3 5).short = some 0 ∧ s.shortfall 3 5 = true ∧ (s.launch 3).audit.toNat ≤ s.gtc - 0 ∧ (ctr5 open5 s).shortfall 3 5 = false ∧
      s.dev.tripped = false) := by
  decide +kernel

def card : Card :=
  { id := 1, ten := 3, cls := 0, va := 0x2000, kind := 1, irq := true, vec := 7, graph := 0x2000, node := 0, inst := 0, ninst := 1, work := 0,
    nodesLeft := 0 }
/-- Tenant 3 may bind, and has this card, node, step, and report. -/
def summit (c : Card) (r : NodeRun) (t : TileStep) : State :=
  { s0 with dev := { s0.dev with
    launch := [(3, { lcfg := 0x101, queues := [(0, { cards := [1] })], ctrs := [(5, { open5 with ccfg := 0x0C000000 })] })]
    cards := [c], runs := [r], steps := [t], reports := [⟨3, 0, 0, 0x2000⟩, ⟨3, 0, 5, 0x2000⟩] } }
def node : NodeRun := { id := 2, card := 1, inst := 0, node := 0, left := 0, xform := false, since := 0 }
def tstep : TileStep := { id := 3, run := 2, card := 1, ten := 3, cls := 0, inst := 0, node := 0, coord := [], valid := 0xFFFFFFFF, since := 0 }

/-- Of `CardsAreAcceptedAndEnd`: a report that follows the last value and one that does not, both launch modes, a trigger that fires, a
card that is over and one that is not. -/
theorem witness_cardsAreAcceptedAndEnd :
    let s := summit card node tstep
    (takeReport 3 0 s.dev.reports = some (⟨3, 0, 0, 0x2000⟩, [⟨3, 0, 5, 0x2000⟩])) ∧ (0 : Nat) = (s.queue 3 0).last ∧ 5 ≠ (s.queue 3 0).last ∧
      takeReport 3 1 s.dev.reports = none ∧ s.hostMode 3 0 = false ∧ s.dev.tripped = false ∧
      ({ s with dev := { s.dev with control := [(3, { fsplit := 1 })] } } : State).hostMode 3 0 = true ∧
      (let r := s.ctr 3 5
       r.en = true ∧ r.trg = true ∧ r.parBad = false ∧ 0 < r.count ∧ (s.launch 3).lcfg.getLsbD 8 = true ∧ cardState 3 0 s ≠ some 1) ∧
      (s.ctr 3 4).en = false ∧ (match s.card 1 with | some c => decide (c = card) | none => false) = true ∧ s.cardOver card = true ∧
      s.cardOver { card with nodesLeft := 1 } = false := by decide +kernel

/-- A graph of one node, its kernel header and its nest, at 2000h, with the successors named. -/
def graph (s : State) (succ : Nat) : State :=
  let put := fun (s : State) (p : Nat × Nat) => s.store none p.1 (leBytes 64 p.2) false
  [(0x4000, 1 + 2 ^ 32 + 0x2040 * 2 ^ 64), (0x4040, 0x2080 + 0x20C0 * 2 ^ 192 + succ * 2 ^ 272 + 0x2180 * 2 ^ 320),
    (0x4080, 0x40 + 0x80 * 2 ^ 32 + 8 * 2 ^ 64 + 4 * 2 ^ 72), (0x40C0, 1 + 2 ^ 96 + 7 * 2 ^ 100)].foldl put (windowed s)
def work : Card := { card with work := 0x2100 }

/-- Of `SummitBindsSteps`: a tenant that may bind and one that may not; a step whose structures are there, on a gang that meets its needs,
and one whose structures fail; an aged step that waits for what members of a lower class hold. -/
theorem witness_summitBindsSteps :
    (let s := graph (summit card node tstep) 0
     s.binds 4 = false ∧ s.binds 3 = true ∧ s.headStep 3 = some tstep ∧ tstep.aside = none ∧ s.card 1 = some card ∧ card.ten = 3 ∧
      s.bindable tstep = true ∧ fairNext s.rivals (lagsOf s.rivals s.dev.fairLag) = some 3 ∧
      (match (stepNeeds tstep card) s with
        | (.ok (d, h), u) =>
          u.candidate 3 h.shape h.vreq (d.imgva, d.imgoff, d.imglen) == some 0 &&
          (match (bindAll tstep d h (u.pickCtxs 0 0 (gangCores 0 h.shape))) u with | (.ok _, _) => true | _ => false) &&
          ((u.pickCtxs 0 0 (gangCores 0 h.shape)).length == 1)
        | _ => false) = true) ∧
    (let s := { summit card node tstep with tlb := [] }
     (match (stepNeeds tstep card) s with | (.error _, _) => true | _ => false) = true ∧ card.fail = none) ∧
    (let full := (List.range 8).map fun k =>
       (k, ({ ctxs := [(0, { bind := some { user with step := 9 + k, cls := 2, vreq := 128, nmain := 128 } })] } : Core))
     let s := { graph (summit card node { tstep with heldSince := some 0 }) 0 with cores := full, gtc := 2 ^ 40 }
     tstep.rank s.gtc (s.launch 3).age.toNat = 0 ∧ (s.launch 3).ylim.toNat ≤ s.gtc - 0 ∧ s.members 9 = [(0, 0)] ∧ s.binds 3 = true ∧
      s.cardOpen tstep = true ∧ (s.lowerSteps 3).contains 9 = true ∧ (s.lowerSteps 3).contains 3 = false ∧ s.waitsFor tstep 9 = true ∧
      s.waitsFor tstep 3 = false) := by decide +kernel

/-- Of `SummitCompletesNodes`: a transform node that can start, a chain that is over and one that failed, a node whose steps have ended with
no successor, and with one whose counter holds each of 0, 1, 2. -/
theorem witness_summitCompletesNodes :
    (let r := { node with xform := true, left := 1 }
     let s := graph (summit card r tstep) 0
     s.binds 3 = true ∧ s.dev.runs = [r] ∧ ((s.partition 3).find? fun k => s.channelFree k && s.reachable k) = some 0 ∧
      (match (atNode r.node (r.inst - card.inst) (stepNode card r.node)) s with | (.ok _, _) => true | _ => false) = true) ∧
    (∀ f ∈ [false, true],
     let r := { node with xform := true, chain := some 0 }
     let s := (summit card r tstep).modCtx 0 4 fun c => c.setChan 3 { c.chan 3 with chain := some { next := none, failed := f } }
     s.transformEnd r = some (!f) ∧ card.fail = none ∧ s.hostMode 3 1 = false) ∧
    ({ work with fail := some (3, 8, 0, 0) }.fail ≠ none ∧ (summit card node tstep).transformEnd node = none) ∧
    (∀ n ∈ [0, 1], ∀ v ∈ [0, 1, 2],
     let s := (graph (summit work node tstep) n).store none 0x4100 (leBytes 4 v) false
     let s0 : State := { s with dev := { s.dev with runs := [] } }
     node.left = 0 ∧ work.kind ≠ 3 ∧
      (match (stepNode work node.node) s0 with
        | (.ok (nn, nva, d), u0) => match (readSucc 3 nn d) u0 with
          | (.ok ss, u1) => ss == List.replicate n 0 && (match u1.xlat (sumRq 0 3) (work.work + 4 * nn * 0 + 4 * 0) 4 4 .atomic with
            | (.ok p, u2) => p.pa == 0x4100 && u2.windowOk 3 p.pa (p.pa + 3) .atomic && u2.nat p.pa 4 == v &&
              (match (readyNode work nn nva 0 0) (u2.storeNat none p.pa 4 0 (u2.badIn p.pa 4)) with | (.ok _, _) => true | _ => false)
            | _ => false)
          | _ => false
        | _ => false) = true) := by decide +kernel

def asideCtx : ParkedCtx := { ctx := 1, rank := 0, held := { bind := some user }, parked := [], cmds := [], toks := [] }
def asideStep : TileStep := { tstep with aside := some [(0, asideCtx)] }
/-- The step is set aside, and its image says the architecture revision and nothing else. -/
def asideState : State := (summit card node asideStep).store none ((summit card node asideStep).yieldAt 3 0 1) (leBytes 8 1) false

theorem word_readImg (s : State) (pa n i : Nat) : Img.word (s.readImg pa n) i = if i < n then s.nat (pa + 8 * i) 8 else 0 := by
  by_cases h : i < n <;> simp [Img.word, State.readImg, List.getD_eq_getElem?_getD, h]
theorem bad_readImg (s : State) (pa n i : Nat) : Img.bad (s.readImg pa n) i = (decide (i < n) && s.badWord (pa / 8 + i)) := by
  by_cases h : i < n <;> simp [Img.bad, State.readImg, List.getD_eq_getElem?_getD, h]
theorem fromWhole_ok (s : State) (k : Nat) (p : ParkedCtx) (w : Img) (h : imageHeadOk w = true) (h' : sectionsOk w = true)
    (b : banksOk w 13568 = true) (g : copiesOk w 13568 = true) (q : smallBad w = false) : ∃ c, s.fromWhole k p w = .ok c := by
  unfold State.fromWhole
  generalize copiesOk w 13568 = X at *
  generalize banksOk w 13568 = Y at *
  subst g b
  simp only [h, h', q]
  exact ⟨_, rfl⟩
theorem restoreAside_ok (s : State) (ten k : Nat) (p : ParkedCtx)
    (h : ∃ c, s.fromWhole k p (s.readImg (s.yieldAt ten k p.ctx) 23296) = .ok c) : ∃ cs, s.restoreAside ten [(k, p)] = .ok cs := by
  obtain ⟨c, h⟩ := h
  refine ⟨[(k, c)], ?_⟩
  simp only [State.restoreAside, List.mapM_cons, List.mapM_nil, h]
  rfl
theorem loadImages_held (s : State) (ten k : Nat) (p : ParkedCtx)
    (h : (s.core k).holds ((p.held.bind.map (·.img)).getD (0, 0, 0)) = true) : (loadImages ten [(k, p)]) s = (.ok (), s) := by
  show (loadImages ten [(k, p)]).run s = _
  simp only [loadImages, loadImage, ExceptT.run, bind, ExceptT.bind, ExceptT.mk, ExceptT.bindCont, StateT.bind, get, getThe, MonadStateOf.get,
    liftM, monadLift, MonadLift.monadLift, ExceptT.lift, StateT.get, pure, ExceptT.pure, StateT.pure, Functor.map, StateT.map, h, if_true]

def asideImg : Img := asideState.readImg (asideState.yieldAt 3 0 asideCtx.ctx) 23296
theorem aside_head : imageHeadOk asideImg = true := by
  simp only [imageHeadOk, asideImg, word_readImg]
  decide +kernel
theorem aside_sections : sectionsOk asideImg = true := by
  simp only [sectionsOk, Img.nat, asideImg, word_readImg]
  decide +kernel
theorem aside_banks : banksOk asideImg 13568 = true := by
  simp only [banksOk, asideImg, word_readImg]
  decide +kernel
theorem aside_copies : copiesOk asideImg 13568 = true := by
  simp only [copiesOk, asideImg, word_readImg]
  decide +kernel
theorem aside_poison : smallBad asideImg = false := by
  simp only [smallBad, Img.anyBad, asideImg, bad_readImg]
  decide +kernel

set_option maxRecDepth 1000000 in
/-- Of `StepsAreSetAsideAndBoundAgain`: a step whose member has halted at its YIELD, one whose member has not; a step set aside that can be
bound again, and one that cannot yet. -/
theorem witness_stepsAreSetAside :
    (let v := oneCore { ctxs := [(0, { bind := some { user with step := 9 }, halted := true, atYield := true })] }
     v.members 9 = [(0, 0)] ∧ (v.ctx 0 0).halted = true ∧ (v.ctx 0 0).atYield = true ∧ v.canPark 0 0 = true ∧ (v.ctx 0 0).elide = none ∧
      0 ∈ v.partition 3 ∧ (s0.ctx 0 0).halted = false) ∧
    (asideState.headStep 3 = some asideStep ∧ asideState.asideFits [(0, asideCtx)] = true ∧
      fairNext asideState.rivals (lagsOf asideState.rivals asideState.dev.fairLag) = some 3 ∧
      asideState.asideFits [(0, { asideCtx with ctx := 0 })] = false ∧ asideCtx.held.elide = none) ∧
    (∃ u cs, (loadImages 3 [(0, asideCtx)]) asideState = (.ok (), u) ∧ u.restoreAside 3 [(0, asideCtx)] = .ok cs) := by
  obtain ⟨cs, h⟩ := restoreAside_ok asideState 3 0 asideCtx (fromWhole_ok asideState 0 asideCtx asideImg aside_head aside_sections
    aside_banks aside_copies aside_poison)
  exact ⟨by decide +kernel, by decide +kernel, asideState, cs, loadImages_held asideState 3 0 asideCtx (by decide +kernel), h⟩

/-- The image of a DRAM part that holds nothing. -/
def emptyPart : Img := s0.readImg (imageAt 0 0 false) 9728
theorem swap_banks : banksOk emptyPart 0 = true := by
  simp only [banksOk, emptyPart, word_readImg]
  decide +kernel
theorem swap_copies : copiesOk emptyPart 0 = true := by
  simp only [copiesOk, emptyPart, word_readImg]
  decide +kernel

set_option maxRecDepth 1000000 in
/-- Of `PartitionsHaltAndSwap`: each swap asked for, a partition that can be parked, a parked set of one context that has room at its core
and whose image can be restored, and none. -/
theorem witness_partitionsHaltAndSwap :
    let c : ParkedCtx := { ctx := 0, rank := 0, held := { bind := some user }, parked := [], cmds := [], toks := [] }
    let p : Parked := { clusters := [0], ctxs := [c], bars := [] }
    let s := fun (n : Nat) (x : Ctx) => { oneCore { ctxs := [(0, x)] } with
      dev := { s0.dev with control := [(3, { swap := n })], parked := [(3, p)] } }
    let on : Ctx := { bind := some user, halted := true }
    (∀ n ∈ [1, 2, 3], ((s n on).control 3).swap = n) ∧ (s 1 on).canSwapOut 3 = true ∧ (0, 0) ∈ (s 1 on).boundOf 3 ∧
      s0.parkedSet 3 = none ∧ (s0.control 3).swap = 0 ∧ s0.dev.tripped = false ∧
    (let t := s 2 {}
     t.parkedSet 3 = some p ∧ t.roomFor 3 p = true ∧ p.host = false ∧ c.shadowBad = false ∧ c.held.elide = none ∧ c.held.trapped = false ∧
      t.backCore 3 p c.rank = some 0 ∧ t.gangBack 3 p c = true ∧ p.clusters.Nodup ∧ (t.core 0).holds (c.held.bind.getD {}).img = true ∧
      (t.backCore 3 p 9).isNone = true ∧ (t.backCore 3 { p with host := true } 0) = some 0 ∧ (t.ctx 0 0).redirect.isNone = true ∧
      Memory.wf t = true ∧ (t.control 3).swapbase.toNat + 0x300000 * 257 ≤ 0x8000000000) := by decide +kernel

/-- Of `RegistersActOnReadsAndWrites`: blocks that are busy and that are not, waiting and not; a parked port; a trapped context that can
return, and one that cannot. -/
theorem witness_registersActOnReadsAndWrites :
    let t := fun (b : Bool) => { s0 with dev := { s0.dev with trans := [(3, { busy := b, mark := 2 })] } }
    s0.dev.tripped = false ∧ ((t false).trans 3).busy = false ∧ ((t true).trans 3).busy = true ∧ (t true).tlbiWaits 3 = false ∧
      ({ t true with reqs := [rq 1 .read] } : State).tlbiWaits 3 = true ∧ ((oneCore { parkQ := [(0, 2)] }).core 0).parkQ = [(0, 2)] ∧
      ((portState { act := true, park := true }).port 0 0 2).act = true ∧ ((portState { act := true, park := true }).port 0 0 2).park = true ∧
      (let r := fun (ra : Nat) => (oneCore { ctxs := [(0, { trapped := true, pend := true, bind := some user })] }).store none (spad 0 8)
         (leBytes 8 ra) false
       (r 4).isTrapped 0 0 = true ∧ s0.isTrapped 0 0 = false ∧ ((r 4).returnFromTrap 0 0 fun s c => s.abandon 0 0 c).isSome = true ∧
        ((r 2).returnFromTrap 0 0 fun s c => s.abandon 0 0 c).isNone = true) := by decide +kernel

/-- Of `HostAccessesAndMoves`: accesses that BAR2 and the windows allow, registers of BAR0, moves that are refused and that are not, each
mode of a port. -/
theorem witness_hostAccessesAndMoves :
    let s := windowed s0
    s.dev.tripped = false ∧ (fnSrc 4).ten = 3 ∧ inBar2 4 0x7FFFFFFFF8 8 = true ∧ inBar2 4 0x7FFFFFFFF9 8 = false ∧
      (∀ a ∈ [AccessKind.read, .write, .atomic], s.windowOk 3 0x7FFFFFFFF8 0x7FFFFFFFFF a = true) ∧ s.badIn 0x7FFFFFFFF8 8 = false ∧
      atomicAt .add 0x7FFFFFFFF8 8 = true ∧ s.windowOk 3 0x7FFFFFFFF8 0x7FFFFFFFFF .read = true ∧
      s.windowOk 5 0x7FFFFFFFF8 0x7FFFFFFFFF .read = false ∧ inDram 0x7FFFFFFFF8 = true ∧ barOffset 0 0x1000008 = some 0x1000008 ∧
      regAccess 0x1000008 8 = true ∧
      (s.cpart 0).valid = true ∧ s.moveRefused 0 = true ∧ s.moveRefused 1 = false ∧ (s.cpart 1).valid = false ∧
      ({ s with dev := { s.dev with cparts := [(0, { busy := true })] } } : State).moveRefused 0 = true ∧ s.dev.bridge.up = true ∧
      (s.eth 0).mode = 0 ∧ ({ pcfg := 0x0000010000000000 } : EthPort).fctr ≠ ({ pcfg := 0x0000010000000000 } : EthPort).frctr ∧
      s.ringTaken 0 = false := by decide +kernel

/-- Of `ResetsBootTemperatureAndLinks`: boot at its check, temperatures at their limits, links up, down, and retraining for too long. -/
theorem witness_resetsBootTemperatureAndLinks :
    let link := fun (b : Bridge) => ({ s0 with gtc := 200001, dev := { s0.dev with bridge := b, bootStage := 2, tcfg := 1 } } : State)
    let eth := fun (e : EthPort) => { windowed s0 with gtc := 200001, dev := { (windowed s0).dev with ports := [(0, e)] } }
    (link {}).dev.bootStage = 2 ∧ (link {}).dev.bootFail = 0 ∧ (link {}).dev.tripped = false ∧
      (∀ n ∈ [1, 2, 3, 4], ({ dev := { bootStage := n } } : State).dev.bootStage = n) ∧ (link {}).timeSource = true ∧ s0.dev.therm.getLsbD 16 = false ∧
      95 * 16 ≤ 1520 ∧ 105 * 16 ≤ 1680 ∧ (link {}).dev.bridge.up = true ∧ (link { retrain := some 100001 }).gtc - 100001 ≤ 100000 ∧
      100000 < (link { retrain := some 100000 }).gtc - 100000 ∧ (link { up := false, retrain := some 5 }).dev.bridge.up = false ∧
      ((eth { up := true, pcfg := 0x30000001 }).eth 0).up = true ∧ ((eth { up := true, pcfg := 0x30000001 }).eth 0).mode = 1 ∧
      ((eth { up := true, pcfg := 0x30000001 }).eth 0).ten = 3 ∧ inWord8 0x4000 8 = true ∧
      (eth {}).windowOk 3 0x4000 0x4007 .read = true ∧ (eth {}).windowOk 3 0x4000 0x4007 .write = true ∧ ((eth {}).eth 0).up = false ∧ (eth {}).frozen (spadCore (spad 0 0)) = false := by
  decide +kernel

/-- A datagram of the subset. -/
def udp : Gvsp := { udp4 := true, port := 0, ext := true, status := 0, block := 7, form := .leader, ptype := 1 }
/-- Of `FramesFillTheirSlots`: datagrams of the subset and one that is not; a port that receives, with a free slot and without, a block
dropped and one not, its frame in hand, one that has waited too long; a port of the host's ring. -/
theorem witness_framesFillTheirSlots :
    let e : EthPort := { up := true, pcfg := 0x0000050430000002, rcfg := 0x0001000200010400, rbase := 0x10000 }
    let at_ := fun (e : EthPort) (host : BitVec 64) (r : Ctr) => { windowed s0 with gtc := 5000, dev := { (windowed s0).dev with
      ports := [(0, e)], control := [(3, { fsplit := host })], launch := [(3, { ctrs := [(4, r), (5, {})] })] } }
    let f : Frame := { block := 7, lgtc := 0, lastAt := 0 }
    let ok := fun (g : Gvsp) =>
      g.udp4 = true ∧ g.port = e.pcfg.toNat / 2 ^ 48 ∧ g.ext = true ∧ g.status = 0 ∧ g.form ≠ .other ∧ (g.form ≠ .payload → g.ptype = 1)
    (ok udp ∧ ok { udp with form := .payload } ∧ ok { udp with form := .trailer } ∧ ¬ ok { udp with status := 5 }) ∧
    (at_ e 0 open5).receives 0 false = true ∧ e.frame.isNone = true ∧ e.held = false ∧ e.dropped.contains 7 = false ∧
      { e with dropped := [7] }.dropped.contains 7 = true ∧ ((at_ e 0 open5).ctr 3 4).count = 4 ∧
      ((at_ e 0 {}).ctr 3 4).count = 0 ∧ ((at_ e 0 open5).ctr 3 4).parBad = false ∧
      (at_ { e with frame := some f } 0 open5).receives 0 false = true ∧ e.slotSize = 0x10000 ∧ e.pktSize = 0x400 ∧
      (at_ e 0 open5).windowOk 3 (0x10000 + 256) (0x10000 + 256 + 7) .write = true ∧ e.timeout = 1 ∧ e.timeout * 1000 ≤ 5000 - f.lastAt ∧
      (at_ e 8 open5).receives 0 true = true := by decide +kernel

/-! ### Forms and corners -/

/-- Of `ElidedRegionsOpenActCommitAndAbort`: a lock that the windows let a port read, one that they do not, a poisoned one; a region whose
writes the windows let through, by address and by local offset; one more line, and pages that are not write-back. -/
theorem witness_elidedRegionsMeetTheirWindows :
    let w := windowed s0
    let e : Elide := { region 1 with writes := [(0x4000, 7)], wbad := [(0x800, true)] }
    let far : Elide := { region 1 with writes := [(spad 1 0, 7)], locs := [spad 1 0 / 8] }
    let lets := fun (s : State) (e : Elide) (w : Nat) => e.locs.contains w || s.windowOk 3 (8 * w) (8 * w + 7) .write
    w.windowOk 3 0x4000 0x4007 .read = true ∧ s0.windowOk 3 0x4000 0x4007 .read = false ∧
      (w.markBad 0x4000 8 true 1).badIn 0x4000 8 = true ∧ w.badIn 0x4000 8 = false ∧
      (∀ p ∈ e.writes, lets w e (p.1 / 8) = true) ∧ (∀ p ∈ far.writes, lets s0 far (p.1 / 8) = true) ∧ lets s0 e 0x800 = false ∧
      (e.writes.map (·.1)).Nodup ∧ (e.wbad.map (·.1)).Nodup := by decide +kernel

/-- Of the same: an operand that an atomic takes, one that is poisoned, the last word of the scratchpad; a page that is not write-back. -/
theorem witness_elidedFormsAct :
    let s := apState { regs with elide := some (region 31) }
    let u := apIn {} { s with tlb := [⟨0, 3, 0, 1, 0x401F⟩] }
    (s.me.areg 4).bad = false ∧ ((apState { a := [(4, { bad := true })] }).me.areg 4).bad = true ∧ canUse s 5 = true ∧ s.busyP 2 = false ∧
      effVal s 6 0 % 8 = 0 ∧ effVal s 6 0 + 8 ≤ 0x200000 ∧ (apIn {} s).mustWait s.cur.tid (spad 0 0x1FFFF8) 8 = false ∧
      (lands u 0x2000 8 .read).1.ord ≠ .rc := by decide +kernel

/-- Of `StreamRecordsQueriesAndMasks`: a source with a full line to save, and one that a restore has not yet placed. -/
theorem witness_savedLines :
    let s := portState { cfg := plain, act := true, lines := [{ pos := {}, full := true }] }
    (s.port 0 0 2).fullRun.length = 1 ∧ effVal s 3 0 + 128 + 256 * Conf.lines plain ≤ 0x200000 ∧
      (apIn {} s).mustWait s.cur.tid (spad 0 0x2000) (128 + 256) = false ∧ (s.port 0 0 2).restored = 0 ∧
      ((portState { cfg := plain, act := true, restored := 1 }).port 0 0 2).restored ≠ 0 := by decide +kernel

/-- Of `CopyIssueAndCompletionForms`: a GATHER, whose check reads its index list. -/
theorem witness_aListThatTheCheckReads :
    let b := kindOf 2 7 0x0001000100020010 (0x300 * 2 ^ 448)
    Blk.checked b = 8 ∧ (apIn {} s0).mustWait s0.cur.tid (spad 0 (Blk.idxAt b)) (Blk.checked b) = false ∧ Blk.checked small = 0 := by decide +kernel

/-- Of `WaitsAndBarriersEndOrGoOn`: a barrier whose state is poisoned, and one that a condition of a WAIT names. -/
theorem witness_poisonedBarriers :
    let s := s0.setBar 0 17 { e := 2, a := 1, p := true, bad := true }
    (s.bar 0 17).bad = true ∧ (s0.bar 0 17).bad = false ∧ (17 : Nat) < 2048 ∧ condKind (condEntry 0x0000000C00004002 0) = 2 := by decide +kernel

/-- Of `SpecialRegisterFormsAndValues`: halves that see every register as it is, and one that does not yet. -/
theorem witness_seenRegisters :
    (s0.half s0.cur.tid).srSeen = [] ∧ ((s0.hideSr s0.cur.tid 0x21).half ⟨0, 0, .xp⟩).srSeen ≠ [] := by decide +kernel

/-- Of `DoneAndStoreOnlyLiteral`: a sink with a line that has not drained; a chain that runs, and one that has ended. -/
theorem witness_doneWaitsForWhatItEnds :
    let u := fun (s : State) => (apIn {} s).endPorts 0 0
    let finished := fun (s : State) => s.chainsOver 0 0 && ((s.core 0).cmds.all fun q => q.ctx != 0) && s.allPerformed 0 0
    (u (portState { cfg := sink, act := true, lines := [{ pos := {}, full := true }] })).sinksDrained 0 0 = false ∧
      (u (portState { cfg := sink, act := true })).sinksDrained 0 0 = true ∧ finished (u s0) = true ∧
      finished ((List.range 4).foldl (fun s n => s.stopChain 0 0 n)
        (u (chained { next := none, running := true, posts := [{ post := none, cmd := some 3, last := true }] }))) = false ∧
      finished ((List.range 4).foldl (fun s n => s.stopChain 0 0 n) (u (chained { next := some 0x2000, running := true }))) = true := by decide +kernel

/-- Of `PortsArePoppedAndPushed`: lines that wait for their mask, lines whose mask was poisoned; a sink whose mask keeps no position. -/
theorem witness_portsOfRestoredStreams :
    let p := fun (q : Port) => (xpState { vregs with ports := [(2, q)] }).port 0 0 2
    let l : Line := { pos := {}, full := true }
    (∀ b ∈ [false, true], let q : Port := { cfg := plain, act := true, lines := [l], restored := 1, blocked := b }
      (p q).ended = false ∧ (p q).lines = [l] ∧ (p q).restored ≠ 0 ∧ (p q).blocked = b) ∧
    (let c : Conf := SMap.put sink 0 (0x43 + 2 ^ 22 * 2 + 2 ^ 21)
     Conf.keeps sink none {} = true ∧ Conf.sink c = true) := by decide +kernel

/-- Of `VectorConversionForms`: pairs of R254 and of R256, and pairs that are neither. -/
theorem witness_conversionPairs :
    (Instr.vcvt {} (v 3) (v 1) .i32 .i8 3).wf = true ∧ (Instr.vcvtzr {} (v 3) (v 1) .f32 .i8 3).wf = true ∧
      (Instr.vnars {} (v 3) (v 1) .i8 .i32 3).wf = true ∧ (Instr.vcvtzr {} (v 3) (v 1) .i32 .i8 3).wf = false ∧
      (Instr.vcvt {} (v 3) (v 1) .i8 .i8 0).wf = false ∧ (Instr.vnars {} (v 3) (v 1) .i32 .i8 3).wf = false ∧
      isInt .i8 = true ∧ isInt .f32 = false := by decide +kernel

/-- Of `XpScalarLoopAndBranchForms`: a header that is no data literal, one that is poisoned, one whose range runs past the vectors; a stack
that is full. -/
theorem witness_xloopHeaders :
    let hdr := fun (n : Nat) => placeBytes [] 0x84 (leBytes 4 (63 * 2 ^ 26) ++ leBytes 16 n)
    let k := fun (c : Core) => ((xpState vregs c).core 0).dataLiteral 0x84
    k {} = none ∧ k { imem := hdr 0x7F7F } = some 0x7F7F ∧
      ((List.range 5).any fun i => ((xpState vregs { imemBad := [(0x84 / 4, true)] }).core 0).imemBad.get false (0x84 / 4 + i)) = true ∧
      ¬ (bits 0x7F7F 6 0 + (bits 0x7F7F 14 8 + 1) ≤ 128) ∧ bits 0x0308 6 0 + (bits 0x0308 14 8 + 1) ≤ 128 ∧
      4 ≤ (xpState { vregs with xpLoops := List.replicate 4 ⟨0, 0, 1, 0, []⟩ }).me.xpLoops.length := by decide +kernel

/-- Of `DataUnitsAndWorkListsArrive`: a pass of each kind and a score at the head of their queues. -/
theorem witness_passesAndScores :
    let mul := fun (wf : Fmt) => ArrOp.mul 0 false false .n8 wf false 0x3F80 0x3F800000 0 true [true] 7 0 0x80
    (∀ wf ∈ [Fmt.n8, .e4m3], ((xpState { mx := { bankA := { fmt := wf } } } { arrayQ := [mul wf] }).core 0).arrayQ ≠ []) := by decide +kernel

/-- Of `WaitsBarriersHandlersAndFreezes`: an arrival whose sender's core is frozen, a list of parked ports, a freeze that began. -/
theorem witness_freezesHoldBack :
    let m : BarMsg := { id := 1, src := ⟨0, 0, .ap⟩, core := 1, bar := 7 }
    let s := ({ s0 with barMsgs := [m] } : State).modCore 0 fun c => { c with freezes := 1, frozenAt := some 0 }
    s.frozen 0 = true ∧ s.frozen 1 = false ∧ s0.frozen 0 = false ∧ (s.core 0).frozenAt = some 0 ∧ 0 ≤ s.cc ∧
      (((portState { act := true, park := true }).modCore 0 fun c => { c with parkQ := [(0, 2)] }).core 0).parkList = [(0, 2)] ∧
      (s0.core 0).parkList = [] := by decide +kernel

/-- Of `StreamElementsMoveAndArrive`: the turn of a source, that of the next one, a sink's line past the end, a target that is no peer
source. -/
theorem witness_streamTurns :
    let s := portState { cfg := localConf false, act := true }
    let turn := fun (i : Nat) => inTurn 80 (s.core 0).genTurn (fun j => s.canGenerate 0 (j / 16) (j % 16)) i
    turn 2 = true ∧ turn 3 = false ∧ (s.core 0).genAt ≠ some (s.coreCc 0) ∧ Conf.atEnd (localConf true) (Conf.pastEnd (localConf true)) = true ∧
      Conf.atEnd (localConf true) {} = false ∧ (s.port 0 0 2).peerSource = false := by decide +kernel

/-- Of `ChainsAndCountersMove`: an entry of KIND 01h whose command passes its check and has room, one that waits for slots too, one of
another channel, and one with no room. -/
theorem witness_chainEntriesIssue :
    let e := fun (b : Nat) (w : Nat) => ({ va := 0x2000, raw := BitVec.ofNat 1024 (1 + 2 ^ 11 + w + b * 2 ^ 512) } : ChainEntry)
    let b := fun (n : Nat) => small.toNat + n * 2 ^ 32
    let h := fun (b w : Nat) => ({ next := some 0x2000, running := true, entry := some (e b w) } : Chain)
    let st := fun (b w : Nat) => ctr5 { open5 with waiters := [(0, 0, 1)] } (chained (h b w))
    (∀ w ∈ [0, 2 ^ 9 + 5 * 2 ^ 16 + 4 * 2 ^ 32], let s := st (b 1) w
     s.chainOf 0 0 1 = some (h (b 1) w) ∧ (e (b 1) w).kind = 1 ∧ s.cmdRoom 0 0 (chainBlk (e (b 1) w).cmd 1) = true ∧
      (match s.checkBlk 0 0 (e (b 1) w).cmd with | .ok none => true | _ => false) = true ∧ Blk.chan (e (b 1) w).cmd = 1 ∧
      Blk.timed (e (b 1) w).cmd = false) ∧
    Blk.chan (e (b 2) 0).cmd ≠ 1 ∧
    (let full := (st (b 1) 0).modMe fun c => { c with counts := [(2, 255)] }
     full.cmdRoom 0 0 (chainBlk (e (b 1) 0).cmd 1) = false) ∧
    (({ open5 with ccfg := 0 } : Ctr).refusesWait = true) := by decide +kernel

/-- Of `SummitBindsSteps`, `SummitCompletesNodes` and `StepsAreSetAsideAndBoundAgain`: a frozen core of the gang, of the channel and of a
member; a step that may ask others to yield. -/
theorem witness_summitWaitsForFrozenCores :
    let s := (graph (summit card node tstep) 0).modCore 0 fun c => { c with freezes := 1 }
    s.frozen 0 = true ∧ s.bindable tstep = true ∧ fairNext s.rivals (lagsOf s.rivals s.dev.fairLag) = some 3 ∧
      (match (stepNeeds tstep card) s with
        | (.ok (_, h), u) => (gangCores 0 h.shape).any u.frozen
        | _ => false) = true ∧
      s.binds 3 = true ∧ s.cardOpen tstep = true ∧ ((s.partition 3).find? fun k => s.channelFree k && s.reachable k) = some 0 ∧
      (summit card node tstep).frozen 0 = false ∧ (s.launch 3).lcfg.getLsbD 8 = true ∧ (s.launch 4).lcfg.getLsbD 8 = false := by decide +kernel

/-- Of `PartitionsHaltAndSwap`: a set parked in the other mode, a set that finds no room while a core is frozen, a member of a halt. -/
theorem witness_parkedSetsThatCannotComeBack :
    let c : ParkedCtx := { ctx := 0, rank := 0, held := { bind := some user }, parked := [], cmds := [], toks := [] }
    let p : Parked := { host := true, clusters := [0], ctxs := [c], bars := [] }
    let s := { oneCore {} with dev := { s0.dev with control := [(3, { swap := 2 })], parked := [(3, p)] } }
    let q : Parked := { p with host := false }
    s.parkedSet 3 = none ∧ (s.dev.parked.find? fun p => p.1 == 3) = some (3, p) ∧
      (s.modCore 0 fun c => { c with freezes := 1 }).roomFor 3 q = false ∧ s.roomFor 3 q = true ∧ s.tableRoom 3 q = true ∧
      c.held.ap.heldBad = false ∧ c.held.xp.heldBad = false ∧ ((s0.ctx 0 0).bind.map (·.tenant)) = some 3 := by decide +kernel

/-- Of `ResetsBootTemperatureAndLinks`: the boot ROM before and after an image has come. -/
theorem witness_bootWaitsForAnImage :
    let s := fun (b : Bool) => ({ dev := { bootStage := 2, imageIn := b } } : State)
    ∀ b ∈ [false, true], (s b).dev.bootStage = 2 ∧ (s b).dev.imageIn = b ∧ (s b).dev.bootFail = 0 ∧ (s b).dev.tripped = false := by decide +kernel

/-! ### Waits, records, refusals, swaps -/

/-- Of `StreamsAreShadowedAndStarted`: a codec stream, whose table block no store of its thread awaits. -/
theorem witness_codecStreamsAwaitTheirTable :
    let c : Conf := SMap.put (SMap.put (localConf false) 0 0x35) 7 0x886800
    let s := portState { shadow := c }
    Conf.isCodec c = true ∧ (apIn {} s).mustWait s.cur.tid (spad 0 (Conf.tbl c)) 512 = false ∧ ((apIn {} s).core 0).tablesHeld < 16 ∧
      Conf.isCodec plain = false := by decide +kernel

set_option maxRecDepth 100000 in
/-- Of `StreamRecordsQueriesAndMasks`: a record with one saved line, which SRSTR takes back; ports that stand at no fault and within no line. -/
theorem witness_savedLinesAreRestored :
    let s := portState { cfg := plain, act := true, lines := [{ pos := {}, full := true }] }
    let r := (s.port 0 0 2).record ((apIn {} s).drained 0 0 2) true 1 (Conf.bump plain {} 1 5)
    let t := apIn {} (s0.store none (spad 0 0x2000) r false)
    let bs := t.bytes (spad 0 0x2000) 128
    let q := (t.port 0 0 2).restore (recordConf bs) none bs 0 1
    (s.port 0 0 2).beforeFault = false ∧ (s.port 0 0 2).midDrain = false ∧ (s.port 0 0 2).fullRun.length = 1 ∧
      bit (leNat ((bs.drop 8).take 8)) 57 = true ∧ bits (leNat (bs.drop 64)) 252 246 = 1 ∧ recordOk (recordConf bs) bs false = true ∧
      (match t.checkConf 0 0 2 (recordConf bs) (t.portBusy 0 0 2) with | .ok none => true | _ => false) = true ∧
      t.badIn (spad 0 0x2000) 128 = false ∧ 0x2000 + 128 + 256 * Conf.lines (recordConf bs) ≤ 0x200000 ∧
      t.mustWait t.cur.tid (spad 0 0x2080) 256 = false ∧ t.ringAwaits 0 q 1 = false ∧ 0x2000 + 128 + 256 * 1 ≤ q.lineAt 0 := by decide +kernel

/-- Of `CopyIssueAndCompletionForms`: a copy form that waits with the block it has read, and one that has read none; a channel or tag with
no room. -/
theorem witness_copiesKeepTheirBlock :
    let kept := fun (s : State) => (s.half s.cur.tid).stall.bind fun w => if w.issued then w.blk else none
    let w : Stall := { issued := true, since := 0, acc := 0, deadline := none, blk := some (small, 0) }
    let full := apState { regs with counts := [(2, 255)] }
    kept (apState { regs with ap := { stall := some w } }) = some (small, 0) ∧ kept s0 = none ∧ (apIn {} full).cmdRoom 0 0 small = false ∧
      (apIn {} s0).cmdRoom 0 0 small = true ∧ Blk.timed small = false ∧ apGoPlain {} (apState { regs with ap := { stall := some w } }) = true := by
  decide +kernel

/-- Of `WaitsAndBarriersEndOrGoOn`: a word that has not issued, one that waits and whose condition holds, does not hold, or reads poison, one
that has latched a result; a frozen core; deadlines of this cycle and of a later one. -/
theorem witness_waitsLatch :
    let c : WaitSet := { all := false, n := 1, blk := 5 * 2 ^ 32 + 1 }
    let b : WaitSet := { all := false, n := 1, blk := 12 * 2 ^ 32 + 0x4002 }
    let w := fun (c : WaitSet) (l : Option (Option Nat)) => ({ issued := true, since := 0, acc := 0, deadline := some 9, conds := some c, latched := l } : Stall)
    let s := fun (w : Stall) (n : BitVec 64) => apState { regs with ap := { stall := some w }, tags := n }
    (s0.half s0.cur.tid).stall.bind (·.deadline) = none ∧ ((s (w c none) 0).half s0.cur.tid).stall = some (w c none) ∧
      (s (w c none) 32).waitEnd s0.cur.tid c false = some (some 1) ∧ (s (w c none) 0).waitEnd s0.cur.tid c false = none ∧
      ((s (w b none) 0).setBar 0 12 { bad := true }).waitEnd s0.cur.tid b false = some none ∧
      ((s (w c (some (some 256))) 0).half s0.cur.tid).stall = some (w c (some (some 256))) ∧ (s (w c none) 0).runnable s0.cur.tid = true ∧
      ((s (w c none) 0).modCore 0 fun k => { k with freezes := 1 }).frozen 0 = true ∧ ¬ (9 ≤ s0.gtc ∨ 9 < s0.gtc + 1) ∧ (9 ≤ s0.gtc ∨ 9 < s0.gtc + 10) := by
  decide +kernel

/-- Of `WorkListChainAndJobForms`: a poisoned operand, an entry of a chain that has taken its slots, one that has not. -/
theorem witness_poisonedEntriesAndTakenSlots :
    let s := apState { a := [(4, { v := 7, bad := true })] }
    let e := fun (b : Bool) => ({ va := 0x2000, raw := 0, took := b } : ChainEntry)
    let c := fun (b : Bool) => chained { next := none, running := true, entry := some (e b) }
    (s.me.areg 4).bad = true ∧ s.busyA 4 = false ∧ (s0.me.areg 4).bad = false ∧
      (∀ b ∈ [false, true], ((c b).me.chan 1).chain.bind (·.entry) = some (e b)) := by decide +kernel

/-- Of `ReturnsFromATrapResumeTheContext` and `DoneAndStoreOnlyLiteral`: a record that no access of the handler awaits, one whose region has
aborted since; a failed sink of a card's step. -/
theorem witness_recordsSettleAndSinksFail :
    let r := fun (x : Ctx) => sysState {} { ctxs := [(0, { x with trapped := true, pend := true, bind := some user })] }
    let c : Card := { card with id := user.card }
    let f := { portState { cfg := sink, act := true, flt := true } with dev := { s0.dev with cards := [c] } }
    (apIn {} (r {})).mustWait (r {}).cur.tid (spad 0 8) 8 = false ∧ (apIn {} (r {})).mustWait (r {}).cur.tid (spad 0 72) 1 = false ∧
      ((r { redirect := some 0x40 }).ctx 0 0).redirect = some 0x40 ∧ f.me.bind = some user ∧ (f.port 0 0 2).act = true ∧
      Conf.sink (f.port 0 0 2).cfg = true ∧ (f.port 0 0 2).flt = true ∧ c ∈ f.dev.cards ∧ c.id = user.card ∧ c.note = none := by decide +kernel

/-- Of `RequestsPerformWaitOrAreRefused`: a refused request with a register, whose tenant's log has room and has none; a poisoned location. -/
theorem witness_refusedRequestsWithARegister :
    let q := { rq 1 .read with pa := 0x10000000000 - 8, dst := .areg 5 .q8 false 0 }
    let s := fun (l : Log) => { withReqs [q] with dev := { s0.dev with control := [(3, { log := l })] } }
    (∀ l ∈ ([{}, { base := 0x8000, cfg := 0x480 }] : List Log), ((s l).chunk q).all (s l).mayPerform = true ∧ (s l).reqAllowed q = false ∧
      (inSpad q.pa && (s l).frozen (spadCore q.pa)) = false ∧ ((s l).src 0 0).log = some 3) ∧
    ({} : Log).room = false ∧ ({ base := 0x8000, cfg := 0x480 } : Log).room = true ∧
    (let s := (withReqs [{ rq 1 .add with dst := .areg 5 .q8 false 0 }]).markBad 0x4000 8 true 1
     s.badIn 0x4000 8 = true ∧ opUsesOld .add = true ∧ opCompares (.cas 0) = true) := by decide +kernel

/-- Of `DataUnitsAndWorkListsArrive`: lists that spill and refill within the windows, and one that does both at once. -/
theorem witness_workListsSpillAndRefill :
    let w : WorkList := { base := 0x2000, cfg := 0x0002000000000000, back := List.replicate 512 (7, true), spN := 1 }
    let full : WorkList := { w with front := List.replicate 3584 (0, false) }
    let s := fun (w : WorkList) => windowed (apState { wl := w })
    512 ≤ w.back.length ∧ w.spN < w.nch ∧ w.onChip + 512 ≤ 4096 ∧ 4096 < full.onChip + 512 ∧ full.front.length = 3584 ∧
      (∀ a ∈ [AccessKind.read, .write], (match (s w).xlat ((s w).rq 0 0 10) (0x2000 + 2048 * (1 % 2)) 2048 2048 a with
        | (.ok p, t) => p.pa % 8 == 0 && !t.notNow 0 p.pa 2048 && t.windowOk 3 p.pa (p.pa + 2047) .read &&
          t.windowOk 3 p.pa (p.pa + 7) .write && t.windowOk 3 (p.pa + 2040) (p.pa + 2047) .write
        | _ => false) = true) := by decide +kernel

/-- Of `DataUnitsAndWorkListsArrive`: the lists that refill. -/
theorem witness_frontsThatTakeMore :
    ∀ n ∈ [0, 1536], let w : WorkList := { front := List.replicate n (0, false), spN := 1, cfg := 0x0002000000000000 }
      w.front.length ≤ 3584 ∧ 0 < w.spN ∧ w.flt = false := by decide +kernel

/-- Of `WaitsBarriersHandlersAndFreezes`: an arrival at a frozen core, whose sender's core is not. -/
theorem witness_arrivalsHeld :
    let m : BarMsg := { id := 1, src := ⟨0, 0, .ap⟩, core := 1, bar := 7 }
    let s := ({ s0 with barMsgs := [m] } : State).modCore 1 fun c => { c with freezes := 1, held := [.barrier 1] }
    s.frozen 0 = false ∧ s.frozen 1 = true ∧ (s.core 1).freezes = 1 ∧ (s.core 1).held = [.barrier 1] ∧
      (s.barMsgs.find? fun m => m.id == 1) = some m := by decide +kernel

/-- Of `CopyCommandsRunAndMoveTheirBytes`: a core with no command that moves by beats, and one with such a command. -/
theorem witness_pacedCommands :
    ((running (cmd small .waiting)).core 0).cmds.any Cmd.paced = false ∧ ((running (cmd small .running)).core 0).cmds.any Cmd.paced = true ∧
      (cmd small .waiting).work.isSome = true ∧
      (match (cmd small .waiting).work with | some m => !(running (cmd small .waiting)).usesRegs 0 (cmd small .waiting) m | none => false) = true := by
  decide +kernel

/-- Of the same: a COPY of E4M3 elements to FP32 ones, whose row keeps clear of its source, and a PUBLISH. -/
theorem witness_copiesPlaceTheirElements :
    ∀ kind ∈ [1, 5],
    let b : Blk := BitVec.ofNat 512 (0x30021000 + kind + 0x100 * 2 ^ 64 + 0x200 * 2 ^ 128 + 0x0001000100010010 * 2 ^ 192 + 0x3F800000 * 2 ^ 448
      + 0x00010010 * 2 ^ 480)
    let q := cmd b .waiting
    let s := running q
    (s.core 0).cmd 1 = some q ∧ s.canStart 0 q = true ∧ ((s.core 0).cmds.any Cmd.paced) = false ∧ q.res.codec = 0 ∧ Blk.kind b = kind ∧
      Blk.xpose b = false ∧ Blk.dspace b = 0 ∧ Blk.srcl b = true ∧ Blk.dstl b = true ∧ Blk.sfmtCode b = 0 ∧ Blk.dfmtCode b = 1 ∧
      Blk.count b 0 * (Blk.dfmt b).bits % 8 = 0 ∧ Blk.count b 0 = 16 ∧ Blk.count b 1 = 1 ∧ Blk.count b 2 = 1 ∧ Blk.count b 3 = 1 ∧
      Blk.dstElem b 0 0 0 0 = 0x200 ∧ Blk.srcRow b 0 0 0 = 0x100 ∧ s.halfRead (spad 0 0x200) (16 * (Blk.dfmt b).bits / 8) = false ∧
      0x100 + (Nat.min 16 (Blk.bound b 0) * (Blk.sfmt b).bits + 7) / 8 ≤ 0x200 := by decide +kernel

/-- Of `RowCommandsRunAndComplete`: an ended command in a cycle in which a word has read its channel, and in another; no block under way. -/
theorem witness_completionsOfASampledCycle :
    let q := cmd small .ended
    let s := (running q).modCore 0 fun c => { c with sampledAt := some 0 }
    (s.core 0).sampledAt = some (s.coreCc 0) ∧ ((running q).core 0).sampledAt ≠ some ((running q).coreCc 0) ∧
      ((running (coded 7 0)).core 0).midBlock 7 = false ∧ ((running (coded 8 0)).core 0).midBlock 8 = false ∧ q.bad = false := by decide +kernel

/-- Of `StreamElementsMoveAndArrive`: a line of which nothing has been read, and one that has been read in part. -/
theorem witness_linesReadInPart :
    let l : Line := { pos := {}, full := false, items := items4 }
    l.got = 0 ∧ l.part = 0 ∧ l.left items4 = items4 ∧ (({ l with got := 1 }.left items4).all fun i => i.pa.isNone) = true ∧ l.built.v = 0 ∧
      ((portState { cfg := localConf false, act := true, lines := [l] }).core 0).midBlock 7 = false := by decide +kernel

/-- Of `ChainsAndCountersMove`: an entry that has taken its slots, on a chain that stops and on one that runs, and one that waits behind
another; a counter that is disabled; a frozen core. -/
theorem witness_entriesThatTookTheirSlots :
    let e : ChainEntry := { va := 0x2000, raw := BitVec.ofNat 1024 (1 + 2 ^ 11 + 2 ^ 9 + 5 * 2 ^ 16 + 4 * 2 ^ 32 + small.toNat * 2 ^ 512 + 2 ^ 544) }
    let h := fun (t r : Bool) => ({ next := some 0x2000, running := r, entry := some { e with took := t } } : Chain)
    let s := ctr5 { open5 with waiters := [(0, 0, 2), (0, 0, 1)] } (chained (h false true))
    { e with took := true }.waits = false ∧ e.waits = true ∧ e.kind = 1 ∧ (s.ctr 3 e.wctr).waiters.head? ≠ some (0, 0, 1) ∧ (h true false).running = false ∧
      s.cmdRoom 0 0 (chainBlk e.cmd 1) = true ∧ (s.core 0).sampledAt ≠ some (s.coreCc 0) ∧
      ({ open5 with ccfg := 0 } : Ctr).en = false ∧ (s.modCore 0 fun c => { c with freezes := 1 }).frozen 0 = true ∧
      (s.ctr 3 5).waiters = [(0, 0, 2), (0, 0, 1)] := by decide +kernel

/-- Of `CardsAreAcceptedAndEnd`: a card whose STATE and DGTC can be written, one that has failed, and one that notes a failed sink. -/
theorem witness_cardsWriteTheirState :
    let s := windowed (summit card node tstep)
    (∀ o ∈ [56, 48], (match s.translate (sumRq 0 3) (card.va + o) 8 .write with
      | (.ok ps, u) => ps.length == 1 && (ps.all fun p => p.2 == 8 && u.windowOk 3 p.1.pa (p.1.pa + 7) .write)
      | _ => false) = true) ∧
    card.fail = none ∧ card.note = none ∧ s.cardOver { card with fail := some (3, 8, 0, 0) } = true := by decide +kernel

/-- Of `SummitCompletesNodes`: a transform node of a graph card whose chain is over, and one whose core is frozen. -/
theorem witness_transformNodesOfGraphCards :
    let r := { node with xform := true, chain := some 0 }
    let s := (graph (summit work r tstep) 0).modCtx 0 4 fun c => c.setChan 3 { c.chan 3 with chain := some { next := none } }
    let f := s.freeChannel r
    let s0 : State := { f with dev := { f.dev with runs := [] } }
    r.chain.any s.frozen = false ∧ s.transformEnd r = some true ∧ work.kind ≠ 3 ∧ work.fail = none ∧ s.hostMode 3 1 = false ∧
      r.chain.any (s.modCore 0 fun c => { c with freezes := 1 }).frozen = true ∧
      (match (stepNode work node.node) s0 with
        | (.ok (nn, _, d), u0) => match (readSucc 3 nn d) u0 with
          | (.ok ss, _) => ss == []
          | _ => false
        | _ => false) = true := by decide +kernel

/-- Of `HostAccessesAndMoves`: accesses that BAR2 takes and the windows refuse, an AtomicOp CAS on a clean and on a poisoned operand, registers
that a virtual function may write, write in part, and not write. -/
theorem witness_refusedHostAccesses :
    let s := windowed s0
    inBar2 5 0x4000 8 = true ∧ (∀ a ∈ [AccessKind.read, .write, .atomic], s.windowOk (fnSrc 5).ten 0x4000 0x4007 a = false) ∧
      hostAtomic (.cas 7) = true ∧ hostAtomic .add = true ∧ atomicAt (.cas 7) 0x4000 8 = true ∧ inBar2 4 0x4000 8 = true ∧
      s.windowOk (fnSrc 4).ten 0x4000 0x4007 .atomic = true ∧ (s.markBad 0x4000 8 true 1).badIn 0x4000 8 = true ∧ s.badIn 0x4000 8 = false ∧
      (∃ o t n, barOffset 4 o = some (0x1000000 + 3 * 0x10000 + o) ∧ regAccess (0x1000000 + 3 * 0x10000 + o) 8 = true ∧
        regAt ((0x1000000 + 3 * 0x10000 + o) / 8 * 8) = .ctr t n) ∧
      (∃ o t, barOffset 4 (0x10000 + o) = some (0x2000000 + 3 * 0x10000 + o) ∧ regAccess (0x2000000 + 3 * 0x10000 + o) 8 = true ∧
        regAt ((0x2000000 + 3 * 0x10000 + o) / 8 * 8) = .pctl t) ∧
      (∃ o t, regAt ((0x2000000 + 3 * 0x10000 + o) / 8 * 8) = .fsplit t) :=
  ⟨by decide +kernel, by decide +kernel, rfl, rfl, rfl, by decide +kernel, by decide +kernel, by decide +kernel, by decide +kernel,
    ⟨0x1000, 3, 0, by decide +kernel⟩, ⟨8, 3, by decide +kernel⟩, ⟨0, 3, by decide +kernel⟩⟩

/-- Of `ResetsBootTemperatureAndLinks`: a log whose ring a trip keeps the machine from, and one that it does not. -/
theorem witness_warningsOfATrippedDevice :
    let s := fun (b : BitVec 64) => ({ dev := { tripped := true, log := { base := b, cfg := 0x480 } } } : State)
    (s 0x8000).stopped (s 0x8000).dev.log.nextAt = false ∧ (s (BitVec.ofNat 64 (spad 0 0))).stopped (s (BitVec.ofNat 64 (spad 0 0))).dev.log.nextAt = true ∧
      ({} : State).stopped (spad 0 0) = false := by decide +kernel

/-- Of the same: a port that sends across the bridge, on a core that is frozen and on one that is not. -/
theorem witness_portsAcrossTheBridge :
    let c : Conf := SMap.put (SMap.put plain 0 (0x3 + 2 ^ 40)) 7 (0x6800 + 128 * 2 ^ 36)
    let b := { user with shape := 5, gang := 7 }
    let s : State := { cores := [(0, { ctxs := [(0, { bind := some b, ports := [(2, { cfg := c, act := true })] })] }),
      (128, { ctxs := [(0, { bind := some b })] })] }
    Conf.pval c = true ∧ Conf.pcore c = 128 ∧ s.crossing = [((0, 0, 2), (128, 0, Conf.pport c))] ∧ (s.port 0 0 2).act = true ∧ s.frozen 0 = false ∧
      (s.modCore 0 fun c => { c with freezes := 1 }).frozen 0 = true := by decide +kernel

/-- Of `FramesFillTheirSlots`: a leader over another frame, over its own, and with a slot held; windows that let a slot's header and an entry
of the host's ring be written. -/
theorem witness_leadersOverFrames :
    let e : EthPort := { up := true, pcfg := 0x0000050430000002, rcfg := 0x0001000200010400, rbase := 0x10000, hrbase := 0x20000 }
    let f : Frame := { block := 6, lgtc := 0, lastAt := 0 }
    let s := windowed s0
    { e with frame := some f }.frame = some f ∧ f.block ≠ udp.block.toNat ∧ { f with block := 7 }.block = udp.block.toNat ∧
      { e with held := true }.held = true ∧ e.frame = none ∧ s.windowOk e.ten (e.slotAt + 8) (e.slotAt + 255) .write = true ∧
      s.windowOk e.ten e.slotAt (e.slotAt + 7) .write = true ∧ s.windowOk e.ten (e.slotAt + 8) (e.slotAt + 23) .write = true ∧
      s.windowOk e.ten (e.slotAt + 32) (e.slotAt + 39) .write = true ∧
      s.windowOk e.ten (e.hrbase.toNat + 0x4000 * e.hidx) (e.hrbase.toNat + 0x4000 * e.hidx + 8 + 60 - 1) .write = true := by decide +kernel

/-- Of `PartitionsHaltAndSwap`: a context whose record is to settle when it is saved. -/
theorem witness_recordsSettleAtASwap :
    let s := oneCore { ctxs := [(0, { bind := some user, halted := true, trapped := true, redirect := some 0x40 })] }
    s.boundOf 3 = [(0, 0)] ∧ (s.ctx 0 0).redirect = some 0x40 ∧ s.nat (spad 0 8) 4 ≠ 0xFFFFFFFF ∧ s.frozen 0 = false := by decide +kernel

/-! ## The spec's worked examples -/

/-- A vector whose first lanes hold these values. -/
def lanes (l : List Nat) : BitVec 2048 := BitVec.ofNat 2048 (l.foldr (fun x y => x + 2 ^ 32 * y) 0)
/-- The state an instruction leads to. -/
def after (i : Instr) (s : State) : State :=
  match exec i s with
  | .next t => t
  | _ => s

/-- Example 01-1: the neighbours of core B7h to the north and to the east. -/
theorem test_neighbours : neighbour 0xB7 1 = some 0xB5 ∧ neighbour 0xB7 2 = some 0xBE := by decide +kernel

/-- Example 02-1 (R36), in 64 bits. -/
theorem test_division :
    let s := apState { a := [(3, { v := -7 }), (4, { v := 2 }), (6, { v := 7 }), (7, { v := BitVec.intMin 64 })] }
    ((after (.div {} 5 3 (.reg 4)) s).me.areg 5).v = -3 ∧ ((after (.rem {} 5 3 (.reg 4)) s).me.areg 5).v = -1 ∧
      ((after (.div {} 5 6 (.reg 0)) s).me.areg 5).v = -1 ∧ ((after (.rem {} 5 6 (.reg 0)) s).me.areg 5).v = 7 ∧
      ((after (.div {} 5 7 (.imm (-1))) s).me.areg 5).v = BitVec.intMin 64 ∧ ((after (.rem {} 5 7 (.imm (-1))) s).me.areg 5).v = 0 := by decide +kernel

/-- Example 02-2: FP32 to E4M3, BF16, FP16 and E5M2. -/
theorem test_conversions :
    [0x43E80000, 0x43EB0000, 0x447A0000, 0xFF800000, 0x3A800000, 0xBA800000].map (fun x => fmtCode .e4m3 .ne (fmtVal .f32 x)) =
      [0x7E, 0x7F, 0x7F, 0xFF, 0x00, 0x80] ∧
    fmtCode .bf16 .ne (fmtVal .f32 0x3F808000) = 0x3F80 ∧ fmtCode .f16 .ne (fmtVal .f32 0x477FF000) = 0x7C00 ∧
    [0x47EA6000, 0x7FC00000].map (fun x => fmtCode .e5m2 .ne (fmtVal .f32 x)) = [0x7F, 0x00] := by decide +kernel

/-- Example 02-3: one block quantised. -/
theorem test_quantise :
    quantise ([0x3E99999A, 0xBF99999A, 0x40200000, 0, 0x40E00000, 0xBD4CCCCD, 0x3A83126F, 0x40466666].map (floatVal f32F)) =
      (0x796, [1, 0xA, 4, 0, 7, 8, 0, 5]) := by decide +kernel

/-- Example 02-5: the tree sum with every lane active, without lane 1, and of lanes 1 and 2 alone. -/
theorem test_tree :
    let s := xpState { v := [(1, { v := lanes [0x4B800000, 0x3F800000, 0x3F800000] })], m := [(1, { v := ~~~2 }), (2, { v := 6 })] }
    [0, 1, 2].map (fun m => ((after (.vredf { lmask := m } 3 (v 1)) s).me.xreg 3).v) = [0x4B800000, 0x4B800000, 0x40000000] := by decide +kernel

/-- Example 03-1: the walk of tenant 3 to an 8 MiB page, then the same page as the source for IMEM, and an address that is not mapped. -/
theorem test_walk :
    let s : State := { dev := { trans := [(3, { ptroot := 0x40000001, twbase := [(0, 0x2000000017), (1, 0x40000021)], twlimit := [(0, 0x20FFFFE000), (1, 0x40006000)] })] } }
    let put := fun (s : State) (p : Nat × Nat) => s.store none p.1 (leBytes 8 p.2) false
    let s := [(0x40000008, 0x40002001), (0x40002010, 0x40004001), (0x40004018, 0x40006001), (0x40006028, 0x002001800000 + 0x6F)].foldl put s
    let r : Rq := { core := 0, ctx := 0, ten := 3, req := 0 }
    let t := (s.xlat r 0x20100602923458 8 8 .read).2
    let x := fun va acc => (t.xlat r va 8 8 acc).1
    (match x 0x20100602923458 .read with | .ok p => p.pa == 0x002001923458 && p.ord == .rc | _ => false) = true ∧
    (match x 0x20100602923458 .execute with
      | .error f => bits f.toNat 67 64 == 2 && bits f.toNat 71 68 == 0 && bits f.toNat 255 192 == 0x002001923458
      | _ => false) = true ∧
    (match x 0x40100602923458 .read with
      | .error f => bits f.toNat 67 64 == 1 && bits f.toNat 71 68 == 1 && bits f.toNat 76 74 == 4 && bits f.toNat 255 192 == 0x40000010
      | _ => false) = true := by decide +kernel

/-- Example 08-2: the group that stores and issues ADD a3, a4, 17, and the patch word 17003901h on template 5. -/
theorem test_literal_and_patch :
    decodeGroup 0 [] [0xFC00C005, 0, 0, 0x11, 0x02001901] = .ok ⟨.literal (some 5) true 0x02001901000000110000000000000000, 5⟩ ∧
    decodeGroup 0 [] [0x17003901] = .ok ⟨.patched 5 [⟨96, 0, 0x3901⟩], 1⟩ ∧
    applyPatches [⟨96, 0, 0x3901⟩] 0x02001901000000110000000000000000 = .ok 0x02003901000000110000000000000000 ∧
    decodeOp .ap 0x02003901000000110000000000000000 = .ok (.add {} 7 4 (.imm 17)) := ⟨rfl, rfl, rfl, rfl⟩

/-- A store-only literal for template 61: Table 08-3, ST 1, EX 0. -/
theorem test_store_only_literal :
    decodeGroup 0 [] [0xFC00803D, 4, 3, 2, 1] = .ok ⟨.literal (some 61) false 0x00000001000000020000000300000004, 5⟩ ∧
    decodeLiteral .xp (some 61) false 7 = .ok (some (.templateStoreLiteral 61 7)) := ⟨rfl, rfl⟩

/-- Example 09-3: the minimum of core 11h first, and the one of core 2Ah after it. -/
theorem test_packed_minima :
    let q := fun (b : BitVec 64) => { rq 1 .minp with data := b, dst := .areg 7 .q8 false 4 }
    let m := fun (old : Nat) (b : BitVec 64) =>
      after (.atomicPerform 1 false) ((withReqs [q b]).store none 0x4000 (leBytes 8 old) false)
    (m 0x900000004 0x500000007).nat 0x4000 8 = 0x500000007 ∧ ((m 0x900000004 0x500000007).reqs.map fun q => (q.res, q.wrote)) = [(0x900000004, true)] ∧
      (m 0x500000002 0x500000007).nat 0x4000 8 = 0x500000002 ∧ ((m 0x500000002 0x500000007).reqs.map (·.wrote)) = [false] := by decide +kernel

/-- Example 10-1: part 2 of an E4M3 vector. -/
theorem test_convert_part :
    let s := xpState { v := [(2, { v := lanes [0x43FA0000, 0xCE6E6B28, 0x7FC00001, 0x3A83126F] }), (9, { v := BitVec.allOnes 2048 })] }
    let r := ((after (.vcvt {} (v 9) (v 2) .e4m3 .f32 2) s).me.v.get {} 9).v
    r.extractLsb' 1024 32 = 0x0100FF7F ∧ r.extractLsb' 1056 480 = 0 ∧ r.extractLsb' 0 1024 = BitVec.allOnes 1024 ∧
      r.extractLsb' 1536 512 = BitVec.allOnes 512 := by decide +kernel

/-- Example 10-2: the first word of two bitmaps, in the ranks of A and of B. -/
theorem test_intersection :
    let s := xpState { v := [(1, { v := lanes [0x36, 0x101, 0x80000001] }), (2, { v := lanes [0x0C, 0x202, 0x11] })] }
    let a := after (.vbpfx {} (v 10) (v 1) 7) s
    let b := after (.vbpfx {} (v 11) (v 2) 7) s
    let base := fun (t : State) (i : Nat) => (t.me.v.get {} i).v
    [0, 1, 2].map (laneOf (base a 10)) = [0, 4, 6] ∧ [0, 1, 2].map (laneOf (base b 11)) = [0, 2, 4] ∧
    (let f := fun (w : BitVec 32) (h : Bool) (base : BitVec 2048) =>
       let t := xpState { v := [(1, { v := lanes [0x36, 0x101, 0x80000001] }), (2, { v := lanes [0x0C, 0x202, 0x11] }), (10, { v := base })], x := [(5, { v := w })] }
       laneOf ((after (.visect {} (v 20) (v 1) (v 2) (v 10) h 5) t).me.v.get {} 20).v
     f 0 false (lanes [0, 4, 6]) 0 = 1 ∧ f 0 true (lanes [0, 2, 4]) 0 = 0 ∧ f 1 false (lanes [0, 4, 6]) 0 = 0xFFFFFFFF ∧
      f 2 false (lanes [0, 4, 6]) 0 = 6 ∧ f 2 true (lanes [0, 2, 4]) 0 = 4 ∧ f 2 true (lanes [0, 2, 4]) 1 = 0xFFFFFFFF) := by decide +kernel

/-- Example 13-1: the WAIT ends with SAT bit 0 where tag 5 is set; else its deadline is the GTC of its issue and 2000. -/
theorem test_wait :
    let blk := 0x0000000500000001 + 0x0000000C00004002 * 2 ^ 128
    let s := fun (tags : BitVec 64) => (withBlock blk { apState { a := [(3, { v := 0x2000 }), (4, { v := 2000 })], tags := tags } with gtc := 100000 }).setBar 0 12
      { e := 2, a := 0, p := false }
    ((after (.wait {} 5 3 4 0 false 1) (s 32)).me.areg 5).v = 1 ∧
      (((after (.wait {} 5 3 4 0 false 1) (s 0)).half ⟨0, 0, .ap⟩).stall.bind (·.deadline)) = some 102000 := by decide +kernel

/-- Table 18-2: 2^f of lanes 48, 49, 60, 62 and 63. -/
theorem test_exp :
    [0x3F000000, 0xBF000000, 0x7FC00000, 0, 0x30800000].map fexp = [0x3FB504F3, 0x3F3504F3, 0x7FC00000, 0x3F800000, 0x3F800000] := by decide +kernel

/-- R112: bytes move, and the command ends with status 0. -/
theorem test_copy :
    let s := (running (cmd small .waiting)).store none (spad 0 0x100) (leBytes 16 0x0F0E0D0C0B0A09080706050403020100) false
    let t := after (.copy 0 1) s
    t.nat (spad 0 0x200) 16 = 0x0F0E0D0C0B0A09080706050403020100 ∧ ((t.core 0).cmd 1).map (fun q => q.res.status) = some 0 := by decide +kernel

end Sys2Proof.Tests
end

namespace Sys2Proof.Machine
open Sys2Proof

/-! ## Two-operand forms of the AP (R204) -/

theorem binA_ok {s : State} {rd ra : BitVec 5} {o : Op2} {f : BitVec 64 → BitVec 64 → BitVec 64}
    (ha : canUse s ra = true) (hb : canUse2 s o = true) (hd : s.busyA rd = false) :
    binA rd ra o f s = .ok (none, s.modMe (·.setA rd
      { v := f (aVal s ra) (op2Val s o), bad := false, taint := aTaint s ra || op2Taint s o })) := by
  unfold binA
  rw [Exec.bind_ok (needA_ok ha), Exec.bind_ok (needOp2_ok hb), Exec.bind_ok (writeA_ok hd)]
  rfl

/-- A two-operand form that executes writes its result to RD, with the taints of both operands (R203), whatever the operands'
values are. -/
theorem apWord_binA {h : ApHdr} {s : State} {rd ra : BitVec 5} {o : Op2} (g : apGo h s = true) (ha : canUse s ra = true)
    (hb : canUse2 s o = true) (hd : s.busyA rd = false) (f : BitVec 64 → BitVec 64 → BitVec 64) :
    apWord h false (binA rd ra o f) s = .next (apSets h s rd
      { v := f (aVal s ra) (op2Val s o), bad := false, taint := aTaint s ra || op2Taint s o }) := by
  have ha' : canUse (apIn h s) ra = true := by simpa [apIn] using ha
  have hb' : canUse2 (apIn h s) o = true := by simpa [apIn] using hb
  have hd' : (apIn h s).busyA rd = false := by simpa [apIn] using hd
  refine (apWord_done g Bool.noConfusion (binA_ok ha' hb' hd')).trans ?_
  simp [apSets, apIn]

/-! ## Sat as a clamp (R14) -/

theorem satS_eq_clamp (w : Nat) (x : Int) : satS w x = max (-2 ^ (w - 1)) (min (2 ^ (w - 1) - 1) x) := by
  have hp : (0 : Int) < 2 ^ (w - 1) := by positivity
  unfold satS
  push_cast
  split_ifs <;> omega

theorem satN_eq_clamp (w : Nat) (x : Int) : satN w x = max 0 (min (2 ^ w - 1) x) := by
  have hp : (0 : Int) < 2 ^ w := by positivity
  unfold satN
  push_cast
  split_ifs <;> omega

/-! ## IntDiv as the quotient and remainder of the values (R36)

The quotient of -2^63 and -1 is out of range: its code is that of -2^63 again, as R36 has it. -/

theorem sdiv_eq_ofInt_tdiv {w : Nat} (a b : BitVec w) : a.sdiv b = BitVec.ofInt w (a.toInt.tdiv b.toInt) :=
  BitVec.eq_of_toInt_eq (by rw [BitVec.toInt_sdiv, BitVec.toInt_ofInt])

theorem srem_eq_ofInt_tmod {w : Nat} (a b : BitVec w) : a.srem b = BitVec.ofInt w (a.toInt.tmod b.toInt) := by
  rw [← BitVec.toInt_srem, BitVec.ofInt_toInt]

theorem divS_eq (a b : BitVec 64) : divS a b = if b = 0 then -1 else BitVec.ofInt 64 (a.toInt.tdiv b.toInt) := by
  rw [divS, sdiv_eq_ofInt_tdiv]

theorem remS_eq (a b : BitVec 64) : remS a b = if b = 0 then a else BitVec.ofInt 64 (a.toInt.tmod b.toInt) := by
  rw [remS, srem_eq_ofInt_tmod]

theorem divN_eq (a b : BitVec 64) : divN a b = if b = 0 then -1 else BitVec.ofNat 64 (a.toNat / b.toNat) := by
  rw [divN, ← BitVec.toNat_udiv, BitVec.ofNat_toNat, BitVec.setWidth_eq]

theorem remN_eq (a b : BitVec 64) : remN a b = if b = 0 then a else BitVec.ofNat 64 (a.toNat % b.toNat) := by
  rw [remN, ← BitVec.toNat_umod, BitVec.ofNat_toNat, BitVec.setWidth_eq]

/-- Settles O11: each form is the two-operand form of its result, and that result is Sat as a clamp (R14) or IntDiv (R36). -/
theorem apSaturatingAndDivisionForms : Obligations.ApSaturatingAndDivisionForms := by
  intro h rd ra o s g ha hb hd a b R signed natural
  have form := apWord_binA g ha hb hd
  have hsigned (x : Int) : BitVec.ofInt 64 (satS 64 x) = signed x := congrArg _ (satS_eq_clamp 64 x)
  have hnatural (x : Int) : BitVec.ofInt 64 (satN 64 x) = natural x := congrArg _ (satN_eq_clamp 64 x)
  refine ⟨?adds, ?subs, ?addsn, ?subsn, ?div, ?rem, ?divn, ?remn⟩
  case adds => exact (form aluAdds).trans (congrArg R (hsigned _))
  case subs => exact (form aluSubs).trans (congrArg R (hsigned _))
  case addsn => exact (form aluAddsn).trans (congrArg R (hnatural _))
  case subsn => exact (form aluSubsn).trans (congrArg R (hnatural _))
  case div => exact (form aluDiv).trans (congrArg R (divS_eq a b))
  case rem => exact (form aluRem).trans (congrArg R (remS_eq a b))
  case divn => exact (form aluDivn).trans (congrArg R (divN_eq a b))
  case remn => exact (form aluRemn).trans (congrArg R (remN_eq a b))

end Sys2Proof.Machine

namespace Sys2Proof.Machine
open Sys2Proof

/-! ## Fetching and issuing in a turn

The ticks and cycles of a turn pass before its half fetches, and a WAIT of another context tests its conditions as they pass (R323): its
read can abort the half's elided region (R224), which sends the half to its fallback (R225). So the group that a half would fetch before
its turn need not be the one that it issues. -/

/-- A turn of a half: time passes, and then the half issues what it finds (R21, R185). -/
theorem step_issue {s : State} {t : Tid} {ticks cycles : Nat} {late : List Nat} {as : List Turn}
    (turn : s.agenda = ⟨ticks, .issue t, cycles, late⟩ :: as)
    (up : (({ s with agenda := as } : State).pass ticks cycles).dev.tripped = false) :
    step s = issue t late (({ s with agenda := as } : State).pass ticks cycles) := by
  simp [step, turn, up]

/-- A literal that is only stored is fetched as the instruction that stores it (R184, R185). -/
theorem fetch_storeOnly {s : State} {t : Tid} {n : BitVec 6} {op : BitVec 128} {words : Nat}
    (group : decodeGroup 0 [] ((s.core t.core).imemWords (s.half t).pc 5) = .ok ⟨.literal (some n) false op, words⟩)
    (sound : (s.core t.core).imemPoison (s.half t).pc words = false) (fresh : (s.half t).word = none) :
    s.fetch t = .word { tid := t, pc := (s.half t).pc, pcn := (s.half t).pc + 4 * words, op := op, store := some n }
      (.templateStoreLiteral n op) := by
  simp [State.fetch, State.fetchGroup, fresh, group, sound, decodeLiteral]

/-- A literal that is only stored takes no issue slot, and keeps no order of the halves (R187). -/
theorem issue_storeOnly {s : State} {t : Tid} {late : List Nat} {c : Cur} {n : BitVec 6} {op : BitVec 128}
    (may : s.mayIssue t late = true) (quiet : s.boundaryTrap t = none) (found : s.fetch t = .word c (.templateStoreLiteral n op)) :
    issue t late s = execTemplateStoreLiteral n op { s with cur := c } := by
  simp [issue, may, quiet, found, takesNoSlot, exec]

/-! ## A region that is struck as its AP's turn comes -/

/-- The AP of context 0. -/
def elider : Tid := ⟨0, 0, .ap⟩

/-- A region that holds back a byte written to local offset 0; its fallback is IMEM offset 20. -/
def heldRegion : Elide :=
  { rd := 0, fallback := 20, a := [], p := [], loops := [], lines := [spad 0 0 / 64], writes := [(spad 0 0, 1)]
    wbad := [(spad 0 0 / 8, false)], locs := [spad 0 0 / 8] }

/-- A WAIT for the word at local offset 0 to equal 1. -/
def flagWait : Stall :=
  { issued := true, since := 0, acc := 0, deadline := some 1000, conds := some { all := true, n := 1, blk := 2 ^ 64 + 4 } }

/-- Context 0 is in its region, at a NOP, and has the next turn, after one cycle; the literal at its fallback stores 7 into template 5.
Context 1 waits for the word that the region holds back. -/
def struckAtIssue : State :=
  { agenda := [{ act := .issue elider, cycles := 1, late := otherCtxs 0 }]
    cores := [(0, {
      imem := placeBytes (placeBytes [] 0 (literalBytes none (0x01 * 2 ^ 120))) 20 (literalBytes (some 5) 7)
      ctxs := [(0, { bind := some { released := true }, ap := { active := true }, elide := some heldRegion }),
        (1, { bind := some { released := true }, ap := { active := true, stall := some flagWait } })] })] }

/-- `struckAtIssue` once the cycle of its turn has passed. -/
def struckInCycle : State := ({ struckAtIssue with agenda := [] } : State).pass 0 1

/-- What the half would issue before its cycle passes: a word that stores no template. -/
theorem fetch_struckAtIssue :
    struckAtIssue.fetch elider = .word { tid := elider, pc := 0, pcn := 20, op := 0x01000000000000000000000000000000 } (.nop {}) := rfl

/-- The WAIT's read has struck the region, and the AP stands at its fallback (R224, R225). -/
theorem half_struckInCycle : struckInCycle.half elider = { pc := 20, active := true } := by decide +kernel

theorem imemWords_struckInCycle :
    (struckInCycle.core 0).imemWords 20 5 = [literalHeader true false 5, 7, 0, 0, 0] := by decide +kernel

/-- What the half finds in its turn: the literal at the fallback. -/
theorem fetch_struckInCycle :
    struckInCycle.fetch elider = .word { tid := elider, pc := 20, pcn := 40, op := 7, store := some 5 } (.templateStoreLiteral 5 7) := by
  have pc : (struckInCycle.half elider).pc = 20 := by rw [half_struckInCycle]
  have group : decodeGroup 0 [] ((struckInCycle.core elider.core).imemWords (struckInCycle.half elider).pc 5) =
      .ok ⟨.literal (some 5) false 7, 5⟩ := by
    rw [pc, show elider.core = 0 from rfl, imemWords_struckInCycle]; rfl
  rw [fetch_storeOnly group (by decide +kernel) (by rw [half_struckInCycle]; rfl), pc]

theorem step_struckAtIssue :
    ∃ u, step struckAtIssue = .next u ∧ (u.half elider).tmpl = [(5, 7)] := by
  refine ⟨_, (step_issue rfl (by decide +kernel)).trans
    (issue_storeOnly (s := struckInCycle) (by decide +kernel) (by decide +kernel) fetch_struckInCycle), ?_⟩
  decide +kernel

/-- Refutes O3: its second clause reads what half `t` fetches before the turn's cycles pass. Here a NOP that stores no template is fetched
then; as the cycle passes, another context's WAIT reads the word that the elided region of `t` holds back, the region aborts, and the step
issues the literal at the fallback, which stores a template. -/
theorem not_patchesReplaceOneField : ¬ Obligations.PatchesReplaceOneField := by
  intro ⟨_, templatesStay⟩
  obtain ⟨u, stepped, stored⟩ := step_struckAtIssue
  have kept : (u.half elider).tmpl = [] :=
    templatesStay struckAtIssue u elider 0 1 (otherCtxs 0) [] _ _ rfl fetch_struckAtIssue rfl (fun _ _ => nofun) stepped
  exact absurd (stored.symm.trans kept) (List.cons_ne_nil _ _)

end Sys2Proof.Machine
